-- ==== Sys2Proof/Word.lean ====
section
/-! DEFINITION. The words of the Streldor N4: 32-bit lane values and instruction words, 64-bit uniform values, bytes,
32 lanes, and the plainest arithmetic on them. -/

namespace Sys2Proof

/-- A 32-bit lane value or instruction word (R22, R51). -/
abbrev Word := BitVec 32

/-- A 64-bit uniform value (R31). -/
abbrev DWord := BitVec 64

/-- A memory byte (R219). -/
abbrev Byte := BitVec 8

/-- A per-lane mask: bit l stands for lane l (R4). -/
abbrev LaneMask := BitVec 32

/-- One value per lane, lane 0 first (R3, R4). -/
abbrev Lanes (α : Type) := Vector α 32

/-- The identity of a gang or thread (R399). -/
abbrev Ident := BitVec 64

/-- Build the 32 lanes from a function of the lane index. -/
def lanes {α : Type} (f : Fin 32 → α) : Lanes α := Vector.ofFn f

/-- The lane mask whose bit l is `f l` (R4). -/
def maskOf (f : Fin 32 → Bool) : LaneMask :=
  (List.finRange 32).foldl (fun m l => if f l then m ||| (1#32 <<< l.val) else m) 0#32

/-- Bit l of a lane mask. -/
def LaneMask.has (m : LaneMask) (l : Fin 32) : Bool := BitVec.getLsbD m l.val

/-- The lanes of a mask in ascending order. -/
def LaneMask.lanes (m : LaneMask) : List (Fin 32) := (List.finRange 32).filter fun l => LaneMask.has m l

/-- The lowest-numbered lane of a mask. -/
def LaneMask.lowest (m : LaneMask) : Option (Fin 32) := (LaneMask.lanes m).head?

/-- Number of lanes in a mask. -/
def LaneMask.count (m : LaneMask) : Nat := (LaneMask.lanes m).length

/-- Bit-wise sign extension of a field to 32 bits (R53). -/
def sext32 {n : Nat} (x : BitVec n) : Word := x.signExtend 32

/-- Bit-wise sign extension of a field to 64 bits (R53). -/
def sext64 {n : Nat} (x : BitVec n) : DWord := x.signExtend 64

/-- Zero extension to 64 bits. -/
def zext64 {n : Nat} (x : BitVec n) : DWord := x.zeroExtend 64

/-- The little-endian bytes of a number, lowest first (R3). -/
def bytesLE : Nat → Nat → List Byte
  | 0, _ => []
  | k + 1, n => BitVec.ofNat 8 n :: bytesLE k (n / 256)

/-- The number whose little-endian bytes are given (R3). -/
def natLE : List Byte → Nat
  | [] => 0
  | b :: bs => b.toNat + 256 * natLE bs

/-- Field [hi:lo] of a number (R2). -/
def natBits (n hi lo : Nat) : Nat := n / 2 ^ lo % 2 ^ (hi + 1 - lo)

end Sys2Proof
end

