-- ==== Sys2Proof/Config.lean ====
section
/-! DEFINITION. What an implementation fixes and the values the spec leaves open. The open values are constants without a
body, so no proof can see what they are; where each is used, and why it is open, is in the assumption log. -/

namespace Sys2Proof.Config

/-- An open bit for each list of numbers (log 5): a number for the rule that leaves it open, the value of the counter `State.fresh`,
and what it is asked for. What a lane sees of a pending long result is rule 0, and of an S register rule 1 (R57); whether a crew-mate's
store is seen early, rule 2 (R225); which version of a rewritten word a fetch returns, rule 3 (R92); which stores of a
VSPILL or DWACC an event takes, rule 4 (R131, R137); which lines of a long footprint are pinned, rule 6 (R193); which vent core takes an event,
rule 7 (R323); whether a step of a start is over, and for which reason it fails, rules 8 and 9 (R414, R417). -/
opaque freeBit : List Nat → Bool

/-- Extra cycles that pass at a step beyond the one an issued word takes (log 4). -/
opaque waitCycles : Nat → Nat

/-- A byte of a 128-byte line read under a key other than the one it stands under: generation of the material of the key it stands under and of
the reading key, line, byte within the line, and the 16 bytes of its block as they stand (R366, log 10). -/
opaque rekey (stored reading line index : Nat) (block : List Byte) : Byte

/-- Content of the SPDM responses that the spec names and does not give: certificates, digests, signatures, by kind
and the numbers that the item covers (R374, R375, log 17). -/
opaque spdmBytes : Nat → List Nat → List Byte

/-- A choice that the spec leaves open: which ASID, KID or window the firmware names (R361, log 36), and which line leaves a full cache (R12,
log 13). -/
opaque pick : Nat → Nat

/-- Page of the supervisor code that the firmware maps in every address space of a partition (R361, R382, log 37). -/
opaque supervisorPage : Nat → Nat

/-- Byte left in HBM by a die that failed while newer data of the line was elsewhere: a number that names the start, address (R395,
log 38). -/
opaque lostByte : Nat → Nat → Byte

end Sys2Proof.Config
end

