-- ==== Sys2Proof/Syntax.lean ====
section
/-! DEFINITION. The instructions and events of the N4 as syntax: one constructor of `Instr` per row of
spec/opcode_table.json. A 32-bit word's row carries the word's fields (R51, R52) with register numbers already turned
into names; `w` is always the switch marker SW (R56). An event's row carries what names the party, unit or request. -/

namespace Sys2Proof

/-- A 7-bit vector operand legal in a clause: V0-V115 or a vector queue port Q0-Q7 (R52). V116-V119 have no name here:
the decoder rejects them (R28). -/
inductive VOp where
  | v (n : Fin 116)
  | q (n : Fin 8)
  deriving DecidableEq, Repr

/-- A 6-bit uniform operand: S0-S55 or a scalar queue port SQ0-SQ7 (R52). -/
inductive SOp where
  | s (n : Fin 56)
  | sq (n : Fin 8)
  deriving DecidableEq, Repr

/-- Scope codes 0-6 of ORD[2:0] (R51, R221). -/
inductive Scope where
  | none | gang | crew | clu | die | dev | sys
  deriving DecidableEq, Repr

/-- MOD of IADD and ISUB (R60). -/
inductive Sat where
  | wrap | ss | us
  deriving DecidableEq, Repr

/-- Compare condition of ISETS and ISETU (R97). -/
inductive Cmp where
  | eq | ne | lt | le
  deriving DecidableEq, Repr

/-- Compare condition of SSET, SC[2:0] (R107). -/
inductive SCmp where
  | eq | ne | lt | le | ltu | leu
  deriving DecidableEq, Repr

/-- Predicate operation of PLOP (R103). -/
inductive POp where
  | and | or | xor | andn
  deriving DecidableEq, Repr

/-- Shift kind of SHI, IMM10[9:8] (R98). -/
inductive ShKind where
  | left | right | arith | rot
  deriving DecidableEq, Repr

/-- Rounding modes (R143). -/
inductive Rnd where
  | rne | rz | rd | ru
  deriving DecidableEq, Repr

/-- MOD of FMOV (R165). -/
inductive FSign where
  | copy | neg | abs | nabs
  deriving DecidableEq, Repr

/-- MOD of FSETP (R170). -/
inductive FCmp where
  | eq | lt | le | un
  deriving DecidableEq, Repr

/-- Lane-exchange kinds (R178). -/
inductive LxKind where
  | sel | flip | rotu | rotd
  deriving DecidableEq, Repr

/-- MOD of PFOLD (R180). -/
inductive Fold where
  | and | or | same | par
  deriving DecidableEq, Repr

/-- MOD of REDX (R159). -/
inductive Red where
  | fadd | fmax | iadd
  deriving DecidableEq, Repr

/-- D[1:0] of FENCE (R62). -/
inductive FenceKind where
  | acq | rel | ar | full
  deriving DecidableEq, Repr

/-- D[1:0] of CMO (R256). -/
inductive CmoOp where
  | clean | inv | clinv
  deriving DecidableEq, Repr

/-- D[1:0] of BAR (R260). -/
inductive BarKind where
  | arrive | wait | arwait
  deriving DecidableEq, Repr

/-- IMM19[1:0] of SLIT (R109). -/
inductive LitMode where
  | zx | sx | hi
  deriving DecidableEq, Repr

/-- IMM13[5:4] of MSYNC (R197). -/
inductive SyncKind where
  | wait | rel | acq | ar
  deriving DecidableEq, Repr

/-- Fields of an F3 word with two vector sources (R51). -/
structure F3 where
  w : Bool
  d : VOp
  a : VOp
  b : VOp
  la : Bool
  lb : Bool
  deriving DecidableEq, Repr

/-- Fields of an F3 word with one vector source. -/
structure F2 where
  w : Bool
  d : VOp
  a : VOp
  la : Bool
  deriving DecidableEq, Repr

/-- Fields of an F3 compare: the destination is a predicate. -/
structure FP3 where
  w : Bool
  d : Fin 8
  a : VOp
  b : VOp
  la : Bool
  lb : Bool
  deriving DecidableEq, Repr

/-- Fields of PLOP. -/
structure FPred where
  w : Bool
  d : Fin 8
  a : Fin 8
  b : Fin 8
  deriving DecidableEq, Repr

/-- Fields of PMOV with B = 0. -/
structure FVtoP where
  w : Bool
  d : Fin 8
  a : VOp
  la : Bool
  deriving DecidableEq, Repr

/-- Fields of PMOV with B = 1, and of PMASK. -/
structure FPtoV where
  w : Bool
  d : VOp
  a : Fin 8
  deriving DecidableEq, Repr

/-- Fields of an FI word. -/
structure FImm where
  w : Bool
  d : VOp
  a : VOp
  la : Bool
  imm : BitVec 10
  deriving DecidableEq, Repr

/-- Fields of SHI (R98). -/
structure FShift where
  w : Bool
  d : VOp
  a : VOp
  la : Bool
  k : ShKind
  n : Fin 32
  deriving DecidableEq, Repr

/-- Fields of LXCHI (R166). -/
structure FLxi where
  w : Bool
  d : VOp
  a : VOp
  la : Bool
  k : LxKind
  n : Fin 32
  deriving DecidableEq, Repr

/-- Fields of a load, store or atomic (R114, R246): no field may name a queue port (R30, R115). -/
structure FMem where
  w : Bool
  d : Fin 116
  a : Fin 116
  s : Fin 56
  lx : Bool
  ord : Bool
  scope : Scope
  deriving DecidableEq, Repr

/-- Fields of an FB branch word (R51). -/
structure FB where
  w : Bool
  p : Fin 8
  n : Bool
  off : BitVec 21
  deriving DecidableEq, Repr

/-- Fields of an FS word with SD, SA and SB. -/
structure FS where
  w : Bool
  d : SOp
  a : SOp
  b : SOp
  deriving DecidableEq, Repr

/-- Destination of SREAD (R88). -/
inductive Dest where
  | v (d : VOp)
  | s (d : SOp)
  deriving DecidableEq, Repr

/-- Source of SWRITE; `last` is LA (R89). -/
inductive Source where
  | v (a : VOp) (last : Bool)
  | s (a : SOp)
  deriving DecidableEq, Repr

/-- What the host does to device memory through its HDM range (R291, R369): read and keep shared, take the halves
modified, write, or give back a modified half; and a write to its own memory (R358). -/
inductive HostOp where
  | read | own | write | giveBack | home
  deriving DecidableEq, Repr

/-- A host access: partition, offset in its HDM range, or host address for its own memory, bytes (R358, R369). -/
structure HostAccess where
  part : Fin 4
  op : HostOp
  off : Nat
  len : Nat
  data : List Byte
  deriving DecidableEq, Repr

/-- An inbound peer access on an Eweloth port (R371). -/
structure PeerAccess where
  port : Fin 16
  write : Bool
  pa : Nat
  len : Nat
  data : List Byte
  deriving DecidableEq, Repr

/-- A corruption from outside: a bit of one unit's copy of a line, or data that ECC can no longer correct, of an element of memory (R378) or of a
lane of a message-queue entry in the stash (R128). -/
inductive SoftError where
  | copyBit (unit line bit : Nat)
  | element (pa : Nat)
  | message (core : Nat) (queue : Fin 4) (entry : Nat) (lane : Fin 32)
  deriving DecidableEq, Repr

/-- How far a start runs: to its end, failing at a step with a REASON code, or up to a step at which it stands when the
next event arrives (R414, R417). -/
inductive StartEnd where
  | done
  | fails (step reason : Nat)
  | stands (step : Nat)
  deriving DecidableEq, Repr

/-- The part of an outstanding word that one event performs: the word by its number, and the lanes, all of them where all bits are ones (R119,
R234). -/
structure Portion where
  word : Nat
  lanes : LaneMask
  deriving DecidableEq, Repr

/-- The whole of an outstanding word. -/
def Portion.whole (n : Nat) : Portion := { word := n, lanes := 0xFFFFFFFF }

/-- The instructions and events, one constructor per row of the opcode table, in its order. -/
inductive Instr where
  /-- IADD (R100). -/
  | iadd (f : F3) (m : Sat)
  /-- ISUB (R100). -/
  | isub (f : F3) (m : Sat)
  /-- IMUL (R100). -/
  | imul (f : F3)
  /-- IMULH (R100). -/
  | imulh (f : F3) (u : Bool)
  /-- IMAD (R100). -/
  | imad (f : F3)
  /-- IMIN (R100). -/
  | imin (f : F3) (u : Bool)
  /-- IMAX (R100). -/
  | imax (f : F3) (u : Bool)
  /-- IABS (R100). -/
  | iabs (f : F2)
  /-- AND (R101). -/
  | and (f : F3)
  /-- OR (R101). -/
  | or (f : F3)
  /-- XOR (R101). -/
  | xor (f : F3)
  /-- ANDN (R101). -/
  | andn (f : F3)
  /-- SHL (R101). -/
  | shl (f : F3)
  /-- SHR (R101). -/
  | shr (f : F3)
  /-- SAR (R101). -/
  | sar (f : F3)
  /-- ROL (R101). -/
  | rol (f : F3)
  /-- POPC (R102). -/
  | popc (f : F2)
  /-- CLZ (R102). -/
  | clz (f : F2)
  /-- BREV (R102). -/
  | brev (f : F2)
  /-- BFX (R102). -/
  | bfx (f : F3)
  /-- BFI (R102). -/
  | bfi (f : F3)
  /-- ISETS (R103). -/
  | isets (f : FP3) (c : Cmp)
  /-- ISETU (R103). -/
  | isetu (f : FP3) (c : Cmp)
  /-- SEL (R103). -/
  | sel (f : F3) (p : Fin 4)
  /-- MOV (R104). -/
  | mov (f : F2)
  /-- BPICK (R104). -/
  | bpick (f : F3)
  /-- PLOP (R103). -/
  | plop (f : FPred) (o : POp)
  /-- PMOV_TO_P (R103). -/
  | pmovToP (f : FVtoP)
  /-- PMOV_TO_V (R103). -/
  | pmovToV (f : FPtoV)
  /-- IADDI (R100). -/
  | iaddi (f : FImm)
  /-- SHI (R101). -/
  | shi (f : FShift)
  /-- ANDI (R101). -/
  | andi (f : FImm)
  /-- MOVI (R104). -/
  | movi (w : Bool) (d : VOp) (i : BitVec 18)
  /-- MOVHI (R104). -/
  | movhi (w : Bool) (d : VOp) (i : BitVec 14)
  /-- FADD (R168). -/
  | fadd (f : F3) (r : Rnd)
  /-- FSUB (R168). -/
  | fsub (f : F3) (r : Rnd)
  /-- FMUL (R168). -/
  | fmul (f : F3) (r : Rnd)
  /-- FFMA (R168). -/
  | ffma (f : F3) (r : Rnd)
  /-- FMIN (R169). -/
  | fmin (f : F3) (n : Bool)
  /-- FMAX (R169). -/
  | fmax (f : F3) (n : Bool)
  /-- FMOV (R169). -/
  | fmov (f : F2) (o : FSign)
  /-- FSETP (R170). -/
  | fsetp (f : FP3) (c : FCmp)
  /-- FRCP (R173). -/
  | frcp (f : F2)
  /-- FRSQ (R173). -/
  | frsq (f : F2)
  /-- FSQRT (R173). -/
  | fsqrt (f : F2)
  /-- FEXP2 (R173). -/
  | fexp2 (f : F2)
  /-- FLOG2 (R173). -/
  | flog2 (f : F2)
  /-- FRED (R174). -/
  | fred (f : F2)
  /-- FSINR (R173). -/
  | fsinr (f : F2)
  /-- FCOSR (R173). -/
  | fcosr (f : F2)
  /-- FCVT (R176). -/
  | fcvt (f : F2) (c : Fin 14) (r : Rnd)
  /-- FADDP (R177). -/
  | faddp (f : F3) (h : Bool) (z : Bool)
  /-- FMULP (R177). -/
  | fmulp (f : F3) (h : Bool) (z : Bool)
  /-- FFMAP (R177). -/
  | ffmap (f : F3) (h : Bool) (z : Bool)
  /-- FCLASS (R171). -/
  | fclass (f : F2)
  /-- FSCALE (R172). -/
  | fscale (f : F3) (r : Rnd)
  /-- LXCH (R178). -/
  | lxch (f : F3) (k : LxKind)
  /-- LXCHI (R178). -/
  | lxchi (f : FLxi)
  /-- PFOLD (R180). -/
  | pfold (w : Bool) (d : Fin 8) (a : Fin 8) (o : Fold)
  /-- PMASK (R180). -/
  | pmask (f : FPtoV) (c : Bool)
  /-- REDX (R181). -/
  | redx (f : F2) (o : Red)
  /-- ARGMX (R182). -/
  | argmx (f : F3) (s : Bool)
  /-- RAND (R183). -/
  | rand (f : F3)
  /-- GUMB (R184). -/
  | gumb (f : F3)
  /-- LDB (R119). -/
  | ldb (f : FMem)
  /-- LDBS (R119). -/
  | ldbs (f : FMem)
  /-- LDH (R119). -/
  | ldh (f : FMem)
  /-- LDHS (R119). -/
  | ldhs (f : FMem)
  /-- LDW (R119). -/
  | ldw (f : FMem)
  /-- LDD (R119). -/
  | ldd (f : FMem)
  /-- LDQ (R119). -/
  | ldq (f : FMem)
  /-- STB (R119). -/
  | stb (f : FMem)
  /-- STH (R119). -/
  | sth (f : FMem)
  /-- STW (R119). -/
  | stw (f : FMem)
  /-- STD (R119). -/
  | std (f : FMem)
  /-- STQ (R119). -/
  | stq (f : FMem)
  /-- AADD (R248). -/
  | aadd (f : FMem)
  /-- AMIN (R248). -/
  | amin (f : FMem)
  /-- AMAX (R248). -/
  | amax (f : FMem)
  /-- AMINU (R248). -/
  | aminu (f : FMem)
  /-- AMAXU (R248). -/
  | amaxu (f : FMem)
  /-- AAND (R248). -/
  | aand (f : FMem)
  /-- AOR (R248). -/
  | aor (f : FMem)
  /-- AXOR (R248). -/
  | axor (f : FMem)
  /-- AXCH (R248). -/
  | axch (f : FMem)
  /-- ACAS (R248). -/
  | acas (f : FMem)
  /-- AFADD (R248). -/
  | afadd (f : FMem)
  /-- FENCE (R252). -/
  | fence (w : Bool) (k : FenceKind) (s : Scope)
  /-- MON (R253). -/
  | mon (w : Bool) (a : Fin 116) (s : Fin 56) (x : Bool)
  /-- MWAIT (R254). -/
  | mwait (w : Bool) (s : SOp)
  /-- PREF (R133). -/
  | pref (w : Bool) (l : Bool) (e : Bool) (a : Fin 116) (s : Fin 56) (x : Bool)
  /-- CMO (R256). -/
  | cmo (w : Bool) (o : CmoOp) (l : Fin 6) (s : Fin 56)
  /-- CLAIM (R258). -/
  | claim (w : Bool) (s : Fin 56)
  /-- SMAP (R124). -/
  | smap (w : Bool) (n : Fin 8) (s : Fin 56)
  /-- SUNMAP (R126). -/
  | sunmap (w : Bool) (n : Fin 8) (x : Bool)
  /-- MQPUT (R128). -/
  | mqput (w : Bool) (d : Fin 116) (s : Fin 56) (x : Bool) (o : Scope)
  /-- MQGET (R128). -/
  | mqget (w : Bool) (d : Fin 116) (s : Fin 56) (o : Scope)
  /-- VSPILL (R131). -/
  | vspill (w : Bool) (d : Fin 116) (s : Fin 56) (x : Bool)
  /-- VFILL (R132). -/
  | vfill (w : Bool) (d : Fin 116) (s : Fin 56)
  /-- DWOPEN (R135). -/
  | dwopen (w : Bool) (c : Bool) (s : Fin 56)
  /-- DWACC (R137). -/
  | dwacc (w : Bool) (s : Fin 56)
  /-- BAR (R260). -/
  | bar (w : Bool) (k : BarKind) (s : Fin 56) (o : Scope)
  /-- BRA (R82). -/
  | bra (f : FB)
  /-- BRX (R82). -/
  | brx (w : Bool) (a : VOp) (l : Bool)
  /-- CALL (R82). -/
  | call (f : FB)
  /-- CALLX (R82). -/
  | callx (w : Bool) (a : VOp) (l : Bool)
  /-- RET (R84). -/
  | ret (w : Bool)
  /-- EXIT (R85). -/
  | exit (w : Bool)
  /-- MCALL (R86). -/
  | mcall (w : Bool) (n : Fin 64) (p : VOp) (q : VOp) (t : Fin 32)
  /-- NOP (R87). -/
  | nop (w : Bool)
  /-- SREAD (R88). -/
  | sread (w : Bool) (d : Dest) (n : BitVec 9)
  /-- SWRITE (R89). -/
  | swrite (w : Bool) (a : Source) (n : BitVec 9)
  /-- ICINV (R91). -/
  | icinv (w : Bool) (a : SOp) (b : SOp) (m : Bool)
  /-- TMARK (R93). -/
  | tmark (w : Bool) (i : BitVec 18)
  /-- RDV (R340). -/
  | rdv (w : Bool) (d : Fin 56) (v : BitVec 8) (s : BitVec 8)
  /-- SLEEPT (R341). -/
  | sleept (w : Bool) (a : SOp) (i : BitVec 13)
  /-- YIELD (R342). -/
  | yield (w : Bool)
  /-- WDOG (R343). -/
  | wdog (w : Bool) (a : SOp)
  /-- TRAP (R385). -/
  | trap (w : Bool) (i : BitVec 18)
  /-- RTE (R383). -/
  | rte (w : Bool)
  /-- CCLR (R386). -/
  | cclr (w : Bool) (i : BitVec 18)
  /-- BKPT (R385). -/
  | bkpt (w : Bool) (i : BitVec 18)
  /-- HALT (R387). -/
  | halt (w : Bool)
  /-- SADD (R107). -/
  | sadd (f : FS)
  /-- SSUB (R107). -/
  | ssub (f : FS)
  /-- SMUL (R107). -/
  | smul (f : FS)
  /-- SMULH (R107). -/
  | smulh (f : FS)
  /-- SDIVU (R108). -/
  | sdivu (f : FS)
  /-- SAND (R107). -/
  | sand (f : FS)
  /-- SOR (R107). -/
  | sor (f : FS)
  /-- SXOR (R107). -/
  | sxor (f : FS)
  /-- SSHL (R107). -/
  | sshl (f : FS)
  /-- SSHR (R107). -/
  | sshr (f : FS)
  /-- SSAR (R107). -/
  | ssar (f : FS)
  /-- SMIN (R107). -/
  | smin (f : FS)
  /-- SMAX (R107). -/
  | smax (f : FS)
  /-- SSET (R107). -/
  | sset (f : FS) (c : SCmp)
  /-- SADDI (R109). -/
  | saddi (w : Bool) (d : SOp) (a : SOp) (i : BitVec 13)
  /-- SMOVI (R109). -/
  | smovi (w : Bool) (d : SOp) (i : BitVec 19)
  /-- SLIT (R109). -/
  | slit (w : Bool) (d : SOp) (m : LitMode) (lit : BitVec 32)
  /-- SBRA (R110). -/
  | sbra (w : Bool) (z : Bool) (a : SOp) (i : BitVec 13)
  /-- SLD (R111). -/
  | sld (w : Bool) (d : Fin 56) (a : Fin 56) (i : BitVec 13)
  /-- SST (R111). -/
  | sst (w : Bool) (d : SOp) (a : Fin 56) (i : BitVec 13)
  /-- SV2S (R112). -/
  | sv2s (w : Bool) (d : SOp) (a : VOp) (n : Fin 32)
  /-- SS2V (R112). -/
  | ss2v (w : Bool) (d : VOp) (a : SOp) (h : Bool)
  /-- WLOAD (R199). -/
  | wload (w : Bool) (a : SOp) (b : SOp) (c : SOp)
  /-- WSWAP (R200). -/
  | wswap (w : Bool)
  /-- AZERO (R201). -/
  | azero (w : Bool) (g : Bool) (b : Bool)
  /-- MMA (R202). -/
  | mma (w : Bool) (a : SOp) (b : SOp) (c : SOp) (m : Bool)
  /-- MMAQ (R202). -/
  | mmaq (w : Bool) (q : Fin 8) (b : SOp) (m : Bool)
  /-- MMAG (R203). -/
  | mmag (w : Bool) (c : Fin 8) (b : SOp) (u : Fin 8)
  /-- AGAIN (R204). -/
  | again (w : Bool) (a : SOp) (b : SOp)
  /-- ASCAN (R205). -/
  | ascan (w : Bool) (a : SOp) (k : Bool) (b : Bool)
  /-- CARRYLD (R206). -/
  | carryld (w : Bool) (a : SOp) (b : SOp) (z : Bool)
  /-- CARRYST (R206). -/
  | carryst (w : Bool) (a : SOp) (b : SOp)
  /-- DRAIN (R207). -/
  | drain (w : Bool) (a : SOp) (b : SOp) (c : SOp) (m : Bool)
  /-- DRAINQ (R207). -/
  | drainq (w : Bool) (q : Fin 8) (b : SOp) (m : Bool)
  /-- DRAING (R209). -/
  | draing (w : Bool) (d : SOp) (a : SOp) (b : SOp) (c : SOp)
  /-- DRAING_Q (R209). -/
  | draingQ (w : Bool) (d : SOp) (q : Fin 8) (b : SOp) (c : SOp)
  /-- MSYNC (R210). -/
  | msync (w : Bool) (p : Bool) (k : SyncKind) (s : Scope)
  /-- MSTAT (R211). -/
  | mstat (w : Bool) (d : SOp) (c : Bool)
  /-- CPY (R262). -/
  | cpy (w : Bool) (d : SOp) (a : SOp)
  /-- CPYR (R262). -/
  | cpyr (w : Bool) (d : SOp) (a : SOp)
  /-- GATH (R262). -/
  | gath (w : Bool) (d : SOp) (a : SOp)
  /-- SCAT (R262). -/
  | scat (w : Bool) (d : SOp) (a : SOp)
  /-- JWAIT (R266). -/
  | jwait (w : Bool) (n : Fin 6)
  /-- JSTAT (R267). -/
  | jstat (w : Bool) (d : SOp) (c : Bool)
  /-- ENQ (R344). -/
  | enq (f : FS)
  /-- SWRITE_TDEAD (R41). -/
  | swriteTdead (w : Bool) (a : Source)
  /-- SWRITE_CHKMODE (R285). -/
  | swriteChkmode (w : Bool) (a : Source)
  /-- SWRITE_INJ (R287). -/
  | swriteInj (w : Bool) (a : Source)
  /-- SWRITE_DVFSREQ (R307). -/
  | swriteDvfsreq (w : Bool) (a : Source)
  /-- SWRITE_CAUSESET (R42). -/
  | swriteCauseset (w : Bool) (a : Source)
  /-- VOTE (R77). -/
  | vote (c : Nat)
  /-- LONG_RESULT_WRITEBACK (R56). -/
  | longResultWriteback (p : Ident) (n : Nat)
  /-- STORE_PERFORMED (R119, R223). -/
  | storePerformed (p : Ident) (n : Portion)
  /-- RELEASE_COMPLETE (R119, R279). -/
  | releaseComplete (p : Ident) (n : Portion)
  /-- REORDER_CHECK (R276). -/
  | reorderCheck (c : Nat)
  /-- INTERVAL_CHECK (R275). -/
  | intervalCheck (l : Nat) (k : Nat) (i : Nat)
  /-- HORIZON_BROADCAST (R278). -/
  | horizonBroadcast (t : Nat)
  /-- LINE_EVICTION (R289). -/
  | lineEviction (u : Nat) (l : Nat)
  /-- ENGINE_JOB_START (R212). -/
  | engineJobStart (j : Nat)
  /-- COPY_JOB_COMPLETE (R241). -/
  | copyJobComplete (j : Nat) (r : Option Nat)
  /-- MATRIX_JOB_COMPLETE (R212). -/
  | matrixJobComplete (j : Nat)
  /-- PROMISE_MISSED (R243). -/
  | promiseMissed (j : Nat)
  /-- TIMER_EXPIRY (R41). -/
  | timerExpiry (p : Ident)
  /-- WATCHDOG_EXPIRY (R337). -/
  | watchdogExpiry (p : Ident)
  /-- MWAIT_WAKE (R254). -/
  | mwaitWake (p : Ident)
  /-- MWAIT_TIMEOUT (R254). -/
  | mwaitTimeout (p : Ident)
  /-- SLEEPT_END (R341). -/
  | sleeptEnd (p : Ident)
  /-- BAR_WAIT_END (R260). -/
  | barWaitEnd (p : Ident)
  /-- JWAIT_END (R266). -/
  | jwaitEnd (p : Ident)
  /-- RDV_READY (R340). -/
  | rdvReady (p : Ident)
  /-- CAUSE_DELIVERY (R380). -/
  | causeDelivery (p : Ident)
  /-- REPLAY_RETRY (R381). -/
  | replayRetry (p : Ident)
  /-- GANG_RETIRE (R85). -/
  | gangRetire (p : Ident)
  /-- KILL_REQUEST (R396). -/
  | killRequest (p : Ident)
  /-- DOORBELL (R318). -/
  | doorbell (q : Nat) (t : BitVec 32)
  /-- NOP_COMMAND (R320). -/
  | nopCommand (q : Nat)
  /-- LAUNCH (R320). -/
  | launch (q : Nat)
  /-- WAITSEM (R320). -/
  | waitsem (q : Nat)
  /-- SIGNAL (R320). -/
  | signal (q : Nat)
  /-- SEMAPHORE_CHANGE (R324). -/
  | semaphoreChange (q : Nat)
  /-- SEMAPHORE_POLL (R324). -/
  | semaphorePoll (q : Nat)
  /-- STAGE_FINISH (R330). -/
  | stageFinish (b : Nat) (g : Nat)
  /-- BUNDLE_RETIRE (R330). -/
  | bundleRetire (b : Nat)
  /-- CREW_ADMIT (R332). -/
  | crewAdmit (b : Nat) (g : Nat) (c : Nat) (u : Nat)
  /-- CREW_STEAL (R333). -/
  | crewSteal (d : Nat) (u : Nat)
  /-- QUEUE_STALL_PREEMPT (R335). -/
  | queueStallPreempt (b : Nat) (g : Nat) (c : Nat)
  /-- PREEMPT_REQUEST (R388). -/
  | preemptRequest (b : Nat) (g : Nat) (c : Nat)
  /-- DRAIN_TIMEOUT (R388). -/
  | drainTimeout (b : Nat) (g : Nat) (c : Nat)
  /-- PREEMPT_WITHDRAW (R391). -/
  | preemptWithdraw (b : Nat) (g : Nat) (c : Nat)
  /-- FLUSH (R389). -/
  | flush (b : Nat) (g : Nat) (c : Nat)
  /-- SAVE (R390). -/
  | save (b : Nat) (g : Nat) (c : Nat)
  /-- CREW_RESTORE (R392). -/
  | crewRestore (b : Nat) (g : Nat) (c : Nat) (u : Nat)
  /-- INSTANCE_RESTORE (R397). -/
  | instanceRestore (b : Nat) (g : Nat) (c : Nat) (u : Nat)
  /-- RELOCK_START (R307). -/
  | relockStart (d : Fin 4)
  /-- RELOCK_END (R307). -/
  | relockEnd (d : Fin 4)
  /-- CORE_POWER_GATE (R294). -/
  | corePowerGate (c : Nat)
  /-- CORE_POWER_UP (R294). -/
  | corePowerUp (c : Nat)
  /-- DIE_FAILURE (R395). -/
  | dieFailure (d : Fin 4)
  /-- HOST_MEMORY_ACCESS (R291). -/
  | hostMemoryAccess (a : HostAccess)
  /-- PEER_INBOUND_ACCESS (R371). -/
  | peerInboundAccess (a : PeerAccess)
  /-- CLAIM_MOVE (R258). -/
  | claimMove (p : Ident) (n : Nat)
  /-- CONTROL_STORE_WRITE (R71). -/
  | controlStoreWrite (c : Nat) (o : Nat) (v : BitVec 32)
  /-- ASCREATE (R361). -/
  | ascreate (t : Nat)
  /-- ASDESTROY (R361). -/
  | asdestroy (a : Nat)
  /-- MAP (R362). -/
  | map (a : Nat) (va : Nat) (e : BitVec 64) (lv : Nat)
  /-- UNMAP (R362). -/
  | unmap (a : Nat) (va : Nat) (lv : Nat)
  /-- UNMAP_COMPLETE (R362). -/
  | unmapComplete (a : Nat) (va : Nat) (lv : Nat)
  /-- KEYNEW (R365). -/
  | keynew (t : Nat)
  /-- KEYRETIRE (R367). -/
  | keyretire (k : Nat)
  /-- PARTSET (R363). -/
  | partset (ms : List (BitVec 4)) (ks : List Nat)
  /-- PEEROPEN (R371). -/
  | peeropen (o : Nat) (pa : Nat) (len : Nat) (k : Nat) (rw : Bool)
  /-- PEERCLOSE (R371). -/
  | peerclose (o : Nat) (n : Nat)
  /-- DVFSSET (R361). -/
  | dvfsset (d : Nat) (x : Nat)
  /-- SVNSET (R361). -/
  | svnset (v : Nat)
  /-- REGISTER_WRITE (R5). -/
  | registerWrite (o : Nat) (v : BitVec 64)
  /-- QUEUE_OPERATION_COMPLETE (R47). -/
  | queueOperationComplete (p : Ident) (n : Nat)
  /-- READ_RETURNED (R56, R119). -/
  | readReturned (p : Ident) (n : Portion)
  /-- MALFORMED_COMMAND (R319). -/
  | malformedCommand (q : Nat)
  /-- DEBUG_HALT (R410). -/
  | debugHalt (t : Fin 4) (c : Bool)
  /-- DEBUG_RESUME (R410). -/
  | debugResume (t : Fin 4) (c : Bool)
  /-- DEBUG_DUMP (R410). -/
  | debugDump (t : Fin 4) (c : Bool)
  /-- SINKHEAD_WRITE (R405). -/
  | sinkheadWrite (t : Fin 4) (v : BitVec 64)
  /-- JRNHEAD_WRITE (R405). -/
  | jrnheadWrite (t : Fin 4) (v : BitVec 64)
  /-- SAMPLE_TICK (R407). -/
  | sampleTick (c : Nat)
  /-- SYNC_PERIODIC (R408). -/
  | syncPeriodic (p : Ident)
  /-- THERMAL_LIMIT (R420). -/
  | thermalLimit (d : Fin 4)
  /-- THERMAL_RESTORE (R420). -/
  | thermalRestore (d : Fin 4)
  /-- POWER_LIMIT_CHECK (R420). -/
  | powerLimitCheck (d : Fin 4)
  /-- COLD_START (R415). -/
  | coldStart (e : StartEnd)
  /-- WARM_START_PACKAGE (R417). -/
  | warmStartPackage (e : StartEnd)
  /-- WARM_START_PARTITION (R417). -/
  | warmStartPartition (m : BitVec 4) (e : StartEnd)
  /-- SOFT_ERROR (R378). -/
  | softError (e : SoftError)
  /-- EWELOTH_LINK_DOWN (R370). -/
  | ewelothLinkDown (o : Fin 16)
  /-- EWELOTH_LINK_UP (R370). -/
  | ewelothLinkUp (o : Fin 16)
  /-- GET_CERTIFICATE (R374). -/
  | getCertificate (s : Nat) (o : Nat) (n : Nat)
  /-- CHALLENGE (R373). -/
  | challenge (s : Nat) (nonce : BitVec 256)
  /-- GET_MEASUREMENTS (R375). -/
  | getMeasurements (i : Nat) (sg : Bool) (nonce : BitVec 256)
  /-- SPDM_UNSUPPORTED (R374). -/
  | spdmUnsupported (c : BitVec 8)
  /-- GET_VERSION (R374). -/
  | getVersion
  /-- GET_CAPABILITIES (R374). -/
  | getCapabilities
  /-- NEGOTIATE_ALGORITHMS (R374). -/
  | negotiateAlgorithms
  /-- GET_DIGESTS (R374). -/
  | getDigests
  /-- POWER_LOSS (R417). -/
  | powerLoss
  deriving DecidableEq, Repr

end Sys2Proof
end

