-- ==== Sys2Proof/WellFormed.lean ====
section
/-! DEFINITION. Which instructions are well formed: the checks of R59 that the types of `Instr` do not already make
(pairs and quads of R25, ports of R30, scopes of R59, and the fixed values of single entries), the class of each word
(R60-R66) and what each executor may run (R43, R58). -/

namespace Sys2Proof

/-- Classes of a clause (R45). -/
inductive Cls where
  | vi | vf | vm | ct | un | mx | cp
  deriving DecidableEq, Repr

/-- Executors of clauses (R58). -/
inductive Role where
  | gang | mThread | cThread
  deriving DecidableEq, Repr

/-- The operand is a queue port (R29). -/
def VOp.isPort : VOp → Bool
  | .v _ => false
  | .q _ => true

/-- The operand is a scalar queue port. -/
def SOp.isPort : SOp → Bool
  | .s _ => false
  | .sq _ => true

/-- A legal pair operand: an even register, never a port (R25, R30). -/
def VOp.isPair : VOp → Bool
  | .v n => n.val % 2 == 0
  | .q _ => false

/-- A legal ordered or relaxed ORD value: ordered needs a scope (R59). -/
def FMem.ordOk (f : FMem) : Bool := !f.ord || f.scope != .none

/-- Scopes BAR may name, 1-5 (R246). -/
def Scope.upToDev : Scope → Bool
  | .none | .sys => false
  | _ => true

/-- The special registers that have a row of their own in the opcode table (R41, R42, R285, R287, R307). -/
def ownSwrite (n : BitVec 9) : Bool :=
  n == 0x024 || n == 0x031 || n == 0x030 || n == 0x032 || n == 0x01D

/-- Well-formedness of a word; events carry no encoding and are always well formed. -/
def Instr.wf : Instr → Bool
  | .imad f | .bfi f | .bpick f | .ffma f _ | .ffmap f _ _ => !f.d.isPort
  | .movhi _ d _ => !d.isPort
  | .frcp f | .frsq f | .fsqrt f | .fexp2 f | .flog2 f | .fsinr f | .fcosr f | .redx f _ => !f.d.isPort
  | .fred f => f.d.isPair
  | .fcvt f c r =>
    (!(c.val == 4 || c.val == 5 || c.val == 8 || c.val == 9) || !f.d.isPort) &&
    (!(c.val == 12 || c.val == 13) || f.a.isPair) &&
    (!(c.val == 6 || c.val == 7 || c.val == 10 || c.val == 11) || r == .rne)
  | .lxch f _ | .argmx f _ | .gumb f => !f.d.isPort
  | .lxchi f => !f.d.isPort
  | .rand f => !f.d.isPort && f.a.isPair && f.b.isPair
  | .ldb f | .ldbs f | .ldh f | .ldhs f | .ldw f | .stb f | .sth f | .stw f => f.ordOk
  | .ldd f | .std f => f.ordOk && f.d.val % 2 == 0
  | .ldq f | .stq f => f.ordOk && f.d.val % 4 == 0
  | .aadd f | .amin f | .amax f | .aminu f | .amaxu f | .aand f | .aor f | .axor f | .axch f | .afadd f =>
    f.scope != .none
  | .acas f => f.scope != .none && f.d.val % 2 == 0
  | .fence _ _ s => s != .none
  | .cmo _ o l s => (l.val != 5 || o == .clean) && decide (s.val ≤ 54)
  | .claim _ s => decide (s.val ≤ 54)
  | .smap _ _ s => decide (s.val ≤ 53)
  | .bar _ _ s o => o.upToDev && decide (s.val ≤ 54)
  | .swrite _ _ n => !ownSwrite n
  | .rdv _ _ v s => v != 0 || s != 0
  | .slit _ d m _ => m != .hi || !d.isPort
  | .sdivu f => !f.d.isPort
  | .dwopen _ close r => !close || r == 0
  | .carryld _ a b z => !z || (a == .s 0 && b == .s 0)
  | .msync _ _ k s => if k == .wait then s == .none else s != .none
  | _ => true

/-- The class a word belongs to; events have none (R60-R66). -/
def Instr.cls : Instr → Option Cls
  | .iadd .. | .isub .. | .imul .. | .imulh .. | .imad .. | .imin .. | .imax .. | .iabs .. | .and .. | .or ..
  | .xor .. | .andn .. | .shl .. | .shr .. | .sar .. | .rol .. | .popc .. | .clz .. | .brev .. | .bfx .. | .bfi ..
  | .isets .. | .isetu .. | .sel .. | .mov .. | .bpick .. | .plop .. | .pmovToP .. | .pmovToV .. | .iaddi ..
  | .shi .. | .andi .. | .movi .. | .movhi .. => some .vi
  | .fadd .. | .fsub .. | .fmul .. | .ffma .. | .fmin .. | .fmax .. | .fmov .. | .fsetp .. | .frcp .. | .frsq ..
  | .fsqrt .. | .fexp2 .. | .flog2 .. | .fred .. | .fsinr .. | .fcosr .. | .fcvt .. | .faddp .. | .fmulp ..
  | .ffmap .. | .fclass .. | .fscale .. | .lxch .. | .lxchi .. | .pfold .. | .pmask .. | .redx .. | .argmx ..
  | .rand .. | .gumb .. => some .vf
  | .ldb .. | .ldbs .. | .ldh .. | .ldhs .. | .ldw .. | .ldd .. | .ldq .. | .stb .. | .sth .. | .stw .. | .std ..
  | .stq .. | .aadd .. | .amin .. | .amax .. | .aminu .. | .amaxu .. | .aand .. | .aor .. | .axor .. | .axch ..
  | .acas .. | .afadd .. | .fence .. | .mon .. | .mwait .. | .pref .. | .cmo .. | .claim .. | .smap .. | .sunmap ..
  | .mqput .. | .mqget .. | .vspill .. | .vfill .. | .dwopen .. | .dwacc .. | .bar .. => some .vm
  | .bra .. | .brx .. | .call .. | .callx .. | .ret .. | .exit .. | .mcall .. | .nop .. | .sread .. | .swrite ..
  | .icinv .. | .tmark .. | .rdv .. | .sleept .. | .yield .. | .wdog .. | .trap .. | .rte .. | .cclr .. | .bkpt ..
  | .halt .. | .swriteTdead .. | .swriteChkmode .. | .swriteInj .. | .swriteDvfsreq .. | .swriteCauseset .. => some .ct
  | .sadd .. | .ssub .. | .smul .. | .smulh .. | .sdivu .. | .sand .. | .sor .. | .sxor .. | .sshl .. | .sshr ..
  | .ssar .. | .smin .. | .smax .. | .sset .. | .saddi .. | .smovi .. | .slit .. | .sbra .. | .sld .. | .sst ..
  | .sv2s .. | .ss2v .. => some .un
  | .wload .. | .wswap .. | .azero .. | .mma .. | .mmaq .. | .mmag .. | .again .. | .ascan .. | .carryld ..
  | .carryst .. | .drain .. | .drainq .. | .draing .. | .draingQ .. | .msync .. | .mstat .. => some .mx
  | .cpy .. | .cpyr .. | .gath .. | .scat .. | .jwait .. | .jstat .. | .enq .. => some .cp
  | _ => none

/-- The switch marker of a word (R56). -/
def Instr.sw : Instr → Bool
  | .iadd f _ | .isub f _ | .imulh f _ | .imin f _ | .imax f _ | .sel f _ | .fadd f _ | .fsub f _ | .fmul f _
  | .ffma f _ | .fmin f _ | .fmax f _ | .fscale f _ | .lxch f _ | .argmx f _ => f.w
  | .imul f | .imad f | .and f | .or f | .xor f | .andn f | .shl f | .shr f | .sar f | .rol f | .bfx f | .bfi f
  | .bpick f | .rand f | .gumb f => f.w
  | .faddp f _ _ | .fmulp f _ _ | .ffmap f _ _ => f.w
  | .iabs f | .popc f | .clz f | .brev f | .mov f | .frcp f | .frsq f | .fsqrt f | .fexp2 f | .flog2 f | .fred f
  | .fsinr f | .fcosr f | .fclass f => f.w
  | .fmov f _ | .redx f _ => f.w
  | .fcvt f _ _ => f.w
  | .isets f _ | .isetu f _ => f.w
  | .fsetp f _ => f.w
  | .plop f _ => f.w
  | .pmovToP f => f.w
  | .pmovToV f => f.w
  | .pmask f _ => f.w
  | .iaddi f | .andi f => f.w
  | .shi f => f.w
  | .lxchi f => f.w
  | .ldb f | .ldbs f | .ldh f | .ldhs f | .ldw f | .ldd f | .ldq f | .stb f | .sth f | .stw f | .std f | .stq f
  | .aadd f | .amin f | .amax f | .aminu f | .amaxu f | .aand f | .aor f | .axor f | .axch f | .acas f | .afadd f => f.w
  | .bra f | .call f => f.w
  | .sadd f | .ssub f | .smul f | .smulh f | .sdivu f | .sand f | .sor f | .sxor f | .sshl f | .sshr f | .ssar f
  | .smin f | .smax f | .enq f => f.w
  | .sset f _ => f.w
  | .movi w .. | .movhi w .. | .pfold w .. | .fence w .. | .mon w .. | .mwait w .. | .pref w .. | .cmo w ..
  | .claim w .. | .smap w .. | .sunmap w .. | .mqput w .. | .mqget w .. | .vspill w .. | .vfill w .. | .dwopen w ..
  | .dwacc w .. | .bar w .. | .brx w .. | .callx w .. | .ret w | .exit w | .mcall w .. | .nop w | .sread w ..
  | .swrite w .. | .icinv w .. | .tmark w .. | .rdv w .. | .sleept w .. | .yield w | .wdog w .. | .trap w .. | .rte w
  | .cclr w .. | .bkpt w .. | .halt w | .saddi w .. | .smovi w .. | .slit w .. | .sbra w .. | .sld w .. | .sst w ..
  | .sv2s w .. | .ss2v w .. | .wload w .. | .wswap w | .azero w .. | .mma w .. | .mmaq w .. | .mmag w .. | .again w ..
  | .ascan w .. | .carryld w .. | .carryst w .. | .drain w .. | .drainq w .. | .draing w .. | .draingQ w ..
  | .msync w .. | .mstat w .. | .cpy w .. | .cpyr w .. | .gath w .. | .scat w .. | .jwait w .. | .jstat w ..
  | .swriteTdead w .. | .swriteChkmode w .. | .swriteInj w .. | .swriteDvfsreq w .. | .swriteCauseset w .. => w
  | _ => false

/-- Branch words, which must stand last in their clause (R50). -/
def Instr.isBranch : Instr → Bool
  | .bra .. | .brx .. | .call .. | .callx .. | .ret .. | .exit .. | .rte .. | .sbra .. => true
  | _ => false

/-- SLIT alone takes the word after it as a literal (R49). -/
def Instr.takesLiteral : Instr → Bool
  | .slit .. => true
  | _ => false

/-- A UN or CT word that names a V register or a predicate, which no thread clause may do (R43). -/
def Instr.namesVector : Instr → Bool
  | .sv2s .. | .ss2v .. => true
  | .sread _ (.v _) _ => true
  | .swrite _ (.v _ _) _ | .swriteTdead _ (.v _ _) | .swriteChkmode _ (.v _ _) | .swriteInj _ (.v _ _)
  | .swriteDvfsreq _ (.v _ _) | .swriteCauseset _ (.v _ _) => true
  | _ => false

/-- The CT words a sequencer thread may run (R58, R63). -/
def Instr.threadCt : Instr → Bool
  | .nop .. | .sread .. | .swrite .. | .swriteTdead .. | .swriteChkmode .. | .swriteInj .. | .swriteDvfsreq ..
  | .swriteCauseset .. | .tmark .. | .rdv .. | .sleept .. | .yield .. | .trap .. | .exit .. | .bkpt .. => true
  | _ => false

/-- Whether an executor may run a word (R43, R58). -/
def Instr.legalFor (r : Role) (i : Instr) : Bool :=
  match r, i.cls with
  | .gang, some .mx => false
  | .gang, some _ => true
  | .mThread, some .mx => true
  | _, some .un => !i.namesVector
  | _, some .cp => true
  | _, some .ct => i.threadCt && !i.namesVector
  | _, _ => false

/-- Whether a class may stand in a microprogram (R67). -/
def Cls.inSlot : Cls → Bool
  | .vi | .vf | .vm | .un | .cp => true
  | .ct | .mx => false

end Sys2Proof
end

