-- ==== Sys2Proof/Decode.lean ====
section
/-! DEFINITION. From words to instructions and back: the decoder of single words, headers and whole clauses with every
rejection by name (R45, R49-R59), the substitution of macro parameters (R69), the encoder, and the bare table word. -/

namespace Sys2Proof

/-- Why words are a reserved encoding (R59). -/
inductive Reserved where
  /-- Header with N = 0, CLASS 7 or a nonzero low field. -/
  | header
  /-- Unassigned opcode. -/
  | opcode
  /-- Reserved MOD or field value. -/
  | mod
  /-- ORD[2:0] = 7, ordered without a scope, or a scope the word may not name. -/
  | order
  /-- A nonzero unused field. -/
  | zero
  /-- A register number illegal where it stands (R28, R52). -/
  | register
  /-- A pair, quad or port rule, or another rule of the entry (R25, R30). -/
  | operand
  /-- SLIT without its literal word. -/
  | literal
  /-- A branch word that is not last. -/
  | branch
  /-- A class or word the executor may not run. -/
  | executor
  deriving DecidableEq, Repr

/-- A reading that may be rejected by name. -/
abbrev Rd (α : Type) := Except Reserved α

/-- Bit n of a word. -/
def bitAt (w n : Nat) : Bool := w / 2 ^ n % 2 == 1

/-- Require a condition, or reject by name. -/
def need (c : Bool) (r : Reserved) : Rd Unit := if c then .ok () else .error r

/-- Require field [hi:lo] to be 0 (R54). -/
def zeroField (w hi lo : Nat) : Rd Unit := need (natBits w hi lo == 0) .zero

/-- 7-bit vector operand at bit lo (R52). -/
def vopAt (w lo : Nat) : Rd VOp :=
  let k := natBits w (lo + 6) lo
  if h : k < 116 then .ok (.v ⟨k, h⟩)
  else if k < 120 then .error .register
  else .ok (.q (Fin.ofNat 8 (k - 120)))

/-- 7-bit vector register at bit lo, no port (R30, R115). -/
def vregAt (w lo : Nat) : Rd (Fin 116) :=
  let k := natBits w (lo + 6) lo
  if h : k < 116 then .ok ⟨k, h⟩ else .error .register

/-- 6-bit uniform operand at bit lo (R52). -/
def sopAt (w lo : Nat) : SOp :=
  let k := natBits w (lo + 5) lo
  if h : k < 56 then .s ⟨k, h⟩ else .sq (Fin.ofNat 8 (k - 56))

/-- 6-bit uniform register at bit lo, no port. -/
def sregAt (w lo : Nat) : Rd (Fin 56) :=
  let k := natBits w (lo + 5) lo
  if h : k < 56 then .ok ⟨k, h⟩ else .error .register

/-- Predicate named by bits [2:0] of a 7-bit field at bit lo; its other bits must be 0 (R52). -/
def predAt (w lo : Nat) : Rd (Fin 8) := do
  zeroField w (lo + 6) (lo + 3)
  pure (Fin.ofNat 8 (w / 2 ^ lo))

/-- Number of a `VOp` in its 7-bit field. -/
def VOp.code : VOp → Nat
  | .v n => n.val
  | .q n => 120 + n.val

/-- Number of an `SOp` in its 6-bit field. -/
def SOp.code : SOp → Nat
  | .s n => n.val
  | .sq n => 56 + n.val

/-- The 2-bit and 3-bit codes of the closed field types, with their inverses. -/
def Sat.code : Sat → Nat
  | .wrap => 0 | .ss => 1 | .us => 2

/-- `Sat` from its code at bit lo. -/
def Sat.at (w lo : Nat) : Rd Sat :=
  match natBits w (lo + 1) lo with
  | 0 => .ok .wrap
  | 1 => .ok .ss
  | 2 => .ok .us
  | _ => .error .mod

/-- Code of `Cmp`. -/
def Cmp.code : Cmp → Nat
  | .eq => 0 | .ne => 1 | .lt => 2 | .le => 3

/-- `Cmp` from its code at bit lo. -/
def Cmp.at (w lo : Nat) : Rd Cmp :=
  match natBits w (lo + 1) lo with
  | 0 => .ok .eq
  | 1 => .ok .ne
  | 2 => .ok .lt
  | _ => .ok .le

/-- Code of `SCmp`. -/
def SCmp.code : SCmp → Nat
  | .eq => 0 | .ne => 1 | .lt => 2 | .le => 3 | .ltu => 4 | .leu => 5

/-- `SCmp` from its code at bit lo. -/
def SCmp.at (w lo : Nat) : Rd SCmp :=
  match natBits w (lo + 2) lo with
  | 0 => .ok .eq
  | 1 => .ok .ne
  | 2 => .ok .lt
  | 3 => .ok .le
  | 4 => .ok .ltu
  | 5 => .ok .leu
  | _ => .error .mod

/-- Code of `POp`. -/
def POp.code : POp → Nat
  | .and => 0 | .or => 1 | .xor => 2 | .andn => 3

/-- `POp` from its code at bit lo. -/
def POp.at (w lo : Nat) : Rd POp :=
  match natBits w (lo + 1) lo with
  | 0 => .ok .and
  | 1 => .ok .or
  | 2 => .ok .xor
  | _ => .ok .andn

/-- Code of `ShKind`. -/
def ShKind.code : ShKind → Nat
  | .left => 0 | .right => 1 | .arith => 2 | .rot => 3

/-- `ShKind` from its code at bit lo. -/
def ShKind.at (w lo : Nat) : Rd ShKind :=
  match natBits w (lo + 1) lo with
  | 0 => .ok .left
  | 1 => .ok .right
  | 2 => .ok .arith
  | _ => .ok .rot

/-- Code of `Rnd`. -/
def Rnd.code : Rnd → Nat
  | .rne => 0 | .rz => 1 | .rd => 2 | .ru => 3

/-- `Rnd` from its code at bit lo. -/
def Rnd.at (w lo : Nat) : Rd Rnd :=
  match natBits w (lo + 1) lo with
  | 0 => .ok .rne
  | 1 => .ok .rz
  | 2 => .ok .rd
  | _ => .ok .ru

/-- Code of `FSign`. -/
def FSign.code : FSign → Nat
  | .copy => 0 | .neg => 1 | .abs => 2 | .nabs => 3

/-- `FSign` from its code at bit lo. -/
def FSign.at (w lo : Nat) : Rd FSign :=
  match natBits w (lo + 1) lo with
  | 0 => .ok .copy
  | 1 => .ok .neg
  | 2 => .ok .abs
  | _ => .ok .nabs

/-- Code of `FCmp`. -/
def FCmp.code : FCmp → Nat
  | .eq => 0 | .lt => 1 | .le => 2 | .un => 3

/-- `FCmp` from its code at bit lo. -/
def FCmp.at (w lo : Nat) : Rd FCmp :=
  match natBits w (lo + 1) lo with
  | 0 => .ok .eq
  | 1 => .ok .lt
  | 2 => .ok .le
  | _ => .ok .un

/-- Code of `LxKind`. -/
def LxKind.code : LxKind → Nat
  | .sel => 0 | .flip => 1 | .rotu => 2 | .rotd => 3

/-- `LxKind` from its code at bit lo. -/
def LxKind.at (w lo : Nat) : Rd LxKind :=
  match natBits w (lo + 1) lo with
  | 0 => .ok .sel
  | 1 => .ok .flip
  | 2 => .ok .rotu
  | _ => .ok .rotd

/-- Code of `Fold`. -/
def Fold.code : Fold → Nat
  | .and => 0 | .or => 1 | .same => 2 | .par => 3

/-- `Fold` from its code at bit lo. -/
def Fold.at (w lo : Nat) : Rd Fold :=
  match natBits w (lo + 1) lo with
  | 0 => .ok .and
  | 1 => .ok .or
  | 2 => .ok .same
  | _ => .ok .par

/-- Code of `Red`. -/
def Red.code : Red → Nat
  | .fadd => 0 | .fmax => 1 | .iadd => 2

/-- `Red` from its code at bit lo. -/
def Red.at (w lo : Nat) : Rd Red :=
  match natBits w (lo + 1) lo with
  | 0 => .ok .fadd
  | 1 => .ok .fmax
  | 2 => .ok .iadd
  | _ => .error .mod

/-- Code of `FenceKind`. -/
def FenceKind.code : FenceKind → Nat
  | .acq => 0 | .rel => 1 | .ar => 2 | .full => 3

/-- `FenceKind` from its code at bit lo. -/
def FenceKind.at (w lo : Nat) : Rd FenceKind :=
  match natBits w (lo + 1) lo with
  | 0 => .ok .acq
  | 1 => .ok .rel
  | 2 => .ok .ar
  | _ => .ok .full

/-- Code of `CmoOp`. -/
def CmoOp.code : CmoOp → Nat
  | .clean => 0 | .inv => 1 | .clinv => 2

/-- `CmoOp` from its code at bit lo. -/
def CmoOp.at (w lo : Nat) : Rd CmoOp :=
  match natBits w (lo + 1) lo with
  | 0 => .ok .clean
  | 1 => .ok .inv
  | 2 => .ok .clinv
  | _ => .error .mod

/-- Code of `BarKind`. -/
def BarKind.code : BarKind → Nat
  | .arrive => 0 | .wait => 1 | .arwait => 2

/-- `BarKind` from its code at bit lo. -/
def BarKind.at (w lo : Nat) : Rd BarKind :=
  match natBits w (lo + 1) lo with
  | 0 => .ok .arrive
  | 1 => .ok .wait
  | 2 => .ok .arwait
  | _ => .error .mod

/-- Code of `LitMode`. -/
def LitMode.code : LitMode → Nat
  | .zx => 0 | .sx => 1 | .hi => 2

/-- `LitMode` from its code at bit lo. -/
def LitMode.at (w lo : Nat) : Rd LitMode :=
  match natBits w (lo + 1) lo with
  | 0 => .ok .zx
  | 1 => .ok .sx
  | 2 => .ok .hi
  | _ => .error .mod

/-- Code of `SyncKind`. -/
def SyncKind.code : SyncKind → Nat
  | .wait => 0 | .rel => 1 | .acq => 2 | .ar => 3

/-- `SyncKind` from its code at bit lo. -/
def SyncKind.at (w lo : Nat) : Rd SyncKind :=
  match natBits w (lo + 1) lo with
  | 0 => .ok .wait
  | 1 => .ok .rel
  | 2 => .ok .acq
  | _ => .ok .ar

/-- Code of `Scope`. -/
def Scope.code : Scope → Nat
  | .none => 0 | .gang => 1 | .crew => 2 | .clu => 3 | .die => 4 | .dev => 5 | .sys => 6

/-- `Scope` from its code at bit lo. -/
def Scope.at (w lo : Nat) : Rd Scope :=
  match natBits w (lo + 2) lo with
  | 0 => .ok .none
  | 1 => .ok .gang
  | 2 => .ok .crew
  | 3 => .ok .clu
  | 4 => .ok .die
  | 5 => .ok .dev
  | 6 => .ok .sys
  | _ => .error .order

/-- Code of `Cls`. -/
def Cls.code : Cls → Nat
  | .vi => 0 | .vf => 1 | .vm => 2 | .ct => 3 | .un => 4 | .mx => 5 | .cp => 6

/-- `Cls` from its code at bit lo. -/
def Cls.at (w lo : Nat) : Rd Cls :=
  match natBits w (lo + 2) lo with
  | 0 => .ok .vi
  | 1 => .ok .vf
  | 2 => .ok .vm
  | 3 => .ok .ct
  | 4 => .ok .un
  | 5 => .ok .mx
  | 6 => .ok .cp
  | _ => .error .header

/-- Fields of the F3 shapes, of FI, FM, FB and FS words (R51). -/
def F3.at (w : Nat) : Rd F3 := do
  let d ← vopAt w 18
  let a ← vopAt w 11
  let b ← vopAt w 4
  pure { w := bitAt w 31, d, a, b, la := bitAt w 3, lb := bitAt w 2 }

/-- F3 with one vector source: B and LB are 0. -/
def F2.at (w : Nat) : Rd F2 := do
  let d ← vopAt w 18
  let a ← vopAt w 11
  zeroField w 10 4
  zeroField w 2 2
  pure { w := bitAt w 31, d, a, la := bitAt w 3 }

/-- F3 compare. -/
def FP3.at (w : Nat) : Rd FP3 := do
  let d ← predAt w 18
  let a ← vopAt w 11
  let b ← vopAt w 4
  pure { w := bitAt w 31, d, a, b, la := bitAt w 3, lb := bitAt w 2 }

/-- PLOP. -/
def FPred.at (w : Nat) : Rd FPred := do
  let d ← predAt w 18
  let a ← predAt w 11
  let b ← predAt w 4
  zeroField w 3 2
  pure { w := bitAt w 31, d, a, b }

/-- PMOV with B = 0. -/
def FVtoP.at (w : Nat) : Rd FVtoP := do
  let d ← predAt w 18
  let a ← vopAt w 11
  zeroField w 2 2
  pure { w := bitAt w 31, d, a, la := bitAt w 3 }

/-- PMOV with B = 1, and PMASK. -/
def FPtoV.at (w : Nat) : Rd FPtoV := do
  let d ← vopAt w 18
  let a ← predAt w 11
  zeroField w 3 2
  pure { w := bitAt w 31, d, a }

/-- FI. -/
def FImm.at (w : Nat) : Rd FImm := do
  let d ← vopAt w 18
  let a ← vopAt w 11
  pure { w := bitAt w 31, d, a, la := bitAt w 10, imm := BitVec.ofNat 10 w }

/-- SHI. -/
def FShift.at (w : Nat) : Rd FShift := do
  let d ← vopAt w 18
  let a ← vopAt w 11
  zeroField w 7 5
  let k ← ShKind.at w 8
  pure { w := bitAt w 31, d, a, la := bitAt w 10, k, n := Fin.ofNat 32 w }

/-- LXCHI. -/
def FLxi.at (w : Nat) : Rd FLxi := do
  let d ← vopAt w 18
  let a ← vopAt w 11
  zeroField w 7 5
  let k ← LxKind.at w 8
  pure { w := bitAt w 31, d, a, la := bitAt w 10, k, n := Fin.ofNat 32 w }

/-- FM with data, offset, base and ORD. -/
def FMem.at (w : Nat) : Rd FMem := do
  let d ← vregAt w 18
  let a ← vregAt w 11
  let s ← sregAt w 5
  let scope ← Scope.at w 0
  pure { w := bitAt w 31, d, a, s, lx := bitAt w 4, ord := bitAt w 3, scope }

/-- FB. -/
def FB.at (w : Nat) : FB :=
  { w := bitAt w 31, p := Fin.ofNat 8 (w / 2 ^ 22), n := bitAt w 21, off := BitVec.ofNat 21 w }

/-- FS with SC and MOD 0. -/
def FS.at (w : Nat) : Rd FS := do
  zeroField w 6 0
  pure { w := bitAt w 31, d := sopAt w 19, a := sopAt w 13, b := sopAt w 7 }

/-- MQPUT and MQGET take ORD 0b0000 or 0b1sss (R114). -/
def queueOrd (w : Nat) : Rd Scope := do
  let s ← Scope.at w 0
  need (bitAt w 3 == (s != .none)) .order
  pure s

/-- S operand selected by IMM10[9]: bit 24 (or 17) of the register field must be 0 (R53). -/
def Dest.at (w : Nat) : Rd Dest :=
  if bitAt w 9 then do
    zeroField w 24 24
    pure (.s (sopAt w 18))
  else do
    let d ← vopAt w 18
    pure (.v d)

/-- Source of SWRITE. -/
def Source.at (w : Nat) : Rd Source :=
  if bitAt w 9 then do
    zeroField w 17 17
    zeroField w 10 10
    pure (.s (sopAt w 11))
  else do
    let a ← vopAt w 11
    pure (.v a (bitAt w 10))

/-- Words of class VI. -/
def decodeVI (w : Nat) : Rd Instr :=
  match natBits w 30 25 with
  | 0 => do let f ← F3.at w; let m ← Sat.at w 0; pure (.iadd f m)
  | 1 => do let f ← F3.at w; let m ← Sat.at w 0; pure (.isub f m)
  | 2 => do let f ← F3.at w; need (natBits w 1 0 == 0) .mod; pure (.imul f)
  | 3 => do let f ← F3.at w; need (!bitAt w 1) .mod; pure (.imulh f (bitAt w 0))
  | 4 => do let f ← F3.at w; need (natBits w 1 0 == 0) .mod; pure (.imad f)
  | 5 => do let f ← F3.at w; need (!bitAt w 1) .mod; pure (.imin f (bitAt w 0))
  | 6 => do let f ← F3.at w; need (!bitAt w 1) .mod; pure (.imax f (bitAt w 0))
  | 7 => do let f ← F2.at w; need (natBits w 1 0 == 0) .mod; pure (.iabs f)
  | 8 => do let f ← F3.at w; need (natBits w 1 0 == 0) .mod; pure (.and f)
  | 9 => do let f ← F3.at w; need (natBits w 1 0 == 0) .mod; pure (.or f)
  | 10 => do let f ← F3.at w; need (natBits w 1 0 == 0) .mod; pure (.xor f)
  | 11 => do let f ← F3.at w; need (natBits w 1 0 == 0) .mod; pure (.andn f)
  | 12 => do let f ← F3.at w; need (natBits w 1 0 == 0) .mod; pure (.shl f)
  | 13 => do let f ← F3.at w; need (natBits w 1 0 == 0) .mod; pure (.shr f)
  | 14 => do let f ← F3.at w; need (natBits w 1 0 == 0) .mod; pure (.sar f)
  | 15 => do let f ← F3.at w; need (natBits w 1 0 == 0) .mod; pure (.rol f)
  | 16 => do let f ← F2.at w; need (natBits w 1 0 == 0) .mod; pure (.popc f)
  | 17 => do let f ← F2.at w; need (natBits w 1 0 == 0) .mod; pure (.clz f)
  | 18 => do let f ← F2.at w; need (natBits w 1 0 == 0) .mod; pure (.brev f)
  | 19 => do let f ← F3.at w; need (natBits w 1 0 == 0) .mod; pure (.bfx f)
  | 20 => do let f ← F3.at w; need (natBits w 1 0 == 0) .mod; pure (.bfi f)
  | 21 => do let f ← FP3.at w; let c ← Cmp.at w 0; pure (.isets f c)
  | 22 => do let f ← FP3.at w; let c ← Cmp.at w 0; pure (.isetu f c)
  | 23 => do let f ← F3.at w; pure (.sel f (Fin.ofNat 4 w))
  | 24 => do let f ← F2.at w; need (natBits w 1 0 == 0) .mod; pure (.mov f)
  | 25 => do let f ← F3.at w; need (natBits w 1 0 == 0) .mod; pure (.bpick f)
  | 26 => do let f ← FPred.at w; let o ← POp.at w 0; pure (.plop f o)
  | 27 => do
    need (natBits w 1 0 == 0) .mod
    match natBits w 10 4 with
    | 0 => do let f ← FVtoP.at w; pure (.pmovToP f)
    | 1 => do let f ← FPtoV.at w; pure (.pmovToV f)
    | _ => .error .mod
  | 32 => do let f ← FImm.at w; pure (.iaddi f)
  | 33 => do let f ← FShift.at w; pure (.shi f)
  | 34 => do let f ← FImm.at w; pure (.andi f)
  | 48 => do let d ← vopAt w 18; pure (.movi (bitAt w 31) d (BitVec.ofNat 18 w))
  | 49 => do let d ← vopAt w 18; zeroField w 17 14; pure (.movhi (bitAt w 31) d (BitVec.ofNat 14 w))
  | _ => .error .opcode

/-- Words of class VF. -/
def decodeVF (w : Nat) : Rd Instr :=
  match natBits w 30 25 with
  | 0 => do let f ← F3.at w; let r ← Rnd.at w 0; pure (.fadd f r)
  | 1 => do let f ← F3.at w; let r ← Rnd.at w 0; pure (.fsub f r)
  | 2 => do let f ← F3.at w; let r ← Rnd.at w 0; pure (.fmul f r)
  | 3 => do let f ← F3.at w; let r ← Rnd.at w 0; pure (.ffma f r)
  | 4 => do let f ← F3.at w; need (!bitAt w 1) .mod; pure (.fmin f (bitAt w 0))
  | 5 => do let f ← F3.at w; need (!bitAt w 1) .mod; pure (.fmax f (bitAt w 0))
  | 6 => do let f ← F2.at w; let o ← FSign.at w 0; pure (.fmov f o)
  | 7 => do let f ← FP3.at w; let c ← FCmp.at w 0; pure (.fsetp f c)
  | 8 => do let f ← F2.at w; need (natBits w 1 0 == 0) .mod; pure (.frcp f)
  | 9 => do let f ← F2.at w; need (natBits w 1 0 == 0) .mod; pure (.frsq f)
  | 10 => do let f ← F2.at w; need (natBits w 1 0 == 0) .mod; pure (.fsqrt f)
  | 11 => do let f ← F2.at w; need (natBits w 1 0 == 0) .mod; pure (.fexp2 f)
  | 12 => do let f ← F2.at w; need (natBits w 1 0 == 0) .mod; pure (.flog2 f)
  | 13 => do let f ← F2.at w; need (natBits w 1 0 == 0) .mod; pure (.fred f)
  | 14 => do let f ← F2.at w; need (natBits w 1 0 == 0) .mod; pure (.fsinr f)
  | 15 => do let f ← F2.at w; need (natBits w 1 0 == 0) .mod; pure (.fcosr f)
  | 16 => do
    let d ← vopAt w 18; let a ← vopAt w 11
    zeroField w 2 2
    let r ← Rnd.at w 0
    if h : natBits w 10 4 < 14 then
      pure (.fcvt { w := bitAt w 31, d, a, la := bitAt w 3 } ⟨natBits w 10 4, h⟩ r)
    else .error .mod
  | 17 => do let f ← F3.at w; pure (.faddp f (bitAt w 1) (bitAt w 0))
  | 18 => do let f ← F3.at w; pure (.fmulp f (bitAt w 1) (bitAt w 0))
  | 19 => do let f ← F3.at w; pure (.ffmap f (bitAt w 1) (bitAt w 0))
  | 20 => do let f ← F2.at w; need (natBits w 1 0 == 0) .mod; pure (.fclass f)
  | 21 => do let f ← F3.at w; let r ← Rnd.at w 0; pure (.fscale f r)
  | 24 => do let f ← F3.at w; let k ← LxKind.at w 0; pure (.lxch f k)
  | 25 => do let f ← FLxi.at w; pure (.lxchi f)
  | 26 => do let d ← predAt w 18; let a ← predAt w 11; zeroField w 10 2; let o ← Fold.at w 0; pure (.pfold (bitAt w 31) d a o)
  | 27 => do let f ← FPtoV.at w; zeroField w 10 4; need (!bitAt w 1) .mod; pure (.pmask f (bitAt w 0))
  | 28 => do let f ← F2.at w; let o ← Red.at w 0; pure (.redx f o)
  | 29 => do let f ← F3.at w; need (!bitAt w 1) .mod; pure (.argmx f (bitAt w 0))
  | 30 => do let f ← F3.at w; need (natBits w 1 0 == 0) .mod; pure (.rand f)
  | 31 => do let f ← F3.at w; need (natBits w 1 0 == 0) .mod; pure (.gumb f)
  | _ => .error .opcode

/-- Words of class VM. -/
def decodeVM (w : Nat) : Rd Instr :=
  match natBits w 30 25 with
  | 0 => do let f ← FMem.at w; pure (.ldb f)
  | 1 => do let f ← FMem.at w; pure (.ldbs f)
  | 2 => do let f ← FMem.at w; pure (.ldh f)
  | 3 => do let f ← FMem.at w; pure (.ldhs f)
  | 4 => do let f ← FMem.at w; pure (.ldw f)
  | 5 => do let f ← FMem.at w; pure (.ldd f)
  | 6 => do let f ← FMem.at w; pure (.ldq f)
  | 8 => do let f ← FMem.at w; pure (.stb f)
  | 9 => do let f ← FMem.at w; pure (.sth f)
  | 10 => do let f ← FMem.at w; pure (.stw f)
  | 11 => do let f ← FMem.at w; pure (.std f)
  | 12 => do let f ← FMem.at w; pure (.stq f)
  | 16 => do let f ← FMem.at w; pure (.aadd f)
  | 17 => do let f ← FMem.at w; pure (.amin f)
  | 18 => do let f ← FMem.at w; pure (.amax f)
  | 19 => do let f ← FMem.at w; pure (.aminu f)
  | 20 => do let f ← FMem.at w; pure (.amaxu f)
  | 21 => do let f ← FMem.at w; pure (.aand f)
  | 22 => do let f ← FMem.at w; pure (.aor f)
  | 23 => do let f ← FMem.at w; pure (.axor f)
  | 24 => do let f ← FMem.at w; pure (.axch f)
  | 25 => do let f ← FMem.at w; pure (.acas f)
  | 26 => do let f ← FMem.at w; pure (.afadd f)
  | 32 => do zeroField w 24 20; zeroField w 17 3; let k ← FenceKind.at w 18; let s ← Scope.at w 0; pure (.fence (bitAt w 31) k s)
  | 33 => do zeroField w 24 18; zeroField w 3 0; let a ← vregAt w 11; let s ← sregAt w 5; pure (.mon (bitAt w 31) a s (bitAt w 4))
  | 34 => do zeroField w 24 11; zeroField w 4 0; pure (.mwait (bitAt w 31) (sopAt w 5))
  | 35 => do zeroField w 24 20; zeroField w 3 0; let a ← vregAt w 11; let s ← sregAt w 5; pure (.pref (bitAt w 31) (bitAt w 18) (bitAt w 19) a s (bitAt w 4))
  | 36 => do
    zeroField w 24 23; zeroField w 17 11; zeroField w 4 0
    let o ← CmoOp.at w 18; let s ← sregAt w 5
    if h : natBits w 22 20 < 6 then pure (.cmo (bitAt w 31) o ⟨natBits w 22 20, h⟩ s) else .error .mod
  | 37 => do zeroField w 24 11; zeroField w 4 0; let s ← sregAt w 5; pure (.claim (bitAt w 31) s)
  | 40 => do zeroField w 24 21; zeroField w 17 11; zeroField w 4 0; let s ← sregAt w 5; pure (.smap (bitAt w 31) (Fin.ofNat 8 (w / 2 ^ 18)) s)
  | 41 => do zeroField w 24 22; zeroField w 17 0; pure (.sunmap (bitAt w 31) (Fin.ofNat 8 (w / 2 ^ 18)) (bitAt w 21))
  | 42 => do zeroField w 17 11; let d ← vregAt w 18; let s ← sregAt w 5; let o ← queueOrd w; pure (.mqput (bitAt w 31) d s (bitAt w 4) o)
  | 43 => do zeroField w 17 11; zeroField w 4 4; let d ← vregAt w 18; let s ← sregAt w 5; let o ← queueOrd w; pure (.mqget (bitAt w 31) d s o)
  | 44 => do zeroField w 17 11; zeroField w 3 0; let d ← vregAt w 18; let s ← sregAt w 5; pure (.vspill (bitAt w 31) d s (bitAt w 4))
  | 45 => do zeroField w 17 11; zeroField w 4 0; let d ← vregAt w 18; let s ← sregAt w 5; pure (.vfill (bitAt w 31) d s)
  | 46 => do
    zeroField w 24 19; zeroField w 17 11; zeroField w 4 0
    let s ← sregAt w 5
    need (!bitAt w 18 || s.val == 0) .zero
    pure (.dwopen (bitAt w 31) (bitAt w 18) s)
  | 47 => do zeroField w 24 11; zeroField w 4 0; let s ← sregAt w 5; pure (.dwacc (bitAt w 31) s)
  | 48 => do zeroField w 24 20; zeroField w 17 11; zeroField w 4 3; let k ← BarKind.at w 18; let s ← sregAt w 5; let o ← Scope.at w 0; pure (.bar (bitAt w 31) k s o)
  | _ => .error .opcode

/-- The constructor of an SWRITE word: five registers have rows of their own in the opcode table (R41, R42, R285, R287,
R307). -/
def swriteOf (w : Bool) (a : Source) (n : BitVec 9) : Instr :=
  if n == 0x024 then .swriteTdead w a
  else if n == 0x031 then .swriteChkmode w a
  else if n == 0x030 then .swriteInj w a
  else if n == 0x032 then .swriteDvfsreq w a
  else if n == 0x01D then .swriteCauseset w a
  else .swrite w a n

/-- Words of class CT. -/
def decodeCT (w : Nat) : Rd Instr :=
  match natBits w 30 25 with
  | 0 => .ok (.bra (FB.at w))
  | 1 => do zeroField w 24 18; zeroField w 10 4; zeroField w 2 0; let a ← vopAt w 11; pure (.brx (bitAt w 31) a (bitAt w 3))
  | 2 => .ok (.call (FB.at w))
  | 3 => do zeroField w 24 18; zeroField w 10 4; zeroField w 2 0; let a ← vopAt w 11; pure (.callx (bitAt w 31) a (bitAt w 3))
  | 4 => do zeroField w 24 0; pure (.ret (bitAt w 31))
  | 5 => do zeroField w 24 0; pure (.exit (bitAt w 31))
  | 6 => do let p ← vopAt w 12; let q ← vopAt w 5; pure (.mcall (bitAt w 31) (Fin.ofNat 64 (w / 2 ^ 19)) p q (Fin.ofNat 32 w))
  | 7 => do zeroField w 24 0; pure (.nop (bitAt w 31))
  | 8 => do zeroField w 17 10; let d ← Dest.at w; pure (.sread (bitAt w 31) d (BitVec.ofNat 9 w))
  | 9 => do zeroField w 24 18; let a ← Source.at w; pure (swriteOf (bitAt w 31) a (BitVec.ofNat 9 w))
  | 10 => do zeroField w 24 19; zeroField w 6 1; pure (.icinv (bitAt w 31) (sopAt w 13) (sopAt w 7) (bitAt w 0))
  | 11 => do zeroField w 24 18; pure (.tmark (bitAt w 31) (BitVec.ofNat 18 w))
  | 16 => do zeroField w 24 24; zeroField w 17 16; let d ← sregAt w 18; pure (.rdv (bitAt w 31) d (BitVec.ofNat 8 w) (BitVec.ofNat 8 (w / 2 ^ 8)))
  | 17 => do zeroField w 24 19; pure (.sleept (bitAt w 31) (sopAt w 13) (BitVec.ofNat 13 w))
  | 18 => do zeroField w 24 0; pure (.yield (bitAt w 31))
  | 19 => do zeroField w 24 19; zeroField w 12 0; pure (.wdog (bitAt w 31) (sopAt w 13))
  | 24 => do zeroField w 24 18; pure (.trap (bitAt w 31) (BitVec.ofNat 18 w))
  | 25 => do zeroField w 24 0; pure (.rte (bitAt w 31))
  | 26 => do zeroField w 24 18; pure (.cclr (bitAt w 31) (BitVec.ofNat 18 w))
  | 27 => do zeroField w 24 18; pure (.bkpt (bitAt w 31) (BitVec.ofNat 18 w))
  | 28 => do zeroField w 24 0; pure (.halt (bitAt w 31))
  | _ => .error .opcode

/-- Words of class UN. -/
def decodeUN (w : Nat) (lit : Option Word) : Rd Instr :=
  match natBits w 30 25 with
  | 0 => do let f ← FS.at w; pure (.sadd f)
  | 1 => do let f ← FS.at w; pure (.ssub f)
  | 2 => do let f ← FS.at w; pure (.smul f)
  | 3 => do let f ← FS.at w; pure (.smulh f)
  | 4 => do let f ← FS.at w; pure (.sdivu f)
  | 5 => do let f ← FS.at w; pure (.sand f)
  | 6 => do let f ← FS.at w; pure (.sor f)
  | 7 => do let f ← FS.at w; pure (.sxor f)
  | 8 => do let f ← FS.at w; pure (.sshl f)
  | 9 => do let f ← FS.at w; pure (.sshr f)
  | 10 => do let f ← FS.at w; pure (.ssar f)
  | 11 => do let f ← FS.at w; pure (.smin f)
  | 12 => do let f ← FS.at w; pure (.smax f)
  | 13 => do zeroField w 6 4; zeroField w 0 0; let c ← SCmp.at w 1; pure (.sset { w := bitAt w 31, d := sopAt w 19, a := sopAt w 13, b := sopAt w 7 } c)
  | 16 => .ok (.saddi (bitAt w 31) (sopAt w 19) (sopAt w 13) (BitVec.ofNat 13 w))
  | 17 => .ok (.smovi (bitAt w 31) (sopAt w 19) (BitVec.ofNat 19 w))
  | 18 => do
    zeroField w 18 2
    let m ← LitMode.at w 0
    match lit with
    | some x => pure (.slit (bitAt w 31) (sopAt w 19) m x)
    | none => .error .literal
  | 20 => do zeroField w 24 20; pure (.sbra (bitAt w 31) (bitAt w 19) (sopAt w 13) (BitVec.ofNat 13 w))
  | 21 => do let d ← sregAt w 19; let a ← sregAt w 13; pure (.sld (bitAt w 31) d a (BitVec.ofNat 13 w))
  | 22 => do let a ← sregAt w 13; pure (.sst (bitAt w 31) (sopAt w 19) a (BitVec.ofNat 13 w))
  | 23 => do zeroField w 6 0; let a ← vopAt w 12; pure (.sv2s (bitAt w 31) (sopAt w 19) a (Fin.ofNat 32 (w / 2 ^ 7)))
  | 24 => do zeroField w 10 0; let d ← vopAt w 18; pure (.ss2v (bitAt w 31) d (sopAt w 12) (bitAt w 11))
  | _ => .error .opcode

/-- Words of class MX. -/
def decodeMX (w : Nat) : Rd Instr :=
  match natBits w 30 25 with
  | 0 => do zeroField w 24 19; zeroField w 0 0; pure (.wload (bitAt w 31) (sopAt w 13) (sopAt w 7) (sopAt w 1))
  | 1 => do zeroField w 24 0; pure (.wswap (bitAt w 31))
  | 2 => do zeroField w 24 2; pure (.azero (bitAt w 31) (bitAt w 1) (bitAt w 0))
  | 3 => do zeroField w 24 19; pure (.mma (bitAt w 31) (sopAt w 13) (sopAt w 7) (sopAt w 1) (bitAt w 0))
  | 4 => do zeroField w 24 16; zeroField w 6 1; pure (.mmaq (bitAt w 31) (Fin.ofNat 8 (w / 2 ^ 13)) (sopAt w 7) (bitAt w 0))
  | 5 => do zeroField w 24 16; zeroField w 6 4; zeroField w 0 0; pure (.mmag (bitAt w 31) (Fin.ofNat 8 (w / 2 ^ 13)) (sopAt w 7) (Fin.ofNat 8 (w / 2)))
  | 6 => do zeroField w 24 19; zeroField w 6 0; pure (.again (bitAt w 31) (sopAt w 13) (sopAt w 7))
  | 7 => do zeroField w 24 19; zeroField w 12 2; pure (.ascan (bitAt w 31) (sopAt w 13) (bitAt w 1) (bitAt w 0))
  | 8 => do
    zeroField w 24 19; zeroField w 6 1
    need (!bitAt w 0 || natBits w 18 7 == 0) .zero
    pure (.carryld (bitAt w 31) (sopAt w 13) (sopAt w 7) (bitAt w 0))
  | 9 => do zeroField w 24 19; zeroField w 6 0; pure (.carryst (bitAt w 31) (sopAt w 13) (sopAt w 7))
  | 10 => do zeroField w 24 19; pure (.drain (bitAt w 31) (sopAt w 13) (sopAt w 7) (sopAt w 1) (bitAt w 0))
  | 11 => do zeroField w 24 16; zeroField w 6 1; pure (.drainq (bitAt w 31) (Fin.ofNat 8 (w / 2 ^ 13)) (sopAt w 7) (bitAt w 0))
  | 12 => if bitAt w 0 then do
      zeroField w 18 16
      pure (.draingQ (bitAt w 31) (sopAt w 19) (Fin.ofNat 8 (w / 2 ^ 13)) (sopAt w 7) (sopAt w 1))
    else .ok (.draing (bitAt w 31) (sopAt w 19) (sopAt w 13) (sopAt w 7) (sopAt w 1))
  | 13 => do zeroField w 24 7; zeroField w 3 3; let k ← SyncKind.at w 4; let s ← Scope.at w 0; pure (.msync (bitAt w 31) (bitAt w 6) k s)
  | 14 => do zeroField w 18 1; pure (.mstat (bitAt w 31) (sopAt w 19) (bitAt w 0))
  | _ => .error .opcode

/-- Words of class CP. -/
def decodeCP (w : Nat) : Rd Instr :=
  match natBits w 30 25 with
  | 0 => do zeroField w 12 0; pure (.cpy (bitAt w 31) (sopAt w 19) (sopAt w 13))
  | 1 => do zeroField w 12 0; pure (.cpyr (bitAt w 31) (sopAt w 19) (sopAt w 13))
  | 2 => do zeroField w 12 0; pure (.gath (bitAt w 31) (sopAt w 19) (sopAt w 13))
  | 3 => do zeroField w 12 0; pure (.scat (bitAt w 31) (sopAt w 19) (sopAt w 13))
  | 4 => do
    zeroField w 24 13
    if h : natBits w 12 0 < 6 then pure (.jwait (bitAt w 31) ⟨natBits w 12 0, h⟩) else .error .mod
  | 5 => do zeroField w 18 1; pure (.jstat (bitAt w 31) (sopAt w 19) (bitAt w 0))
  | 6 => do let f ← FS.at w; pure (.enq f)
  | _ => .error .opcode

/-- Decode one word of a clause of class c; `lit` is the word after it, which only SLIT takes (R49). A word that breaks a
rule of its entry is rejected (R59). -/
def decodeWord (c : Cls) (w : Nat) (lit : Option Word) : Rd Instr := do
  let i ← match c with
    | .vi => decodeVI w
    | .vf => decodeVF w
    | .vm => decodeVM w
    | .ct => decodeCT w
    | .un => decodeUN w lit
    | .mx => decodeMX w
    | .cp => decodeCP w
  need i.wf .operand
  pure i

/-- A clause header (R45), also the shared part of a slot header (R67). -/
structure Header where
  n : Nat
  cls : Cls
  gp : Fin 8
  gi : Bool
  ldw : Nat
  stw : Nat
  enw : Nat
  lb : Bool
  deriving DecidableEq, Repr

/-- Decode a clause header. -/
def decodeHeader (w : Nat) : Rd Header := do
  need (natBits w 31 28 != 0) .header
  need (natBits w 6 0 == 0) .header
  let c ← Cls.at w 25
  pure { n := natBits w 31 28, cls := c, gp := Fin.ofNat 8 (w / 2 ^ 22), gi := bitAt w 21,
         ldw := natBits w 20 16, stw := natBits w 15 11, enw := natBits w 10 8, lb := bitAt w 7 }

/-- Encode a clause header. -/
def Header.encode (h : Header) : Nat :=
  h.n * 2 ^ 28 + h.cls.code * 2 ^ 25 + h.gp.val * 2 ^ 22 + h.gi.toNat * 2 ^ 21 + h.ldw * 2 ^ 16 + h.stw * 2 ^ 11 +
    h.enw * 2 ^ 8 + h.lb.toNat * 2 ^ 7

/-- Decode a slot header (R67); n is the body word count 16*NH + N. -/
def decodeSlotHeader (w : Nat) : Rd Header := do
  let n := 16 * natBits w 6 5 + natBits w 31 28
  need (1 ≤ n && n ≤ 32) .header
  need (natBits w 4 0 == 0) .header
  let c ← Cls.at w 25
  need c.inSlot .header
  pure { n, cls := c, gp := Fin.ofNat 8 (w / 2 ^ 22), gi := bitAt w 21,
         ldw := natBits w 20 16, stw := natBits w 15 11, enw := natBits w 10 8, lb := false }

/-- The words of a clause from index k on, each instruction with the index of its first word; `skip` says that the next
word is the literal of an SLIT (R49). Branch words stand last (R50), and every word must suit the executor (R58). -/
def decodeWords (r : Role) (c : Cls) : Nat → Bool → List Word → Rd (List (Nat × Instr))
  | _, _, [] => .ok []
  | k, true, _ :: ws => decodeWords r c (k + 1) false ws
  | k, false, w :: ws => do
    let i ← decodeWord c w.toNat ws.head?
    need (i.legalFor r) .executor
    need (!i.isBranch || ws.isEmpty) .branch
    let js ← decodeWords r c (k + 1) i.takesLiteral ws
    pure ((k, i) :: js)

/-- Every check the N4 makes on a fetched clause before its first word issues (R59): a thread's clause has GP = 7 and
GI = 0 (R43). -/
def decodeClause (r : Role) (h : Header) (ws : List Word) : Rd (List (Nat × Instr)) := do
  need (r == .gang || (h.gp == 7 && !h.gi)) .executor
  decodeWords r h.cls 0 false ws

/-- Where a word of class c holds 7-bit vector fields, by their low bit (R51, R69). -/
def vectorFields (c : Cls) (w : Nat) : List Nat :=
  let op := natBits w 30 25
  match c with
  | .vi =>
    if op == 0x1A then []
    else if op == 0x1B then (if natBits w 10 4 == 0 then [11] else [18])
    else if op == 0x15 || op == 0x16 then [11, 4]
    else if op == 0x20 || op == 0x21 || op == 0x22 then [18, 11]
    else if op == 0x30 || op == 0x31 then [18]
    else [18, 11, 4]
  | .vf =>
    if op == 0x07 then [11, 4]
    else if op == 0x10 || op == 0x19 then [18, 11]
    else if op == 0x1A then []
    else if op == 0x1B then [18]
    else [18, 11, 4]
  | .vm =>
    if op ≤ 0x1A then [18, 11]
    else if op == 0x21 || op == 0x23 then [11]
    else if op == 0x2A || op == 0x2B || op == 0x2C || op == 0x2D then [18]
    else []
  | .un => if op == 0x17 then [12] else if op == 0x18 then [18] else []
  | _ => []

/-- Replace the placeholders V116-V118 in every vector field of a body word by the parameters of MCALL (R69). -/
def substitute (c : Cls) (p q t : Nat) (w : Nat) : Nat :=
  (vectorFields c w).foldl (fun acc lo =>
    let k := natBits w (lo + 6) lo
    if k == 116 then acc - 116 * 2 ^ lo + p * 2 ^ lo
    else if k == 117 then acc - 117 * 2 ^ lo + q * 2 ^ lo
    else if k == 118 then acc - 118 * 2 ^ lo + t * 2 ^ lo
    else acc) w

/-- Substitute in the words of a body: the literal of an SLIT (`skip`) is data and stays. -/
def substituteAll (c : Cls) (p q t : Nat) : Bool → List Word → List Word
  | _, [] => []
  | true, l :: ws => l :: substituteAll c p q t false ws
  | false, w :: ws =>
    BitVec.ofNat 32 (substitute c p q t w.toNat) ::
      substituteAll c p q t (c == .un && natBits w.toNat 30 25 == 0x12) ws

/-- The bits of the shared shapes without the opcode (R51). -/
def F3.bits (f : F3) : Nat :=
  f.w.toNat * 2 ^ 31 + f.d.code * 2 ^ 18 + f.a.code * 2 ^ 11 + f.b.code * 2 ^ 4 + f.la.toNat * 2 ^ 3 + f.lb.toNat * 2 ^ 2

/-- F3 with one source. -/
def F2.bits (f : F2) : Nat := f.w.toNat * 2 ^ 31 + f.d.code * 2 ^ 18 + f.a.code * 2 ^ 11 + f.la.toNat * 2 ^ 3

/-- F3 compare. -/
def FP3.bits (f : FP3) : Nat :=
  f.w.toNat * 2 ^ 31 + f.d.val * 2 ^ 18 + f.a.code * 2 ^ 11 + f.b.code * 2 ^ 4 + f.la.toNat * 2 ^ 3 + f.lb.toNat * 2 ^ 2

/-- PLOP. -/
def FPred.bits (f : FPred) : Nat := f.w.toNat * 2 ^ 31 + f.d.val * 2 ^ 18 + f.a.val * 2 ^ 11 + f.b.val * 2 ^ 4

/-- PMOV to a predicate. -/
def FVtoP.bits (f : FVtoP) : Nat := f.w.toNat * 2 ^ 31 + f.d.val * 2 ^ 18 + f.a.code * 2 ^ 11 + f.la.toNat * 2 ^ 3

/-- PMOV from a predicate, and PMASK. -/
def FPtoV.bits (f : FPtoV) : Nat := f.w.toNat * 2 ^ 31 + f.d.code * 2 ^ 18 + f.a.val * 2 ^ 11

/-- FI. -/
def FImm.bits (f : FImm) : Nat :=
  f.w.toNat * 2 ^ 31 + f.d.code * 2 ^ 18 + f.a.code * 2 ^ 11 + f.la.toNat * 2 ^ 10 + f.imm.toNat

/-- SHI. -/
def FShift.bits (f : FShift) : Nat :=
  f.w.toNat * 2 ^ 31 + f.d.code * 2 ^ 18 + f.a.code * 2 ^ 11 + f.la.toNat * 2 ^ 10 + f.k.code * 2 ^ 8 + f.n.val

/-- LXCHI. -/
def FLxi.bits (f : FLxi) : Nat :=
  f.w.toNat * 2 ^ 31 + f.d.code * 2 ^ 18 + f.a.code * 2 ^ 11 + f.la.toNat * 2 ^ 10 + f.k.code * 2 ^ 8 + f.n.val

/-- FM. -/
def FMem.bits (f : FMem) : Nat :=
  f.w.toNat * 2 ^ 31 + f.d.val * 2 ^ 18 + f.a.val * 2 ^ 11 + f.s.val * 2 ^ 5 + f.lx.toNat * 2 ^ 4 + f.ord.toNat * 2 ^ 3 +
    f.scope.code

/-- FB. -/
def FB.bits (f : FB) : Nat := f.w.toNat * 2 ^ 31 + f.p.val * 2 ^ 22 + f.n.toNat * 2 ^ 21 + f.off.toNat

/-- FS. -/
def FS.bits (f : FS) : Nat := f.w.toNat * 2 ^ 31 + f.d.code * 2 ^ 19 + f.a.code * 2 ^ 13 + f.b.code * 2 ^ 7

/-- ORD of MQPUT and MQGET. -/
def queueOrdBits (o : Scope) : Nat := if o == .none then 0 else 2 ^ 3 + o.code

/-- Destination of SREAD: the register field and IMM10[9]. -/
def Dest.bits : Dest → Nat
  | .v d => d.code * 2 ^ 18
  | .s d => d.code * 2 ^ 18 + 2 ^ 9

/-- Source of SWRITE: the register field, LA and IMM10[9]. -/
def Source.bits : Source → Nat
  | .v a l => a.code * 2 ^ 11 + l.toNat * 2 ^ 10
  | .s a => a.code * 2 ^ 11 + 2 ^ 9


/-- The bits of the first word of a VI instruction. -/
def encodeVI : Instr → Nat
  | .iadd f m => 0 * 2 ^ 25 + f.bits + m.code
  | .isub f m => 1 * 2 ^ 25 + f.bits + m.code
  | .imul f => 2 * 2 ^ 25 + f.bits
  | .imulh f u => 3 * 2 ^ 25 + f.bits + u.toNat
  | .imad f => 4 * 2 ^ 25 + f.bits
  | .imin f u => 5 * 2 ^ 25 + f.bits + u.toNat
  | .imax f u => 6 * 2 ^ 25 + f.bits + u.toNat
  | .iabs f => 7 * 2 ^ 25 + f.bits
  | .and f => 8 * 2 ^ 25 + f.bits
  | .or f => 9 * 2 ^ 25 + f.bits
  | .xor f => 10 * 2 ^ 25 + f.bits
  | .andn f => 11 * 2 ^ 25 + f.bits
  | .shl f => 12 * 2 ^ 25 + f.bits
  | .shr f => 13 * 2 ^ 25 + f.bits
  | .sar f => 14 * 2 ^ 25 + f.bits
  | .rol f => 15 * 2 ^ 25 + f.bits
  | .popc f => 16 * 2 ^ 25 + f.bits
  | .clz f => 17 * 2 ^ 25 + f.bits
  | .brev f => 18 * 2 ^ 25 + f.bits
  | .bfx f => 19 * 2 ^ 25 + f.bits
  | .bfi f => 20 * 2 ^ 25 + f.bits
  | .isets f c => 21 * 2 ^ 25 + f.bits + c.code
  | .isetu f c => 22 * 2 ^ 25 + f.bits + c.code
  | .sel f p => 23 * 2 ^ 25 + f.bits + p.val
  | .mov f => 24 * 2 ^ 25 + f.bits
  | .bpick f => 25 * 2 ^ 25 + f.bits
  | .plop f o => 26 * 2 ^ 25 + f.bits + o.code
  | .pmovToP f => 27 * 2 ^ 25 + f.bits
  | .pmovToV f => 27 * 2 ^ 25 + f.bits + 2 ^ 4
  | .iaddi f => 32 * 2 ^ 25 + f.bits
  | .shi f => 33 * 2 ^ 25 + f.bits
  | .andi f => 34 * 2 ^ 25 + f.bits
  | .movi w d i => 48 * 2 ^ 25 + w.toNat * 2 ^ 31 + d.code * 2 ^ 18 + i.toNat
  | .movhi w d i => 49 * 2 ^ 25 + w.toNat * 2 ^ 31 + d.code * 2 ^ 18 + i.toNat
  | _ => 0

/-- The bits of the first word of a VF instruction. -/
def encodeVF : Instr → Nat
  | .fadd f r => 0 * 2 ^ 25 + f.bits + r.code
  | .fsub f r => 1 * 2 ^ 25 + f.bits + r.code
  | .fmul f r => 2 * 2 ^ 25 + f.bits + r.code
  | .ffma f r => 3 * 2 ^ 25 + f.bits + r.code
  | .fmin f n => 4 * 2 ^ 25 + f.bits + n.toNat
  | .fmax f n => 5 * 2 ^ 25 + f.bits + n.toNat
  | .fmov f o => 6 * 2 ^ 25 + f.bits + o.code
  | .fsetp f c => 7 * 2 ^ 25 + f.bits + c.code
  | .frcp f => 8 * 2 ^ 25 + f.bits
  | .frsq f => 9 * 2 ^ 25 + f.bits
  | .fsqrt f => 10 * 2 ^ 25 + f.bits
  | .fexp2 f => 11 * 2 ^ 25 + f.bits
  | .flog2 f => 12 * 2 ^ 25 + f.bits
  | .fred f => 13 * 2 ^ 25 + f.bits
  | .fsinr f => 14 * 2 ^ 25 + f.bits
  | .fcosr f => 15 * 2 ^ 25 + f.bits
  | .fcvt f c r => 16 * 2 ^ 25 + f.bits + c.val * 2 ^ 4 + r.code
  | .faddp f h z => 17 * 2 ^ 25 + f.bits + h.toNat * 2 + z.toNat
  | .fmulp f h z => 18 * 2 ^ 25 + f.bits + h.toNat * 2 + z.toNat
  | .ffmap f h z => 19 * 2 ^ 25 + f.bits + h.toNat * 2 + z.toNat
  | .fclass f => 20 * 2 ^ 25 + f.bits
  | .fscale f r => 21 * 2 ^ 25 + f.bits + r.code
  | .lxch f k => 24 * 2 ^ 25 + f.bits + k.code
  | .lxchi f => 25 * 2 ^ 25 + f.bits
  | .pfold w d a o => 26 * 2 ^ 25 + w.toNat * 2 ^ 31 + d.val * 2 ^ 18 + a.val * 2 ^ 11 + o.code
  | .pmask f c => 27 * 2 ^ 25 + f.bits + c.toNat
  | .redx f o => 28 * 2 ^ 25 + f.bits + o.code
  | .argmx f s => 29 * 2 ^ 25 + f.bits + s.toNat
  | .rand f => 30 * 2 ^ 25 + f.bits
  | .gumb f => 31 * 2 ^ 25 + f.bits
  | _ => 0

/-- The bits of the first word of a VM instruction. -/
def encodeVM : Instr → Nat
  | .ldb f => 0 * 2 ^ 25 + f.bits
  | .ldbs f => 1 * 2 ^ 25 + f.bits
  | .ldh f => 2 * 2 ^ 25 + f.bits
  | .ldhs f => 3 * 2 ^ 25 + f.bits
  | .ldw f => 4 * 2 ^ 25 + f.bits
  | .ldd f => 5 * 2 ^ 25 + f.bits
  | .ldq f => 6 * 2 ^ 25 + f.bits
  | .stb f => 8 * 2 ^ 25 + f.bits
  | .sth f => 9 * 2 ^ 25 + f.bits
  | .stw f => 10 * 2 ^ 25 + f.bits
  | .std f => 11 * 2 ^ 25 + f.bits
  | .stq f => 12 * 2 ^ 25 + f.bits
  | .aadd f => 16 * 2 ^ 25 + f.bits
  | .amin f => 17 * 2 ^ 25 + f.bits
  | .amax f => 18 * 2 ^ 25 + f.bits
  | .aminu f => 19 * 2 ^ 25 + f.bits
  | .amaxu f => 20 * 2 ^ 25 + f.bits
  | .aand f => 21 * 2 ^ 25 + f.bits
  | .aor f => 22 * 2 ^ 25 + f.bits
  | .axor f => 23 * 2 ^ 25 + f.bits
  | .axch f => 24 * 2 ^ 25 + f.bits
  | .acas f => 25 * 2 ^ 25 + f.bits
  | .afadd f => 26 * 2 ^ 25 + f.bits
  | .fence w k s => 32 * 2 ^ 25 + w.toNat * 2 ^ 31 + k.code * 2 ^ 18 + s.code
  | .mon w a s x => 33 * 2 ^ 25 + w.toNat * 2 ^ 31 + a.val * 2 ^ 11 + s.val * 2 ^ 5 + x.toNat * 2 ^ 4
  | .mwait w s => 34 * 2 ^ 25 + w.toNat * 2 ^ 31 + s.code * 2 ^ 5
  | .pref w l e a s x => 35 * 2 ^ 25 + w.toNat * 2 ^ 31 + e.toNat * 2 ^ 19 + l.toNat * 2 ^ 18 + a.val * 2 ^ 11 + s.val * 2 ^ 5 + x.toNat * 2 ^ 4
  | .cmo w o l s => 36 * 2 ^ 25 + w.toNat * 2 ^ 31 + l.val * 2 ^ 20 + o.code * 2 ^ 18 + s.val * 2 ^ 5
  | .claim w s => 37 * 2 ^ 25 + w.toNat * 2 ^ 31 + s.val * 2 ^ 5
  | .smap w n s => 40 * 2 ^ 25 + w.toNat * 2 ^ 31 + n.val * 2 ^ 18 + s.val * 2 ^ 5
  | .sunmap w n x => 41 * 2 ^ 25 + w.toNat * 2 ^ 31 + x.toNat * 2 ^ 21 + n.val * 2 ^ 18
  | .mqput w d s x o => 42 * 2 ^ 25 + w.toNat * 2 ^ 31 + d.val * 2 ^ 18 + s.val * 2 ^ 5 + x.toNat * 2 ^ 4 + queueOrdBits o
  | .mqget w d s o => 43 * 2 ^ 25 + w.toNat * 2 ^ 31 + d.val * 2 ^ 18 + s.val * 2 ^ 5 + queueOrdBits o
  | .vspill w d s x => 44 * 2 ^ 25 + w.toNat * 2 ^ 31 + d.val * 2 ^ 18 + s.val * 2 ^ 5 + x.toNat * 2 ^ 4
  | .vfill w d s => 45 * 2 ^ 25 + w.toNat * 2 ^ 31 + d.val * 2 ^ 18 + s.val * 2 ^ 5
  | .dwopen w c s => 46 * 2 ^ 25 + w.toNat * 2 ^ 31 + c.toNat * 2 ^ 18 + s.val * 2 ^ 5
  | .dwacc w s => 47 * 2 ^ 25 + w.toNat * 2 ^ 31 + s.val * 2 ^ 5
  | .bar w k s o => 48 * 2 ^ 25 + w.toNat * 2 ^ 31 + k.code * 2 ^ 18 + s.val * 2 ^ 5 + o.code
  | _ => 0

/-- The bits of the first word of a CT instruction. -/
def encodeCT : Instr → Nat
  | .swriteTdead w a => 9 * 2 ^ 25 + w.toNat * 2 ^ 31 + a.bits + 36
  | .swriteChkmode w a => 9 * 2 ^ 25 + w.toNat * 2 ^ 31 + a.bits + 49
  | .swriteInj w a => 9 * 2 ^ 25 + w.toNat * 2 ^ 31 + a.bits + 48
  | .swriteDvfsreq w a => 9 * 2 ^ 25 + w.toNat * 2 ^ 31 + a.bits + 50
  | .swriteCauseset w a => 9 * 2 ^ 25 + w.toNat * 2 ^ 31 + a.bits + 29
  | .bra f => 0 * 2 ^ 25 + f.bits
  | .brx w a l => 1 * 2 ^ 25 + w.toNat * 2 ^ 31 + a.code * 2 ^ 11 + l.toNat * 2 ^ 3
  | .call f => 2 * 2 ^ 25 + f.bits
  | .callx w a l => 3 * 2 ^ 25 + w.toNat * 2 ^ 31 + a.code * 2 ^ 11 + l.toNat * 2 ^ 3
  | .ret w => 4 * 2 ^ 25 + w.toNat * 2 ^ 31
  | .exit w => 5 * 2 ^ 25 + w.toNat * 2 ^ 31
  | .mcall w n p q t => 6 * 2 ^ 25 + w.toNat * 2 ^ 31 + n.val * 2 ^ 19 + p.code * 2 ^ 12 + q.code * 2 ^ 5 + t.val
  | .nop w => 7 * 2 ^ 25 + w.toNat * 2 ^ 31
  | .sread w d n => 8 * 2 ^ 25 + w.toNat * 2 ^ 31 + d.bits + n.toNat
  | .swrite w a n => 9 * 2 ^ 25 + w.toNat * 2 ^ 31 + a.bits + n.toNat
  | .icinv w a b m => 10 * 2 ^ 25 + w.toNat * 2 ^ 31 + a.code * 2 ^ 13 + b.code * 2 ^ 7 + m.toNat
  | .tmark w i => 11 * 2 ^ 25 + w.toNat * 2 ^ 31 + i.toNat
  | .rdv w d v s => 16 * 2 ^ 25 + w.toNat * 2 ^ 31 + d.val * 2 ^ 18 + s.toNat * 2 ^ 8 + v.toNat
  | .sleept w a i => 17 * 2 ^ 25 + w.toNat * 2 ^ 31 + a.code * 2 ^ 13 + i.toNat
  | .yield w => 18 * 2 ^ 25 + w.toNat * 2 ^ 31
  | .wdog w a => 19 * 2 ^ 25 + w.toNat * 2 ^ 31 + a.code * 2 ^ 13
  | .trap w i => 24 * 2 ^ 25 + w.toNat * 2 ^ 31 + i.toNat
  | .rte w => 25 * 2 ^ 25 + w.toNat * 2 ^ 31
  | .cclr w i => 26 * 2 ^ 25 + w.toNat * 2 ^ 31 + i.toNat
  | .bkpt w i => 27 * 2 ^ 25 + w.toNat * 2 ^ 31 + i.toNat
  | .halt w => 28 * 2 ^ 25 + w.toNat * 2 ^ 31
  | _ => 0

/-- The bits of the first word of a UN instruction. -/
def encodeUN : Instr → Nat
  | .sadd f => 0 * 2 ^ 25 + f.bits
  | .ssub f => 1 * 2 ^ 25 + f.bits
  | .smul f => 2 * 2 ^ 25 + f.bits
  | .smulh f => 3 * 2 ^ 25 + f.bits
  | .sdivu f => 4 * 2 ^ 25 + f.bits
  | .sand f => 5 * 2 ^ 25 + f.bits
  | .sor f => 6 * 2 ^ 25 + f.bits
  | .sxor f => 7 * 2 ^ 25 + f.bits
  | .sshl f => 8 * 2 ^ 25 + f.bits
  | .sshr f => 9 * 2 ^ 25 + f.bits
  | .ssar f => 10 * 2 ^ 25 + f.bits
  | .smin f => 11 * 2 ^ 25 + f.bits
  | .smax f => 12 * 2 ^ 25 + f.bits
  | .sset f c => 13 * 2 ^ 25 + f.bits + c.code * 2
  | .saddi w d a i => 16 * 2 ^ 25 + w.toNat * 2 ^ 31 + d.code * 2 ^ 19 + a.code * 2 ^ 13 + i.toNat
  | .smovi w d i => 17 * 2 ^ 25 + w.toNat * 2 ^ 31 + d.code * 2 ^ 19 + i.toNat
  | .slit w d m _ => 18 * 2 ^ 25 + w.toNat * 2 ^ 31 + d.code * 2 ^ 19 + m.code
  | .sbra w z a i => 20 * 2 ^ 25 + w.toNat * 2 ^ 31 + z.toNat * 2 ^ 19 + a.code * 2 ^ 13 + i.toNat
  | .sld w d a i => 21 * 2 ^ 25 + w.toNat * 2 ^ 31 + d.val * 2 ^ 19 + a.val * 2 ^ 13 + i.toNat
  | .sst w d a i => 22 * 2 ^ 25 + w.toNat * 2 ^ 31 + d.code * 2 ^ 19 + a.val * 2 ^ 13 + i.toNat
  | .sv2s w d a n => 23 * 2 ^ 25 + w.toNat * 2 ^ 31 + d.code * 2 ^ 19 + a.code * 2 ^ 12 + n.val * 2 ^ 7
  | .ss2v w d a h => 24 * 2 ^ 25 + w.toNat * 2 ^ 31 + d.code * 2 ^ 18 + a.code * 2 ^ 12 + h.toNat * 2 ^ 11
  | _ => 0

/-- The bits of the first word of a MX instruction. -/
def encodeMX : Instr → Nat
  | .wload w a b c => 0 * 2 ^ 25 + w.toNat * 2 ^ 31 + a.code * 2 ^ 13 + b.code * 2 ^ 7 + c.code * 2
  | .wswap w => 1 * 2 ^ 25 + w.toNat * 2 ^ 31
  | .azero w g b => 2 * 2 ^ 25 + w.toNat * 2 ^ 31 + g.toNat * 2 + b.toNat
  | .mma w a b c m => 3 * 2 ^ 25 + w.toNat * 2 ^ 31 + a.code * 2 ^ 13 + b.code * 2 ^ 7 + c.code * 2 + m.toNat
  | .mmaq w q b m => 4 * 2 ^ 25 + w.toNat * 2 ^ 31 + q.val * 2 ^ 13 + b.code * 2 ^ 7 + m.toNat
  | .mmag w c b u => 5 * 2 ^ 25 + w.toNat * 2 ^ 31 + c.val * 2 ^ 13 + b.code * 2 ^ 7 + u.val * 2
  | .again w a b => 6 * 2 ^ 25 + w.toNat * 2 ^ 31 + a.code * 2 ^ 13 + b.code * 2 ^ 7
  | .ascan w a k b => 7 * 2 ^ 25 + w.toNat * 2 ^ 31 + a.code * 2 ^ 13 + k.toNat * 2 + b.toNat
  | .carryld w a b z => 8 * 2 ^ 25 + w.toNat * 2 ^ 31 + a.code * 2 ^ 13 + b.code * 2 ^ 7 + z.toNat
  | .carryst w a b => 9 * 2 ^ 25 + w.toNat * 2 ^ 31 + a.code * 2 ^ 13 + b.code * 2 ^ 7
  | .drain w a b c m => 10 * 2 ^ 25 + w.toNat * 2 ^ 31 + a.code * 2 ^ 13 + b.code * 2 ^ 7 + c.code * 2 + m.toNat
  | .drainq w q b m => 11 * 2 ^ 25 + w.toNat * 2 ^ 31 + q.val * 2 ^ 13 + b.code * 2 ^ 7 + m.toNat
  | .draing w d a b c => 12 * 2 ^ 25 + w.toNat * 2 ^ 31 + d.code * 2 ^ 19 + a.code * 2 ^ 13 + b.code * 2 ^ 7 + c.code * 2
  | .draingQ w d q b c => 12 * 2 ^ 25 + w.toNat * 2 ^ 31 + d.code * 2 ^ 19 + q.val * 2 ^ 13 + b.code * 2 ^ 7 + c.code * 2 + 1
  | .msync w p k s => 13 * 2 ^ 25 + w.toNat * 2 ^ 31 + p.toNat * 2 ^ 6 + k.code * 2 ^ 4 + s.code
  | .mstat w d c => 14 * 2 ^ 25 + w.toNat * 2 ^ 31 + d.code * 2 ^ 19 + c.toNat
  | _ => 0

/-- The bits of the first word of a CP instruction. -/
def encodeCP : Instr → Nat
  | .cpy w d a => 0 * 2 ^ 25 + w.toNat * 2 ^ 31 + d.code * 2 ^ 19 + a.code * 2 ^ 13
  | .cpyr w d a => 1 * 2 ^ 25 + w.toNat * 2 ^ 31 + d.code * 2 ^ 19 + a.code * 2 ^ 13
  | .gath w d a => 2 * 2 ^ 25 + w.toNat * 2 ^ 31 + d.code * 2 ^ 19 + a.code * 2 ^ 13
  | .scat w d a => 3 * 2 ^ 25 + w.toNat * 2 ^ 31 + d.code * 2 ^ 19 + a.code * 2 ^ 13
  | .jwait w n => 4 * 2 ^ 25 + w.toNat * 2 ^ 31 + n.val
  | .jstat w d c => 5 * 2 ^ 25 + w.toNat * 2 ^ 31 + d.code * 2 ^ 19 + c.toNat
  | .enq f => 6 * 2 ^ 25 + f.bits
  | _ => 0

/-- The bits of an instruction's first word (R97, R98, R106, R114, R165, R166, R197, R246 and the entries of the CT and CP
words); an event has none and answers 0. -/
def encodeBits (i : Instr) : Nat :=
  match i.cls with
  | some .vi => encodeVI i
  | some .vf => encodeVF i
  | some .vm => encodeVM i
  | some .ct => encodeCT i
  | some .un => encodeUN i
  | some .mx => encodeMX i
  | some .cp => encodeCP i
  | none => 0

/-- The words of an instruction: its own word, and after SLIT the literal; none for an event. -/
def encode : Instr → List Word
  | .slit w d m lit => [BitVec.ofNat 32 (encodeBits (.slit w d m lit)), lit]
  | i => match i.cls with
    | some _ => [BitVec.ofNat 32 (encodeBits i)]
    | none => []

/-- The classes in the order a bare word tries them (log 1): a word of the opcode table stands without a header, and a
class is a property of the clause (R49). -/
def classOrder : List Cls := [.vi, .vf, .vm, .ct, .un, .mx, .cp]

/-- The first class of the list in which the word is legal. -/
def decodeBare (w : Nat) (lit : Word) : List Cls → Option (Cls × Instr)
  | [] => none
  | c :: cs =>
    match decodeWord c w (some lit) with
    | .ok i => some (c, i)
    | .error _ => decodeBare w lit cs

/-- The instruction the decoder reads from the table word w of nbits bits: in the first class in which it is legal, with a
literal word of zeros above it (log 1). -/
def decodeTableWord (nbits w : Nat) : Option Instr :=
  if nbits ≤ 32 then (decodeBare (w % 2 ^ 32) 0 classOrder).map (·.2)
  else (decodeBare (w % 2 ^ 32) (BitVec.ofNat 32 (w / 2 ^ 32)) classOrder).map (·.2)

end Sys2Proof
end

