-- ==== Sys2Proof/Machine/State.lean ====
section
/-! DEFINITION. The whole state of the N4 as plain data, its reasons to stop, and the state after reset. Every field
names the rule that gives it; fields of the model's own say so and name their log entry. -/

namespace Sys2Proof.Machine

/-- A sorted association list: the value of an absent key is the reader's default. -/
abbrev Tbl (α : Type) := List (Nat × α)

/-- Causes, bits 0-17 of CAUSE (R379). -/
inductive Cause where
  | illi | algn | xlat | perm | pois | cont | prom | wdog | rsov | timr | swtr | brkp | halt | prmp | qerr | fprt
  | home | mxf
  deriving DecidableEq, Repr

/-- Bound value of a vector name, with one poison bit per lane (R22, R27). -/
structure VReg where
  val : Lanes Word
  poison : LaneMask
  deriving DecidableEq, Repr

/-- A uniform register with its poison bit (R27, R31). -/
structure SReg where
  val : DWord
  poison : Bool
  deriving DecidableEq, Repr

/-- Entry of a stage queue: a vector entry, or a scalar one (R29, R327). -/
inductive QEntry where
  | vec (v : VReg)
  | sca (v : SReg)
  deriving DecidableEq, Repr

/-- A microprogram that an MCALL is running (R67, R68, R86). -/
structure Micro where
  slot : Nat
  hdr : Header
  words : List Word
  idx : Nat
  active : LaneMask
  deriving DecidableEq, Repr

/-- Lane part of a memory access: virtual address, translation, key, memory type, the bytes of a store, and whether it is a store into the
tentative range of the crew's draft window (R136). Once performed it has the time at which it was (R270), the line's interval then, and the
interval in which the line had last been written (R281, R310). -/
structure LaneAcc where
  lane : Fin 32
  va : Nat
  pa : Nat
  kid : Nat
  mt : Nat
  len : Nat
  data : List Byte
  tent : Bool := false
  /-- The time at which a store was written into the core's L1 before it was performed (R225, R270); 0 for none. -/
  early : Nat := 0
  time : Nat := 0
  ival : Nat := 0
  last : Nat := 0
  deriving DecidableEq, Repr

/-- Wait that the word at a port is in (R254, R255, R260, R266, R340, R341). `arrive` names the counting atomic of an ARWAIT
among the outstanding words. -/
inductive Wait where
  | mwait (deadline : Option Nat)
  | sleept (deadline : DWord)
  | jwait (n : Nat)
  | bar (acc : LaneAcc) (ph : Word) (scope : Scope) (arrive : Option Nat)
  | rdv (d : Fin 56) (v s : BitVec 8)
  /-- A RET waits for its refills, the outstanding word of that number (R345). -/
  | refill (word : Nat)
  deriving DecidableEq, Repr

/-- A fetch port (R77) and, when halted at a word, its stop record (R382). `head` is the offset of the clause header. -/
structure Port where
  held : Bool
  secondary : Bool
  head : Nat
  hdr : Header
  words : List Word
  idx : Nat
  lanes : LaneMask
  active : LaneMask
  moved : LaneMask
  started : Bool
  micro : Option Micro
  halted : Bool
  /-- XLAT or PERM stopped its word, which is retried; the bit is cleared when the word passes (R381, R386). -/
  retry : Option Cause
  /-- A TRAP or BKPT has been performed and its cause is to be delivered before the next word (R385). -/
  trapped : Bool
  /-- Its next word could not issue when last tried (R336). -/
  stall : Bool
  wait : Option Wait
  /-- The entry that the word in a stoppable wait popped, by stage queue: a stop gives it back (R255, R377). -/
  popped : Option (Nat × QEntry)
  /-- A YIELD of the clause has been performed: the gang yields once the clause has completed (R342). -/
  yields : Bool
  deriving DecidableEq, Repr

/-- Arithmetic of an atomic lane (R248). -/
inductive AtomOp where
  | add | min | max | minu | maxu | and | or | xor | xch | cas | fadd
  deriving DecidableEq, Repr

/-- How loaded bytes become a lane value (R119). -/
inductive LoadExt where
  | zero | sign
  deriving DecidableEq, Repr

/-- What an outstanding word still has to do (R47, R56). -/
inductive PendKind where
  /-- Vector load into `regs` names from d (R119). -/
  | load (ext : LoadExt) (d : Fin 116) (regs : Nat)
  /-- SLD (R111). -/
  | sld (d : Fin 56)
  /-- Atomic; `cmp` holds the new values of ACAS (R248). -/
  | atomic (op : AtomOp) (d : Fin 116) (x : Lanes Word) (new : Lanes Word)
  /-- VFILL (R132). -/
  | vfill (d : Fin 116)
  /-- MQGET of an entry (R128). -/
  | mqget (d : Fin 116) (e : VReg)
  /-- A long result of VF, already computed (R163). -/
  | value (d : Fin 116) (vals : List (Lanes Word))
  /-- SDIVU (R108). -/
  | svalue (d : Fin 56) (v : DWord)
  /-- The interval read of MON (R253). -/
  | mon
  /-- A RET refill (R84). -/
  | refill
  /-- A store word; `counted` on the store counter (R47), `covered` by the store order of R226. -/
  | store (counted covered : Bool)
  /-- CMO over lines of a range (R256). -/
  | cmo (op : CmoOp) (level : Nat)
  /-- CLAIM of leaves, given by their first VA; `before` has the next word number of every party, and `jobs` the next job number, when it
  issued: later accesses to the leaves wait until they have moved (R258, R302). -/
  | claim (leaves : List Nat) (before : List (Ident × Nat)) (jobs : Nat)
  /-- SUNMAP without discard (R126). -/
  | sunmap (window : Nat)
  /-- Arrive part of BAR (R260). -/
  | arrive
  /-- An MQPUT entry on its way to queue q of core k (R128). -/
  | mqput (core : Nat) (q : Nat) (e : VReg)
  /-- An ENQ whose slot is still to be written; `bad` are the poisoned elements of the command (R344). -/
  | enq (queue : Nat) (seq : Nat) (bytes : List Byte) (bad : List Nat)
  /-- An engine job (R192, R262). -/
  | job (id : Nat)
  /-- A FENCE or an ordered word without data (R228, R229, R252). -/
  | fence (k : FenceKind)
  deriving DecidableEq, Repr

/-- An outstanding word of a party, oldest first in its list. While its lanes are being performed, `accs` holds those still to be performed,
`past` those that have been, and `vals` what they have read (R119, R234); before and after, `accs` holds every lane. -/
structure Pend where
  id : Nat
  kind : PendKind
  active : LaneMask
  accs : List LaneAcc
  past : List LaneAcc
  vals : List (Fin 32 × List Byte × List Bool)
  ord : Bool
  scope : Scope
  /-- The value a load or an atomic has bound: one register per name. -/
  bound : Option (List VReg)
  /-- Performed (R223); a result may still be to be written back. -/
  performed : Bool
  /-- Seen early by the crew (R225): the value of `fresh` at which it was, plus 1; 0 for not yet. -/
  early : Nat
  /-- FLAGS to be set at the write-back (R248). -/
  flags : BitVec 32
  /-- The time that a release has taken (R270, R279); 0 for none yet. -/
  tp : Nat
  /-- Position of the word (R406). -/
  pos : Nat
  /-- The names a word's results count as bound for (R24). -/
  dests : List (Fin 116)
  deriving DecidableEq, Repr

/-- The monitor of a gang, or the watch of a WAITSEM (R253, R324). `touched`: another party of the unit that holds the line with PERM W
has stored to it, which begins no interval (R253, R271, log 46). -/
structure Monitor where
  line : Nat
  kid : Nat
  interval : Nat
  sub : Option Nat
  touched : Bool
  deriving DecidableEq, Repr

/-- Handler state (R382): which handler, the privilege before, the live lanes at entry and the stop records. -/
structure Handler where
  sup : Bool
  privBefore : Bool
  live : LaneMask
  stops : List Port
  deriving DecidableEq, Repr

/-- A faulty interval a party drew from (R281). -/
structure Drawn where
  line : Nat
  kid : Nat
  interval : Nat
  deriving DecidableEq, Repr

/-- A gang or a sequencer thread. -/
structure Party where
  role : Role
  /-- Identity QUEUE, STAGE, CREW, GANG, THR, CSEQ (R399). -/
  ident : Ident
  part : Fin 4
  asid : Nat
  bundle : Nat
  stage : Nat
  crew : Nat
  gang : Nat
  crewN : Nat
  gridN : Nat
  codebase : Nat
  psp : Nat
  userh : Nat
  vreg : Nat
  sup : Bool
  present : LaneMask
  /-- Core in package for a gang, 4 * cluster for a thread (R14), and the gang scheduler of the core. -/
  core : Nat
  sched : Nat
  /-- Stage queue bound to each port, by number (R326). -/
  qports : Vector (Option Nat) 8
  sqports : Vector (Option Nat) 8
  vregs : Vector (Option VReg) 116
  preds : Vector LaneMask 7
  sregs : Vector SReg 56
  pcv : Lanes Word
  epcv : Lanes Word
  inmac : Bool
  midx : Nat
  /-- On-chip return entries, the newest first (R34). -/
  rstack : Lanes (List Word)
  rsp : Lanes DWord
  rsdepth : Lanes Word
  /-- Offset of the RET word that gave a lane its PC, until the lane fetches there; all ones for none (R84). -/
  retFrom : Lanes Word
  cause : BitVec 32
  causem : BitVec 32
  /-- Bits of CAUSE set by CAUSESET and not cleared since (R42). -/
  causeset : BitVec 32
  contrec : Vector DWord 4
  flags : BitVec 32
  grun : DWord
  tdead : DWord
  inj : DWord
  wdogv : Word
  /-- Issued bits of the watchdog (R337), and whether it has expired for the next vote boundary. -/
  issued : LaneMask
  stalled : LaneMask
  port : Port
  mate : Port
  pend : List Pend
  nextId : Nat
  handler : Option Handler
  halted : Bool
  replayable : Bool
  /-- A MAP has completed since it became replayable (R381). -/
  remapped : Bool
  /-- Saved and not restored yet (R390). -/
  switchedOut : Bool
  /-- Yielding since a YIELD (R342): CYCR of its die at which 8 cycles have passed since the clause completed. -/
  yielding : Option Nat
  /-- A thread stopped under R379. -/
  stopped : Bool
  monitor : Option Monitor
  /-- The outstanding MON that arms the monitor when it returns: the newest one (R253). -/
  monPend : Option Nat
  /-- Copy status ERR (R267). -/
  copyErr : Nat
  drawn : List Drawn
  /-- Containment found and not yet raised (R282). -/
  contDue : Bool
  /-- The first word that the containment has dropped: every later store is dropped with it (R282). -/
  dropFrom : Option Nat
  /-- Store words dropped since the containment (R282). -/
  dropped : Nat
  /-- Time of the last release that completed (R286). -/
  lastRel : Nat
  /-- Clauses retired and votes held since the start (R388, R408). -/
  clauses : Nat
  votes : Nat
  /-- Done something that makes the crew unflushable (R388). -/
  noFlush : Bool
  /-- Clauses issued since the last SYNC record; none when one is due (R408). -/
  sync : Option Nat
  /-- A SYNC record has been written since instruction trace was last set: FLOW records may follow (R408). -/
  synced : Bool
  /-- A resumed gang does not match again the breakpoints it halted at (R409): their clause headers. -/
  bkptPast : List Nat
  /-- The last word was an MSYNC with PP = 1 (R213, R388). -/
  atPoint : Bool
  /-- imm18 of the last TRAP or BKPT that stops the thread (R385). -/
  trapImm : Nat
  deriving DecidableEq, Repr

/-- A mapped stash window of a crew (R123). -/
structure Window where
  va : Nat
  len : Nat
  off : Nat
  asid : Nat
  /-- Lines that have been touched through the window: it holds those of them that the core still holds (R125). -/
  lines : List Nat
  /-- Of these, lines that the window holds dirty, with the bytes that their home then held and its poisoned elements (R125, R126, R378). -/
  dirty : Tbl (List Byte × List Nat)
  deriving DecidableEq, Repr

/-- An open draft window (R134-R136); tentative bytes by VA. -/
structure Draft where
  holder : Ident
  desc : Nat
  base : Nat
  slotsz : Nat
  c : Nat
  t : Nat
  nslot : Nat
  stashoff : Nat
  bytes : Tbl Byte
  deriving DecidableEq, Repr

/-- A crew on a core: windows and draft window (R123, R134). -/
structure Crew where
  bundle : Nat
  stage : Nat
  crew : Nat
  core : Nat
  windows : Vector (Option Window) 8
  draft : Option Draft
  /-- Registers reserved by admission (R332). -/
  reserve : Nat
  /-- PRMP request: RTIME at which it was made, and the action chosen (R388): 0 flush, 1 drain, 2 save. -/
  prmp : Option (Nat × Nat)
  clauses : Nat
  /-- A gang that has left did something that makes the crew unflushable (R388). -/
  noFlush : Bool
  deriving DecidableEq, Repr

/-- A message queue entry with its sender core within the cluster (R127). -/
structure MqEntry where
  sender : Nat
  entry : VReg
  deriving DecidableEq, Repr

/-- TLB entry (R359). -/
structure TlbEntry where
  asid : Nat
  part : Fin 4
  level : Nat
  vpn : Nat
  pte : BitVec 64
  deriving DecidableEq, Repr

/-- A word as a line of the instruction cache or a loop-buffer copy holds it since a fetch (R48, R91, R92). A word has one entry for each
value it had when its line was fetched since the last ICINV of it. -/
structure IWord where
  asid : Nat
  va : Nat
  word : Word
  deriving DecidableEq, Repr

/-- Entry of a reorder checker (R276): party, program order, kind, scope, the latest and the earliest of its lanes' times (R270), and of each
line it touched the key, the interval and whether it wrote it. -/
structure REntry where
  party : Ident
  seq : Nat
  store : Bool
  load : Bool
  /-- An access to memory: a load, a store, an atomic or a CMO (R244). -/
  access : Bool
  covered : Bool
  /-- A store to write-combined pages, which keep no order among themselves (R226). -/
  combined : Bool
  rel : Bool
  acq : Bool
  fence : Option FenceKind
  scope : Scope
  tc : Nat
  tp : Nat
  tc0 : Nat
  tp0 : Nat
  spans : List (Nat × Nat)
  lines : List (Nat × Nat × Nat)
  checked : Bool
  deriving DecidableEq, Repr

/-- A core (R10-R14). -/
structure Core where
  /-- Stash split in 64 KiB steps (R12). -/
  split : Nat
  mqOwner : Option Nat
  mq : Vector (List MqEntry) 4
  /-- Credits this core holds: queue q of core k at index 4 * k + q (R127). -/
  credits : Vector Nat 16
  /-- Control store words by offset / 4 in the core's window (R70). -/
  cstore : Tbl Word
  icache : List IWord
  /-- Data entries of the L1 TLB, newest first (R359). -/
  tlb : List TlbEntry
  /-- Instruction entries of the L1 TLB, newest first (R359). -/
  itlb : List TlbEntry
  reorder : List REntry
  lastSel : Vector Nat 4
  gated : Bool
  deriving DecidableEq, Repr

/-- Coherence states (R288). -/
inductive Moesi where
  | m | o | e | s
  deriving DecidableEq, Repr

/-- A holder of a line (R271, R288): unit number, state, the remote copy's unit it lies beneath (R290), the line's bytes when
its interval began (whose CRC-32C is HSTART, R273), its bytes now where they differ from the line's value, the parties
that have read from it since its last clean seal in the interval, each with the logical time, and whether its core has loaded the line since
its last seal (R274). -/
structure Holder where
  unit : Nat
  st : Moesi
  beneath : Option Nat
  start : Nat
  first : List Byte
  own : Option (List Byte)
  readers : List (Ident × Nat)
  loaded : Bool
  deriving DecidableEq, Repr

/-- State of a 64-byte half at the host (R291). -/
inductive HostHalf where
  | n | hs | hm
  deriving DecidableEq, Repr

/-- What the checkers keep of an access until what it touched is verified: a party, or a job of its, read a line from a unit's copy or wrote it
during an interval, at a logical time, the line having last been written in interval `last`; for a job, when it was reported to its issuer
(R281, R286, R310). -/
structure Use where
  who : Ident
  part : Fin 4
  job : Option Nat
  told : Option Nat
  line : Nat
  kid : Nat
  interval : Nat
  last : Nat
  unit : Nat
  write : Bool
  time : Nat
  deriving DecidableEq, Repr

/-- What made an interval faulty, as its containment records name it (R281, R283). -/
structure Verdict where
  /-- KIND: 1 reorder, 2 SWMR, 3 value. -/
  kind : Nat
  scope : Nat
  other : Nat
  detector : Nat
  time : Nat
  /-- RTIME when the violation was found. -/
  found : Nat
  /-- The units whose copies are not verified clean; none where every copy of the interval is faulty (R281). -/
  only : Option (List Nat)
  deriving DecidableEq, Repr

/-- A line's directory entry (R271, R288-R293). -/
structure Line where
  kid : Nat
  /-- Key and generation of its material under which the stored bytes stand (R365-R367). -/
  dkid : Nat
  dgen : Nat
  interval : Nat
  /-- The interval in which a store last changed the line, and the interval before that one in which a store had (R310). -/
  wrote : Nat
  prior : Nat
  /-- Its chain has begun under its key and has no interval yet: the next one is number 0, with no predecessor (R271, R293). -/
  unborn : Bool
  began : Nat
  /-- The line's bytes when its interval began. -/
  value0 : List Byte
  holders : List Holder
  /-- Sub-interval number beneath each remote copy, by its unit (R290). -/
  subs : Tbl Nat
  lo : HostHalf
  hi : HostHalf
  /-- Faulty intervals (R281), by key ID and number: kid * 2^32 + number, since an old key's chain keeps its own (R293). -/
  faulty : Tbl Verdict
  /-- Its interval keeps records: the mode in force when it began (R285). -/
  recorded : Bool
  frozen : Bool
  /-- What a failed home die leaves in HBM (R395): 1 a line its own units held with PERM W, 2 one whose newest data was elsewhere. -/
  lost : Nat
  /-- Key IDs under which its lines have been opened to supervisor loads (R256, R257). -/
  salvaged : List Nat
  pinned : List Nat
  deriving DecidableEq, Repr

/-- Kinds of a sinter record (R273), and the open notice of R274. -/
inductive SinterKind where
  | opened | close | discard | engine | atomic | seal | retire
  deriving DecidableEq, Repr

/-- A sinter record not yet checked (R273). It carries the bytes that HSTART and HEND are the CRC-32C of. -/
structure Sinter where
  line : Nat
  kid : Nat
  kind : SinterKind
  /-- HALF: 0 whole line, 1 bytes 0-63, 2 bytes 64-127. -/
  half : Nat
  write : Bool
  interval : Nat
  beneath : Option Nat
  sub : Nat
  unit : Nat
  tstart : Nat
  tend : Nat
  first : List Byte
  last : List Byte
  readers : List (Ident × Nat)
  deriving DecidableEq, Repr

/-- A DVFS and clock block of a compute die (R301-R308). -/
structure Die where
  cur : Nat
  req : Nat
  busy : Bool
  /-- RTIME of the write that began the hold, the step the running relock goes to, and RTIME at which it ends (R307). -/
  since : Nat
  target : Nat
  relockEnd : Option Nat
  cycr : DWord
  acc : BitVec 80
  /-- MODEL'S OWN: thousandths of a cycle that have passed since the last one counted. -/
  phase : Nat
  locfill : DWord
  remfill : DWord
  /-- MODEL'S OWN: the cycle of the last counted transfer, and the transfers of that cycle by counter (R301). -/
  arrived : DWord × DWord × DWord
  failed : Bool
  lastSup : Nat
  /-- It was over TLIMIT, last at this RTIME, and its step has not been restored since (R420). -/
  hotAt : Option Nat
  deriving DecidableEq, Repr

/-- An element of the matrix engine with its poison bit (R185, R195). -/
structure Elem where
  bits : Word
  poison : Bool
  deriving DecidableEq, Repr

/-- Weight bank (R185, R199): codes and scales as rational-free bit patterns, by index. -/
structure WBank where
  valid : Bool
  fmt : Nat
  k : Nat
  n : Nat
  w : Tbl Elem
  scale : Tbl Nat
  deriving DecidableEq, Repr

/-- Matrix engine of a cluster (R185, R196). Absent table entries hold the reset values: +0, +1.0 for the gain plane. -/
structure Engine where
  w0 : WBank
  w1 : WBank
  wact : Bool
  acc0 : Tbl Elem
  acc1 : Tbl Elem
  absent0 : List Nat
  absent1 : List Nat
  gain : Tbl Elem
  carry : Tbl Elem
  /-- FCODE and the flag bits [5:0] of MSTAT. -/
  fcode : Nat
  flags : BitVec 6
  deriving DecidableEq, Repr

/-- A cluster: its matrix engine (R10, R14). -/
structure Cluster where
  engine : Engine
  lastThread : Bool
  /-- Entries of the L2 TLB, newest first (R359). -/
  tlb : List TlbEntry
  deriving DecidableEq, Repr

/-- MX instructions that are performed after issue (R187). -/
inductive MxOp where
  | wload | azero | mma | mmaq | mmag | again | ascan | carryld | carryst | drain | drainq | draing | draingQ
  deriving DecidableEq, Repr

/-- What an engine job does, with the operand values latched at issue (R192, R262). -/
inductive JobKind where
  | cpy (dst src len : Nat)
  | cpyr (dst src len nrow sstride dstride : Nat)
  | gath (dst src idx elem len span : Nat)
  | scat (dst src idx elem len span : Nat)
  /-- An MX word with its S operands and what else it latches at issue, its descriptor, the bank it resolved and its option
  bit (R186-R191). -/
  | mx (op : MxOp) (args : List Nat) (desc : Nat) (bank : Bool) (bit : Bool)
  deriving DecidableEq, Repr

/-- A stretch of a footprint: VA, PA, bytes, key, memory type (R262). -/
structure Extent where
  va : Nat
  pa : Nat
  len : Nat
  kid : Nat
  mt : Nat
  deriving DecidableEq, Repr

/-- An engine job live in the task scheduler (R192, R240). -/
structure Job where
  id : Nat
  kind : JobKind
  issuer : Ident
  bundle : Nat
  cluster : Nat
  pend : Nat
  /-- The engine holds its intervals over the footprint (R280). -/
  opened : Bool
  started : Bool
  complete : Bool
  reported : Bool
  promise : DWord
  missed : Bool
  reads : List Extent
  writes : List Extent
  err : Nat
  /-- The faulty interval it drew from (R281). -/
  faulty : Option Drawn
  total : Nat
  copy : Bool
  /-- Rows consumed or drained so far, and queue entries popped for the current row or still to be pushed (R202, R203, R207). -/
  row : Nat
  buf : List VReg
  buf2 : List VReg
  deriving DecidableEq, Repr

/-- Stage record of a launch descriptor (R326). -/
structure StageRec where
  entry : Nat
  kind : Nat
  coresident : Bool
  perdie : Bool
  twin : Bool
  priv : Bool
  idem : Bool
  gridN : Nat
  crewN : Nat
  vreg : Nat
  mininst : Nat
  maxinst : Nat
  clauses : Nat
  stash : Nat
  mq : Bool
  lanesN : Nat
  q : Vector (Option Nat) 8
  sq : Vector (Option Nat) 8
  qu : Vector (Option Nat) 8
  args : Vector DWord 16
  deriving DecidableEq, Repr

/-- Queue record of a launch descriptor (R327). -/
structure QueueRec where
  depth : Nat
  scalar : Bool
  twin : Nat
  src : Nat
  dst : Nat
  deriving DecidableEq, Repr

/-- A launch descriptor (R325). -/
structure Desc where
  codebase : Nat
  pspbase : Nat
  userh : Nat
  stages : List StageRec
  queues : List QueueRec
  deriving DecidableEq, Repr

/-- A stage queue (R327-R330). -/
structure Queue where
  entries : List QEntry
  closed : Bool
  /-- RTIME since which the queue has been full (R335). -/
  fullSince : Option Nat
  deriving DecidableEq, Repr

/-- A saved crew or instance of a stage (R44, R390): its crew record, with the mappings of its windows, and the engine of an
M-thread. Its parties stay among the machine's parties, switched out. -/
structure Saved where
  stage : Nat
  crew : Nat
  record : Crew
  engine : Option Engine
  deriving DecidableEq, Repr

/-- Progress of a stage (R330-R333): instances not started, resident, finished. -/
structure StageState where
  pending : List Nat
  resident : Nat
  exited : Nat
  finished : Bool
  /-- Clauses retired by crews that have exited, and whether one of them was not flushable (R388). -/
  goneClauses : Nat
  goneNoFlush : Bool
  deriving DecidableEq, Repr

/-- A bundle (R319-R330). -/
structure Bundle where
  id : Nat
  part : Fin 4
  asid : Nat
  queue : Nat
  cseq : Nat
  desc : Desc
  stages : List StageState
  queues : List Queue
  status : Nat
  /-- The containment record of the first footprint race by the host with a job of it (R242, log 89). -/
  record : Option (Vector DWord 4)
  /-- imm18 of the TRAP or BKPT a thread stopped on (R385). -/
  trapImm : Nat
  saved : List Saved
  /-- The bundle has retired; the logical time its end phase waits for (R321). -/
  retired : Bool
  endTime : Nat
  deriving DecidableEq, Repr

/-- Command queue control block (R318) and the command its vent core holds. -/
structure Qcb where
  base : DWord
  head : Word
  tail : Word
  asid : Nat
  part : Fin 4
  log2n : Nat
  devenq : Bool
  sup : Bool
  enable : Bool
  qerr : Nat
  /-- A command is being served (R320): its eight 64-bit words, the watch of a WAITSEM and the RTIME at which it last read
  its semaphore (R324). -/
  busy : Bool
  cmd : List Nat
  watch : Option Monitor
  polled : Nat
  /-- Sequence numbers whose ENQ was dropped by containment (R344). -/
  droppedSeqs : List Nat
  /-- Sequence numbers that a user party enqueued (R344). -/
  userSeqs : List Nat
  deriving DecidableEq, Repr

/-- The record of an address space (R352): its partition and the PA of its root table. -/
structure Space where
  part : Fin 4
  root : Nat
  deriving DecidableEq, Repr

/-- A partition (R363, R364): die mask, host KID, CHKMODE, CHKHZ. -/
structure Partition where
  dies : BitVec 4
  hostKid : Nat
  chkmode : BitVec 32
  chkhz : BitVec 48
  /-- The largest clock of the last broadcast (R269). -/
  maxClock : BitVec 48
  /-- Its last start has completed: the vent cores serve its queues (R414, R417). -/
  serving : Bool
  deriving DecidableEq, Repr

/-- A key ID in use (R365): its partition and the generation of its material. -/
structure Kid where
  part : Option (Fin 4)
  live : Bool
  gen : Nat
  deriving DecidableEq, Repr

/-- An inbound peer window (R371). -/
structure PeerWindow where
  pa : Nat
  len : Nat
  kid : Nat
  write : Bool
  deriving DecidableEq, Repr

/-- An Eweloth port (R370, R371). -/
structure PeerPort where
  up : Bool
  windows : Vector (Option PeerWindow) 8
  deriving DecidableEq, Repr

/-- The admin mailbox (R360). -/
structure Mailbox where
  request : List Byte
  response : List DWord
  result : Nat
  busy : Bool
  seq : Word
  /-- An UNMAP that has not completed: ASID, VA, level and the removed leaf (R362). -/
  unmapping : Option (Nat × Nat × Nat × BitVec 64)
  /-- The request that the last GO asked for (R360). -/
  latched : List Byte
  deriving DecidableEq, Repr

/-- An SPDM response: its code, the HSS leaf index it is signed with, and its content (R374, log 45). -/
structure SpdmAnswer where
  code : Byte
  leaf : Option Nat
  body : List Byte
  deriving DecidableEq, Repr

/-- The signed firmware image in the board's flash: the SHA-256 of its HSS public key, whether its signature is valid, and its security version
(R372, log 96). -/
structure Image where
  key : Nat
  signed : Bool
  version : Nat
  deriving DecidableEq, Repr

/-- The security engine: the root key hash of the ROM, the firmware image, minimum and running security version, next unused leaf index, end of the
reserved block, and the last response (R372-R375). -/
structure Security where
  rootKey : Nat
  image : Image
  minVersion : Nat
  runVersion : Nat
  leafNext : Nat
  leafEnd : Nat
  response : Option SpdmAnswer
  deriving DecidableEq, Repr

/-- The start block (R417) and the board record (R418). -/
structure Start where
  lastfail : Nat
  reason : Nat
  step : Nat
  force : Bool
  kind : Nat
  /-- A start is in progress, of these dies. -/
  running : Bool
  mask : BitVec 4
  /-- The board record's signature is valid (R418, log 96). -/
  signed : Bool
  layout : List (BitVec 4)
  initidx : Vector Nat 4
  plimit : Nat
  tlimit : Nat
  /-- RTIME of the vent cores' last check of the package power (R420). -/
  powerAt : Nat
  deriving DecidableEq, Repr

/-- A ring in device memory: the trace sink or the journal (R400, R405). -/
structure Ring where
  base : Nat
  log2 : Nat
  tail : DWord
  head : DWord
  deriving DecidableEq, Repr

/-- A breakpoint (R400, R409). -/
structure Bkpt where
  va : Nat
  lanes : LaneMask
  asid : Nat
  brkp : Bool
  armed : Bool
  deriving DecidableEq, Repr

/-- A journal entry (R411): its type, identity, position or vote count or ordinal, register or opcode or cause or line, and
values. -/
structure JEntry where
  kind : Nat
  ident : Ident
  pos : Nat
  key : Nat
  vals : List Nat
  deriving DecidableEq, Repr

/-- A record formed and on its way to its ring (R403-R405). -/
structure TraceRec where
  part : Fin 4
  journal : Bool
  source : Nat
  kind : Nat
  seq : Nat
  stamp : DWord
  payload : List Byte
  /-- The active-lane mask that a marker carries (R93), for which R406 gives its ring record no field; 0 in other records (log 54). -/
  active : LaneMask
  deriving DecidableEq, Repr

/-- The debug window of a partition (R400). -/
structure Debug where
  /-- RPL, REC, SMP, ITR, LCC, EN at bits 7, 6, 3, 2, 1, 0. -/
  ctl : BitVec 8
  sink : Ring
  jrn : Ring
  pmin : Nat
  pmax : Nat
  cur : Nat
  drops : DWord
  /-- Records dropped since the previous LOST (R405). -/
  lost : Nat
  binLo : Tbl Nat
  binHi : Tbl Nat
  /-- LCOUNT b, c at 5 * b + c. -/
  lcount : Tbl DWord
  /-- Bin of the clause each gang scheduler last issued from since LCC was set (R402). -/
  lastBin : Tbl Nat
  bkpts : Vector Bkpt 8
  tgt : Ident
  buf : Nat
  busy : Bool
  result : Nat
  /-- The journal loaded for replay, and the identities that run live after a divergence (R411-R413). -/
  replay : List JEntry
  diverged : List Ident
  /-- W intervals closed so far, by line (R411, R413). -/
  ordinals : Tbl Nat
  deriving DecidableEq, Repr

/-- A fault of the model. It has no constructor: the N4 takes every fault of its spec as an exception or a status, which are next
states, so no meaning stops here. Safe. -/
inductive Fault where
  deriving DecidableEq, Repr

/-- Why the model has no meaning to give. -/
inductive Refusal where
  /-- An arm of `exec` without a meaning yet. Safe: nothing can be proved of it. -/
  | notModelled (mnemonic : String)
  deriving DecidableEq, Repr

/-- MODEL'S OWN (log 4): where the issue slot stands in its cycle. The selected party may issue; its first port has issued a word
and its other one may; or its cycle is over, and a scheduler selects anew. -/
inductive Slot where
  | ready | second | spent
  deriving DecidableEq, Repr

/-- What a vent event asks for (R323): a doorbell or an ENQ, a semaphore that changed, a stage that is over, a pre-emption. -/
inductive VentAsk where
  | doorbell
  | semaphore
  | stageOver (bundle stage : Nat)
  | preempt (bundle stage crew : Nat)
  deriving DecidableEq, Repr

/-- Kinds of access that a translation is checked for (R357). -/
inductive Acc where
  | load | store | atomic | fetch
  deriving DecidableEq, Repr

/-- What the vent cores tell the host of an XLAT or a PERM (R381): the party, the cause, its ASID, and the VA and the kind of access where the
word makes one. -/
structure FaultReport where
  ident : Ident
  cause : Nat
  asid : Nat
  access : Option (Nat × Acc)
  deriving DecidableEq, Repr

/-- An event of the vent queue, with the command queue it belongs to (R323). -/
structure VentEvent where
  queue : Nat
  ask : VentAsk
  deriving DecidableEq, Repr

/-- The machine. -/
structure State where
  /-- The party at the issue slot and every other resident party (log 3, 8). -/
  me : Party
  others : List Party
  /-- MODEL'S OWN: the cycle of the issue slot (log 4). -/
  slot : Slot
  /-- MODEL'S OWN: the gang scheduler that selected a gang in the present cycle, with what a SAMPLE record says of the gang (R407). -/
  picked : Option (Nat × List Byte)
  /-- MODEL'S OWN: outside events and scheduling choices still to come (log 3). -/
  agenda : List Instr
  /-- MODEL'S OWN: the counter to which open bits are applied (log 5). -/
  fresh : Nat
  /-- RTIME (R303). -/
  rtime : DWord
  mem : List Host.Cell
  /-- Poisoned aligned 4-byte elements, PA / 4, ascending (R378). -/
  poison : List Nat
  lines : Tbl Line
  records : List Sinter
  uses : List Use
  /-- Logical clocks of cores, slices, controllers, the bridge and the vent cores by unit number (R269, R272). -/
  clocks : Tbl (BitVec 48)
  dies : Vector Die 4
  cores : Tbl Core
  clusters : Tbl Cluster
  crews : List Crew
  bundles : List Bundle
  jobs : List Job
  nextJob : Nat
  nextBundle : Nat
  queues : Tbl Qcb
  /-- The vent queue: the events that wait for a vent core, oldest first (R323). -/
  vent : List VentEvent
  /-- Faults that the vent cores have reported to the host, oldest first (R381, log 94). -/
  reports : List FaultReport
  spaces : Tbl Space
  parts : Vector Partition 4
  kids : Tbl Kid
  nextGen : Nat
  /-- Host accesses held by a footprint race (R242). -/
  held : List HostAccess
  /-- Peer accesses admitted and not performed yet (R193, R371, log 68). -/
  heldPeers : List PeerAccess
  ports : Vector PeerPort 16
  mailbox : Mailbox
  /-- Pages of each die's device memory that the firmware keeps for page tables and records: the first, and how many (R352, log 9). -/
  firmware : Vector (Nat × Nat) 4
  security : Security
  start : Start
  debug : Vector Debug 4
  /-- Record sequence numbers by source and, from 4096 on, of their journal entries (R404). -/
  traceSeqs : Tbl Nat
  /-- Records formed and not yet written to their rings (R404, R405). -/
  trail : List TraceRec
  deriving DecidableEq, Repr

/-- A free fetch port. -/
def Port.free : Port :=
  { held := false, secondary := false, head := 0,
    hdr := { n := 1, cls := .vi, gp := 7, gi := false, ldw := 31, stw := 31, enw := 7, lb := false },
    words := [], idx := 0, lanes := 0, active := 0, moved := 0, started := false, micro := none, halted := false,
    retry := none, trapped := false, stall := false, wait := none, popped := none, yields := false }

/-- A party with no lane present and nothing bound; every register at its start value of R36 with launch values 0
(log 8). Its identity is all ones, which no work has: GANGID 31 with THR = 1 (R399). -/
def Party.vacant : Party :=
  { role := .gang, ident := 0xFFFFFFFFFFFFFFFF, part := 0, asid := 0, bundle := 0, stage := 0, crew := 0, gang := 0, crewN := 0,
    gridN := 0, codebase := 0, psp := 0, userh := 0xFFFFFFFF, vreg := 116, sup := false, present := 0, core := 0,
    sched := 0, qports := Vector.replicate 8 none, sqports := Vector.replicate 8 none,
    vregs := Vector.replicate 116 none, preds := Vector.replicate 7 0,
    sregs := Vector.replicate 56 { val := 0, poison := false },
    pcv := Vector.replicate 32 0xFFFFFFFF, epcv := Vector.replicate 32 0, inmac := false, midx := 0,
    rstack := Vector.replicate 32 [], rsp := Vector.ofFn fun l => BitVec.ofNat 64 (1024 * (l.val + 1)),
    rsdepth := Vector.replicate 32 0, retFrom := Vector.replicate 32 0xFFFFFFFF, cause := 0, causem := 0x0003FFFF, causeset := 0, contrec := Vector.replicate 4 0, flags := 0,
    grun := 0, tdead := 0xFFFFFFFFFFFFFFFF, inj := 0, wdogv := 0, issued := 0, stalled := 0, port := .free,
    mate := .free, pend := [], nextId := 0, handler := none, halted := false, replayable := false, remapped := false,
    switchedOut := false, yielding := none, stopped := false, monitor := none, monPend := none, copyErr := 0,
    drawn := [], contDue := false, dropFrom := none, dropped := 0, lastRel := 0, clauses := 0, votes := 0, noFlush := false, sync := none,
    synced := false, bkptPast := [], atPoint := false, trapImm := 0 }

/-- A core at reset: split 0 (log 8), no owner of its queues, 16 credits each (R127), no last selection (log 8). -/
def Core.initial : Core :=
  { split := 0, mqOwner := none, mq := Vector.replicate 4 [], credits := Vector.replicate 16 16, cstore := [],
    icache := [], tlb := [], itlb := [], reorder := [], lastSel := Vector.replicate 4 0, gated := false }

/-- An empty weight bank (R185). -/
def WBank.initial : WBank := { valid := false, fmt := 0, k := 0, n := 0, w := [], scale := [] }

/-- A matrix engine at reset (R185). -/
def Engine.initial : Engine :=
  { w0 := .initial, w1 := .initial, wact := false, acc0 := [], acc1 := [], absent0 := [], absent1 := [], gain := [],
    carry := [], fcode := 0, flags := 0 }

/-- A cluster at reset. -/
def Cluster.initial : Cluster := { engine := .initial, lastThread := false, tlb := [] }

/-- A command queue at reset: LOG2N 4, the rest 0 (R318). -/
def Qcb.initial : Qcb :=
  { base := 0, head := 0, tail := 0, asid := 0, part := 0, log2n := 4, devenq := false, sup := false, enable := false,
    qerr := 0, busy := false, cmd := [], watch := none, polled := 0, droppedSeqs := [], userSeqs := [] }

/-- A line nothing has filled: interval 0 under key 0, held by its controller (R271). -/
def Line.initial : Line :=
  { kid := 0, dkid := 0, dgen := 0, interval := 0, wrote := 0, prior := 0, unborn := false, began := 0, value0 := [], holders := [], subs := [], lo := .n, hi := .n, faulty := [],
    recorded := true, frozen := false, lost := 0, salvaged := [], pinned := [] }

/-- A die at reset, at the board record's initial index i (R304, R306). -/
def Die.initial (i : Nat) : Die :=
  { cur := i, req := i, busy := false, since := 0, target := i, relockEnd := none, cycr := 0, acc := 0, phase := 0, locfill := 0, remfill := 0, arrived := (0, 0, 0),
    failed := false, lastSup := i, hotAt := none }

/-- Debug window at reset (R400). -/
def Debug.initial : Debug :=
  { ctl := 0, sink := { base := 0, log2 := 12, tail := 0, head := 0 }, jrn := { base := 0, log2 := 12, tail := 0, head := 0 },
    pmin := 10, pmax := 24, cur := 10, drops := 0, lost := 0, binLo := [], binHi := [], lcount := [], lastBin := [],
    bkpts := Vector.replicate 8 { va := 0, lanes := 0, asid := 0, brkp := false, armed := false }, tgt := 0, buf := 0,
    busy := false, result := 0, replay := [], diverged := [], ordinals := [] }

/-- The machine after a cold start that ran to its end (R414, R417), with the board record of log 6: one partition of all
four dies, initial frequency index 8. Every Eweloth link is up, which the spec leaves open (DESIGN CHOICE, log 91). -/
def State.reset : State :=
  { me := .vacant, others := [], slot := .spent, picked := none, agenda := [], fresh := 0, rtime := 0, mem := [], poison := [], lines := [],
    records := [], uses := [], clocks := [], dies := Vector.replicate 4 (.initial 8), cores := [], clusters := [], crews := [],
    bundles := [], jobs := [], nextJob := 0, nextBundle := 0, queues := [], vent := [], reports := [], spaces := [],
    parts := Vector.ofFn fun p =>
      { dies := if p.val = 0 then 0b1111 else 0, hostKid := 1 + p.val, chkmode := 0, chkhz := 0, maxClock := 0,
        serving := decide (p.val = 0) },
    kids := [(0, { part := none, live := true, gen := 0 }), (1, { part := some 0, live := true, gen := 1 })],
    nextGen := 2, held := [], heldPeers := [], ports := Vector.replicate 16 { up := true, windows := Vector.replicate 8 none },
    mailbox := { request := [], response := [], result := 0, busy := false, seq := 0, unmapping := none, latched := [] },
    firmware := Vector.ofFn fun d => (d.val * 0x2000000 + 0x1FC0000, 0x40000),
    security := { rootKey := 0, image := { key := 0, signed := true, version := 0 }, minVersion := 0, runVersion := 0, leafNext := 0, leafEnd := 0, response := none },
    start := { lastfail := 0, reason := 0, step := 0xFF, force := false, kind := 0, running := false, mask := 0xF, signed := true, layout := [0b1111],
               initidx := Vector.replicate 4 8,
               plimit := 8000, tlimit := 105, powerAt := 0 },
    debug := Vector.replicate 4 .initial, traceSeqs := [], trail := [] }

end Sys2Proof.Machine
end

