-- ==== Sys2Proof/Machine/Table.lean ====
section
/-! DEFINITION. Sorted association lists and small list helpers: one way to read, write and drop an entry. -/

namespace Sys2Proof.Machine

/-- Entry k of a table. -/
def Tbl.get {α : Type} (t : Tbl α) (k : Nat) : Option α :=
  match t with
  | [] => none
  | (j, v) :: rest => if j = k then some v else if k < j then none else Tbl.get rest k

/-- Entry k of a table, or a default. -/
def Tbl.getD {α : Type} (t : Tbl α) (k : Nat) (d : α) : α := (Tbl.get t k).getD d

/-- Set entry k, keeping keys ascending. -/
def Tbl.set {α : Type} (t : Tbl α) (k : Nat) (v : α) : Tbl α :=
  match t with
  | [] => [(k, v)]
  | (j, x) :: rest =>
    if k < j then (k, v) :: (j, x) :: rest
    else if j = k then (k, v) :: rest
    else (j, x) :: Tbl.set rest k v

/-- Drop entry k. -/
def Tbl.erase {α : Type} (t : Tbl α) (k : Nat) : Tbl α :=
  match t with
  | [] => []
  | (j, x) :: rest =>
    if k < j then (j, x) :: rest
    else if j = k then rest
    else (j, x) :: Tbl.erase rest k

/-- Keys strictly ascending. -/
def Tbl.sorted {α : Type} : Tbl α → Bool
  | [] => true
  | (_, _) :: [] => true
  | (j, _) :: (k, v) :: rest => decide (j < k) && Tbl.sorted ((k, v) :: rest)

/-- Insert into an ascending list of numbers without repeats. -/
def insertNat (n : Nat) : List Nat → List Nat
  | [] => [n]
  | m :: ms => if n < m then n :: m :: ms else if n = m then m :: ms else m :: insertNat n ms

/-- Insert into a list sorted by an order; an equal element goes last. -/
def insertBy {α : Type} (le : α → α → Bool) (x : α) : List α → List α
  | [] => [x]
  | y :: ys => if le y x then y :: insertBy le x ys else x :: y :: ys

/-- Sort a list; equal elements keep their order. -/
def sortBy {α : Type} (le : α → α → Bool) (xs : List α) : List α := xs.foldl (fun acc x => insertBy le x acc) []

/-- Replace the first element that a test accepts. -/
def updateFirst {α : Type} (test : α → Bool) (f : α → α) : List α → List α
  | [] => []
  | x :: xs => if test x then f x :: xs else x :: updateFirst test f xs

/-- Replace element n of a list. -/
def updateAt {α : Type} (f : α → α) : Nat → List α → List α
  | _, [] => []
  | 0, x :: xs => f x :: xs
  | n + 1, x :: xs => x :: updateAt f n xs

/-- Remove the first element that a test accepts. -/
def eraseFirst {α : Type} (test : α → Bool) : List α → List α
  | [] => []
  | x :: xs => if test x then xs else x :: eraseFirst test xs

/-- Numbers lo, lo + step, ... count of them. -/
def rangeFrom (lo step : Nat) : Nat → List Nat
  | 0 => []
  | n + 1 => lo :: rangeFrom (lo + step) step n

/-- Bit n of a number, as a mask. -/
def bit32 (n : Nat) : BitVec 32 := 1#32 <<< n

end Sys2Proof.Machine
end

