-- ==== Sys2Proof/Machine/Ops.lean ====
section
/-! DEFINITION. The named operations every meaning is written with: reading and writing registers, predicates and queue
ports (R22-R32, R57), the course of a word from issue to the next word (R56, R80), exact stops (R377), taking an exception
(R379-R382), the return from one (R383), exits and kills (R85, R396). -/

namespace Sys2Proof.Machine

open Sys2Proof

/-- Outcome of a step of this machine. -/
abbrev Out := Host.Outcome State Fault Refusal

/-! ## Causes -/

/-- Bit number of a cause (R379). -/
def Cause.bit : Cause → Nat
  | .illi => 0 | .algn => 1 | .xlat => 2 | .perm => 3 | .pois => 4 | .cont => 5 | .prom => 6 | .wdog => 7 | .rsov => 8
  | .timr => 9 | .swtr => 10 | .brkp => 11 | .halt => 12 | .prmp => 13 | .qerr => 14 | .fprt => 15 | .home => 16
  | .mxf => 17

/-- The mask of a cause in CAUSE. -/
def Cause.mask (c : Cause) : BitVec 32 := 1#32 <<< c.bit

/-- Causes routed to the supervisor handler in a gang (R379). -/
def supMask : BitVec 32 := 0x0001C033

/-- Causes routed to the user handler in a gang (R379). -/
def userMask : BitVec 32 := 0x00000FC0

/-- Causes routed to the replay path (R379, R381). -/
def replayMask : BitVec 32 := 0x0000000C

/-- Causes that stop a sequencer thread (R379). -/
def threadStopMask : BitVec 32 := 0x0003CE73

/-! ## Stops -/

/-- Why a word does not complete: a cause raised by it, with what it writes beside CAUSE (the containment record of a race,
R242, or FCODE, R194), or with the access that was refused (R381); or that it cannot issue yet. -/
inductive Stop where
  | cause (c : Cause)
  | refused (c : Cause) (va : Nat) (k : Acc)
  | race (r : Vector DWord 4)
  | mxf (code : Nat)
  | hold
  deriving DecidableEq, Repr

/-- What a word does while it is being performed: changes of the state, or a stop under which nothing of it happened. -/
abbrev Act (α : Type) := StateT State (Except Stop) α

/-- Stop with a cause. -/
def raise {α : Type} (c : Cause) : Act α := fun _ => .error (.cause c)

/-- The word cannot issue yet. -/
def hold {α : Type} : Act α := fun _ => .error .hold

/-- Raise a cause unless a condition holds. -/
def check (c : Bool) (r : Cause) : Act Unit := if c then pure () else raise r

/-- Raise a cause on the first of several accesses for which a condition does not hold. -/
def checkAccess {α : Type} (xs : List α) (va : α → Nat) (k : α → Acc) (good : α → Bool) (r : Cause) : Act Unit :=
  match xs.find? fun x => !good x with
  | some x => fun _ => .error (.refused r (va x) (k x))
  | none => pure ()

/-- Hold the word until a condition holds. -/
def waitFor (c : Bool) : Act Unit := if c then pure () else hold

/-- Change the state. -/
def change (f : State → State) : Act Unit := fun s => .ok ((), f s)

/-- The party at the issue slot. -/
def State.setMe (s : State) (p : Party) : State := { s with me := p }

/-- Change the party at the issue slot. -/
def changeMe (f : Party → Party) : Act Unit := change fun s => s.setMe (f s.me)

/-! ## Parties -/

/-- Every resident party, the one at the issue slot first. -/
def State.parties (s : State) : List Party := s.me :: s.others

/-- The party of an identity. -/
def State.party (s : State) (i : Ident) : Option Party := s.parties.find? (·.ident == i)

/-- Change the party of an identity, wherever it is. -/
def State.changeParty (s : State) (i : Ident) (f : Party → Party) : State :=
  if s.me.ident == i then s.setMe (f s.me)
  else { s with others := updateFirst (·.ident == i) f s.others }

/-- Bring the party of an identity to the issue slot; the vacant party leaves when it loses the slot. -/
def State.focus (s : State) (i : Ident) : State :=
  if s.me.ident == i then s
  else
    match s.others.find? (·.ident == i) with
    | none => s
    | some p =>
      let rest := eraseFirst (·.ident == i) s.others
      { s with me := p, others := if s.me == .vacant then rest else s.me :: rest }

/-- Lanes that are live: present and not exited (R77). A lane to which a RET gave the offset 0xFFFF_FFFF has not exited: it stands at a bad
offset that it has not fetched yet (R84). -/
def Party.live (p : Party) : LaneMask :=
  maskOf fun l => p.present.has l && (p.pcv[l] != 0xFFFFFFFF || p.retFrom[l] != 0xFFFFFFFF)

/-- A thread of a cluster's sequencer (R43). -/
def Party.isThread (p : Party) : Bool := p.role != .gang

/-- The base that PCs are offsets from: the supervisor code while its handler runs, else CODEBASE (R33, R382). -/
def Party.base (p : Party) : Nat :=
  match p.handler with
  | some h => if h.sup then 0xF000000000000 else p.codebase
  | none => p.codebase

/-- The active lanes of the word at the issuing port (R46, R68). -/
def Party.active (p : Party) : LaneMask :=
  match p.port.micro with
  | some m => m.active
  | none => p.port.active

/-- Offset of the word the port stands at; a word of a microprogram has the offset of its MCALL (R38). -/
def Port.wordOffset (q : Port) : Nat := q.head + 4 + 4 * q.idx

/-- Fall-through offset of the port's clause (R80). -/
def Port.fallThrough (q : Port) : Nat := q.head + 4 + 4 * q.hdr.n

/-- The cluster in package that a party stands on (R14). -/
def Party.cluster (p : Party) : Nat := p.core / 4

/-- The die that a party stands on (R14). -/
def Party.die (p : Party) : Nat := p.core / 128

/-! ## Dies, cores, clusters, crews, bundles -/

/-- Die d; numbers above 3 name die 3. -/
def State.die (s : State) (d : Nat) : Die := s.dies[d]?.getD (.initial 0)

/-- Change die d. -/
def State.changeDie (s : State) (d : Nat) (f : Die → Die) : State :=
  { s with dies := if h : d < 4 then s.dies.set d (f s.dies[d]) else s.dies }

/-- Core n of the package. -/
def State.core (s : State) (n : Nat) : Core := Tbl.getD s.cores n .initial

/-- Change core n. -/
def State.changeCore (s : State) (n : Nat) (f : Core → Core) : State :=
  { s with cores := Tbl.set s.cores n (f (s.core n)) }

/-- Cluster c of the package. -/
def State.cluster (s : State) (c : Nat) : Cluster := Tbl.getD s.clusters c .initial

/-- Change cluster c. -/
def State.changeCluster (s : State) (c : Nat) (f : Cluster → Cluster) : State :=
  { s with clusters := Tbl.set s.clusters c (f (s.cluster c)) }

/-- The bundle of a number. -/
def State.bundle (s : State) (b : Nat) : Option Bundle := s.bundles.find? (·.id == b)

/-- Change a bundle. -/
def State.changeBundle (s : State) (b : Nat) (f : Bundle → Bundle) : State :=
  { s with bundles := updateFirst (·.id == b) f s.bundles }

/-- The crew a gang belongs to. -/
def Crew.isOf (c : Crew) (p : Party) : Bool := c.bundle == p.bundle && c.stage == p.stage && c.crew == p.crew

/-- The crew of a party. -/
def State.crewOf (s : State) (p : Party) : Option Crew := s.crews.find? (·.isOf p)

/-- Change the crew of a party. -/
def State.changeCrew (s : State) (p : Party) (f : Crew → Crew) : State :=
  { s with crews := updateFirst (·.isOf p) f s.crews }

/-- The first nonzero status recorded for a bundle stands (R396). -/
def State.recordStatus (s : State) (b st : Nat) : State :=
  s.changeBundle b fun x => if x.status == 0 then { x with status := st } else x

/-- The partition of a party. -/
def State.partOf (s : State) (p : Party) : Partition := s.parts[p.part]

/-- Change partition n. -/
def State.changePart (s : State) (n : Fin 4) (f : Partition → Partition) : State :=
  { s with parts := s.parts.set n (f s.parts[n]) }

/-! ## Records (R403-R406, R411) -/

/-- A bit of the control word of a partition's debug window (R400). -/
def State.debugBit (s : State) (part : Fin 4) (n : Nat) : Bool := s.debug[part].ctl.getLsbD n

/-- Change a partition's debug window. -/
def State.changeDebug (s : State) (part : Fin 4) (f : Debug → Debug) : State :=
  { s with debug := Vector.set s.debug part (f s.debug[part]) }

/-- Trace source of a party (R403). -/
def Party.source (p : Party) : Nat :=
  match p.role with
  | .gang => 4 * p.core + p.sched
  | .mThread => 2048 + 2 * p.cluster
  | .cThread => 2049 + 2 * p.cluster

/-- Form a record of a source; with EN = 0 none is formed (R405). -/
def State.emitFor (s : State) (part : Fin 4) (source kind : Nat) (payload : List Byte) (active : LaneMask) : State :=
  if !s.debugBit part 0 then s
  else
    let n := Tbl.getD s.traceSeqs source 0
    { s with
      traceSeqs := Tbl.set s.traceSeqs source (n + 1)
      trail := s.trail ++ [{ part, journal := false, source, kind, seq := n, stamp := s.rtime, payload, active }] }

/-- Form a record that carries no lane mask beside its payload. -/
def State.emit (s : State) (part : Fin 4) (source kind : Nat) (payload : List Byte) : State :=
  s.emitFor part source kind payload 0

/-- Form an instruction-trace record of the party at the issue slot (R408). -/
def State.trace (s : State) (kind : Nat) (payload : List Byte) : State :=
  if s.debugBit s.me.part 2 then s.emit s.me.part s.me.source kind payload else s

/-- Form a marker of the party at the issue slot, with its active lanes (R93). -/
def State.traceMark (s : State) (payload : List Byte) : State :=
  if s.debugBit s.me.part 2 then s.emitFor s.me.part s.me.source 0x07 payload s.me.active else s

/-- Little-endian bytes of 64 bits. -/
def le8 (n : Nat) : List Byte := bytesLE 8 n

/-- Position of the word at the issuing port (R406). -/
def Party.position (p : Party) : Nat :=
  p.votes * 2 ^ 16 + p.port.secondary.toNat * 2 ^ 15 + p.port.idx * 2 ^ 11 + (p.port.micro.map (·.idx)).getD 0 * 2 ^ 6

/-- An EVENT record (R406). -/
def State.traceEvent (s : State) (kind cause : Nat) : State :=
  s.trace 0x06 (le8 (kind + cause * 256 + s.me.position * 2 ^ 16 % 2 ^ 64 / 2 ^ 16 * 2 ^ 16) ++ le8 s.me.ident.toNat)

/-- Bytes between head and tail. -/
def Ring.used (r : Ring) : Nat := (r.tail - r.head).toNat

/-- The fields of a journal entry in the order R411 lists them: a command's queue and sequence number, and a line's PA and KID, come first. -/
def JEntry.fields (e : JEntry) : List Nat :=
  if e.kind == 0x10 then e.key :: e.pos :: e.vals
  else if e.kind == 0x15 then e.key / 1024 * 128 :: e.key % 1024 :: e.ident.toNat :: e.pos :: e.vals
  else if e.kind == 0x16 then e.key / 1024 * 128 :: e.key % 1024 :: e.pos :: e.vals
  else e.ident.toNat :: e.pos :: e.key :: e.vals

/-- The entry of a kind whose fields are these (R411). -/
def JEntry.ofFields (kind : Nat) (ws : List Nat) : JEntry :=
  let w (i : Nat) : Nat := ws.getD i 0
  if kind == 0x10 then { kind, ident := 0, key := w 0, pos := w 1, vals := ws.drop 2 }
  else if kind == 0x15 then { kind, ident := BitVec.ofNat 64 (w 2), key := w 0 / 128 * 1024 + w 1, pos := w 3, vals := ws.drop 4 }
  else if kind == 0x16 then { kind, ident := 0, key := w 0 / 128 * 1024 + w 1, pos := w 2, vals := ws.drop 3 }
  else { kind, ident := BitVec.ofNat 64 (w 0), pos := w 1, key := w 2, vals := ws.drop 3 }

/-- Journal entries of a partition that are on their way to the ring, in bytes. -/
def State.journalQueued (s : State) (part : Fin 4) : Nat :=
  ((s.trail.filter fun r => r.journal && r.part == part).map fun r => 16 + r.payload.length).sum

/-- The journal has room for n more bytes, or is not written to (R405). -/
def State.journalRoom (s : State) (part : Fin 4) (n : Nat) : Bool :=
  !s.debugBit part 6 || decide (s.debug[part].jrn.used + s.journalQueued part + n ≤ 2 ^ s.debug[part].jrn.log2)

/-- Bytes of an entry of k fields, its header among them. -/
def journalBytes (k : Nat) : Nat := 16 + (8 * k + 15) / 16 * 16

/-- Write a journal entry while REC = 1 (R411). The fields stand in 8 bytes each, in the order R411 lists them (log 23). -/
def State.journalEntry (s : State) (part : Fin 4) (source : Nat) (e : JEntry) : State :=
  if !s.debugBit part 6 then s
  else
    let n := Tbl.getD s.traceSeqs (4096 + source) 0
    let body := e.fields.flatMap le8
    { s with
      traceSeqs := Tbl.set s.traceSeqs (4096 + source) (n + 1)
      trail := s.trail ++ [{ part, journal := true, source, kind := e.kind, seq := n, stamp := s.rtime,
                             payload := body ++ List.replicate (body.length % 16) 0, active := 0 }] }

/-- The journal entry of a kind for an identity at a position, in replay mode (R412). -/
def State.recorded (s : State) (p : Party) (kind pos : Nat) : Option JEntry :=
  if s.debugBit p.part 7 && !(s.debug[p.part].diverged.contains p.ident) then
    s.debug[p.part].replay.find? fun e => e.kind == kind && e.ident == p.ident && e.pos == pos
  else none

/-- A DIVERGE record of kind 2: the party runs live from then on (R413). -/
def State.diverge (s : State) : State :=
  let p := s.me
  ((s.emit p.part p.source 0x08 (le8 2 ++ le8 p.ident.toNat ++ le8 p.position ++ le8 0)).changeDebug p.part fun d =>
    { d with diverged := p.ident :: d.diverged })

/-- What the journal says of the end of an MWAIT, in replay mode: 0 interval change, 1 timeout (R412, log 23). -/
def State.wakeRecorded (s : State) (p : Party) : Option Nat := (s.recorded p 0x13 p.position).map (·.key)

/-- Journal the end of an MWAIT, 0 interval change or 1 timeout; one that the journal of a replay does not hold diverges (R411, R413, log
23). -/
def State.journalWake (s : State) (why : Nat) : State :=
  let p := s.me
  let t := s.journalEntry p.part p.source { kind := 0x13, ident := p.ident, pos := p.position, key := why, vals := [] }
  if s.debugBit p.part 7 && !(s.debug[p.part].diverged.contains p.ident) && (s.wakeRecorded p).isNone then t.diverge else t

/-! ## Counters (R47) -/

/-- Counted as a load until its result is written back, or its read has returned. -/
def PendKind.isLoad : PendKind → Bool
  | .load .. | .sld .. | .atomic .. | .vfill .. | .mon | .refill => true
  | _ => false

/-- Counted as a store until performed; SST and commit stores are not counted. -/
def PendKind.isStore : PendKind → Bool
  | .store c _ => c
  | .cmo .. | .claim .. | .sunmap .. | .arrive => true
  | _ => false

/-- Counted on the engine counter until complete. -/
def PendKind.isEngine : PendKind → Bool
  | .mqput .. | .mqget .. | .enq .. | .job .. => true
  | _ => false

/-- A register write-back still to come: a long result (R56). -/
def Pend.isLong (e : Pend) : Bool :=
  match e.kind with
  | .load .. | .atomic .. | .mqget .. | .value .. => e.active != 0
  | .vfill .. | .sld .. | .svalue .. => true
  | _ => false

/-- The load counter. -/
def Party.loads (p : Party) : Nat := (p.pend.filter (·.kind.isLoad)).length

/-- The store counter. -/
def Party.stores (p : Party) : Nat := (p.pend.filter (·.kind.isStore)).length

/-- The engine counter. -/
def Party.engines (p : Party) : Nat := (p.pend.filter (·.kind.isEngine)).length

/-- A long result is pending (R56). -/
def Party.hasLong (p : Party) : Bool := p.pend.any (·.isLong)

/-- Reads memory. -/
def Pend.reads (e : Pend) : Bool :=
  match e.kind with
  | .load .. | .sld .. | .atomic .. | .vfill .. | .mon | .refill => true
  | _ => false

/-- Writes memory. -/
def Pend.writes (e : Pend) : Bool :=
  match e.kind with
  | .store .. | .atomic .. | .arrive => true
  | _ => false

/-- An access, or a word that acts on memory as one (R244). -/
def Pend.accesses (e : Pend) : Bool :=
  e.reads || e.writes || match e.kind with
    | .cmo .. | .claim .. | .sunmap .. => true
    | _ => false

/-- A release (R228). -/
def Pend.isRelease (e : Pend) : Bool :=
  match e.kind with
  | .store .. | .atomic .. | .mqput .. => e.ord
  | .arrive | .enq .. => true
  | .fence k => k != .acq
  | _ => false

/-- Add an outstanding word. -/
def Party.addPend (p : Party) (k : PendKind) (active : LaneMask) (accs : List LaneAcc) (ord : Bool) (sc : Scope)
    (bound : Option (List VReg)) (dests : List (Fin 116)) : Party :=
  { p with
    pend := p.pend ++ [{ id := p.nextId, kind := k, active, accs, past := [], vals := [], ord, scope := sc, bound, performed := false,
                         early := 0, flags := 0, tp := 0, pos := p.position, dests }],
    nextId := p.nextId + 1 }

/-! ## Vector registers -/

/-- The register an unbound name reads as (R23). -/
def VReg.zero : VReg := { val := Vector.replicate 32 0, poison := 0 }

/-- Merge the active lanes of a write into an old register; an unbound old register counts as 0 (R22). A lane written with
a value that is not poisoned loses its poison bit (R27). -/
def mergeV (old : Option VReg) (act : LaneMask) (new : VReg) : VReg :=
  let o := old.getD .zero
  { val := lanes fun l => if act.has l then new.val[l] else o.val[l]
    poison := (o.poison &&& ~~~act) ||| (new.poison &&& act) }

/-- What lane values a read of name n sees: the bound value, or in each lane independently a long result that is pending
and has returned (R57, log 5). Reads of one word use one value of `fresh`, so they agree (R8). -/
def State.seeV (s : State) (n : Fin 116) : VReg :=
  let now := (s.me.vregs[n]).getD .zero
  s.me.pend.foldl (fun acc e =>
    match e.bound, e.dests.idxOf? n with
    | some regs, some k =>
      let long := regs.getD k .zero
      let pick := maskOf fun l =>
        e.active.has l && Config.freeBit [0, s.fresh, e.id, n.val, l.val]
      mergeV (some acc) pick long
    | _, _ => acc) now

/-- Names that count as bound: the bound ones and the destinations of pending long results (R24). -/
def Party.counted (p : Party) (n : Fin 116) : Bool :=
  (p.vregs[n]).isSome || p.pend.any (fun e => e.isLong && e.dests.contains n)

/-- Whether destinations fit VREG once the names in `freed` are unbound (R24). -/
def Party.fits (p : Party) (freed dests : List (Fin 116)) : Bool :=
  let q := { p with vregs := freed.foldl (fun v (n : Fin 116) => v.set n none) p.vregs }
  let new := (dests.filter fun n => !q.counted n).eraseDups.length
  let old := ((List.finRange 116).filter q.counted).length
  new == 0 || decide (old + new ≤ p.vreg)

/-- Write registers to names in the lanes of a mask (R22). No lane: nothing is written. -/
def Party.writeV (p : Party) (act : LaneMask) (d : Fin 116) (new : VReg) : Party :=
  if act == 0 then p else { p with vregs := p.vregs.set d (some (mergeV p.vregs[d] act new)) }

/-- Unbind a name (R22). -/
def Party.freeV (p : Party) (n : Fin 116) : Party := { p with vregs := p.vregs.set n none }

/-- The name k above n, wrapping only where no legal operand does. -/
def vnext (n : Fin 116) (k : Nat) : Fin 116 := Fin.ofNat 116 (n.val + k)

/-! ## Uniform registers and predicates -/

/-- What a read of S register n sees; a pending SLD or SDIVU that has returned may be seen early (R57). -/
def State.seeS (s : State) (n : Fin 56) : SReg :=
  s.me.pend.foldl (fun acc e =>
    match e.kind with
    | .svalue d v =>
      if d == n && Config.freeBit [1, s.fresh, e.id, n.val] then { val := v, poison := false } else acc
    | .sld d =>
      match e.bound with
      | some (lo :: hi :: _) =>
        if d == n && Config.freeBit [1, s.fresh, e.id, n.val] then
          { val := hi.val[0] ++ lo.val[0], poison := lo.poison != 0 || hi.poison != 0 }
        else acc
      | _ => acc
    | _ => acc) s.me.sregs[n]

/-- Write an S register. -/
def Party.setS (p : Party) (n : Fin 56) (v : SReg) : Party := { p with sregs := p.sregs.set n v }

/-- Predicate p in every lane: P7 reads 1, absent lanes of the others read 0 (R32). -/
def Party.pred (p : Party) (n : Fin 8) : LaneMask :=
  if h : n.val < 7 then p.preds[n.val] &&& p.present else 0xFFFFFFFF

/-- Write a predicate in the lanes of a mask; writes to P7 are ignored (R32). -/
def Party.setPred (p : Party) (act : LaneMask) (n : Fin 8) (v : LaneMask) : Party :=
  if h : n.val < 7 then { p with preds := p.preds.set n.val ((p.preds[n.val] &&& ~~~act) ||| (v &&& act)) } else p

/-! ## Queue ports (R29, R30, R330) -/

/-- Pop an entry of stage queue j for the party: QERR where the queue runs another way or is closed and empty (R330, log
19), a stall while it is empty. -/
def popQueue (j : Option Nat) : Act QEntry := do
  let s ← get
  match j, s.bundle s.me.bundle with
  | some j, some b =>
    match b.queues[j]?, b.desc.queues[j]? with
    | some q, some r =>
      check (r.dst == s.me.stage) .qerr
      match q.entries with
      | e :: rest =>
        change fun s => { s.changeBundle b.id fun b =>
          { b with queues := updateAt (fun q => { q with entries := rest, fullSince := none }) j b.queues } with
          me := { s.me with noFlush := true } }
        pure e
      | [] => if q.closed then raise .qerr else hold
    | _, _ => raise .qerr
  | _, _ => raise .qerr

/-- A FENCE.REL, .AR or .FULL of the party, or an ordered word that acts as one, is not complete (R228, R229, R252). -/
def Party.releasing (p : Party) : Bool :=
  p.pend.any fun e => !e.performed && match e.kind with
    | .fence k => k != .acq
    | .store .. | .atomic .. | .mqput .. => e.ord && e.accs.isEmpty && e.past.isEmpty
    | _ => false

/-- Push an entry onto stage queue j: QERR where the queue runs another way or its consumer has finished (R330, log 19), a
stall while it is full. An entry pushed behind a release fence enters its queue once the fence is complete (R231-R233, log 83). -/
def pushQueue (j : Option Nat) (e : QEntry) : Act Unit := do
  let s ← get
  match j, s.bundle s.me.bundle with
  | some j, some b =>
    match b.queues[j]?, b.desc.queues[j]? with
    | some q, some r =>
      check (r.src == s.me.stage) .qerr
      check (!((b.stages[r.dst]?).any (·.finished))) .qerr
      waitFor (decide (q.entries.length < r.depth))
      waitFor (!s.me.releasing)
      change fun s => { s.changeBundle b.id fun b =>
        { b with queues := updateAt (fun q =>
            { q with entries := q.entries ++ [e],
                     fullSince := if q.entries.length + 1 == r.depth then some s.rtime.toNat else none }) j b.queues }
        with me := { s.me with noFlush := true } }
    | _, _ => raise .qerr
  | _, _ => raise .qerr

/-- Pop a vector port. -/
def popV (q : Fin 8) : Act VReg := do
  let s ← get
  match ← popQueue s.me.qports[q] with
  | .vec v => pure v
  | .sca _ => raise .qerr

/-- Pop a scalar port. -/
def popS (q : Fin 8) : Act SReg := do
  let s ← get
  match ← popQueue s.me.sqports[q] with
  | .sca v => pure v
  | .vec _ => raise .qerr

/-- Push to a vector port: inactive lanes push 0 (R29). -/
def pushV (q : Fin 8) (act : LaneMask) (v : VReg) : Act Unit := do
  let s ← get
  pushQueue s.me.qports[q] (.vec (mergeV none act v))

/-- Push to a scalar port. -/
def pushS (q : Fin 8) (v : SReg) : Act Unit := do
  let s ← get
  pushQueue s.me.sqports[q] (.sca v)

/-! ## Exits, kills, exceptions -/

/-- A port that has stopped or holds nothing. -/
def Port.quiet (q : Port) : Bool := !q.held || q.halted

/-- The word offset a stop record names (R382). -/
def Port.stopOffset (q : Port) : Word := BitVec.ofNat 32 q.wordOffset

/-- Lanes of a mask exit: PC all ones, and their pending long results are discarded (R33, R85). When the last lane has
exited, the gang leaves handler state (R384) and its ports are free. -/
def Party.exitLanes (p : Party) (m : LaneMask) : Party :=
  let q : Party := { p with
    pcv := lanes fun l => if m.has l then 0xFFFFFFFF else p.pcv[l]
    retFrom := lanes fun l => if m.has l then 0xFFFFFFFF else p.retFrom[l]
    pend := p.pend.filterMap fun e =>
      match e.kind with
      | .value .. => if e.active &&& ~~~m == 0 then none else some { e with active := e.active &&& ~~~m }
      | .load .. | .atomic .. | .mqget .. | .vfill .. =>
        some { e with active := e.active &&& ~~~m, dests := if e.active &&& ~~~m == 0 then [] else e.dests }
      | _ => some e }
  let r : Party := { q with
    port := { q.port with active := q.port.active &&& ~~~m }
    mate := { q.mate with active := q.mate.active &&& ~~~m } }
  match r.handler with
  | some h => if r.live == 0 then { r with handler := none, sup := h.privBefore, contDue := false, dropFrom := none } else r
  | none => r

/-- Kill the party at the issue slot (R396): every live lane exits at its stop, and its bundle records status 7. -/
def State.killMe (s : State) : State :=
  let p := s.me.exitLanes s.me.live
  let s1 := (s.traceEvent 7 0).setMe { p with port := .free, mate := .free, replayable := false, halted := false,
                                               handler := none, stopped := true }
  s1.recordStatus p.bundle 7

/-- The status a stopped thread records: 4 for CONT, 6 otherwise (R396). -/
def Cause.threadStatus (c : Cause) : Nat := if c == .cont then 4 else 6

/-- Causes set and enabled (R380). -/
def Party.pendingCauses (p : Party) : BitVec 32 := p.cause &&& p.causem

/-- Lanes that EPCV marks in bit 0: the stalled ones, at entry to the user handler with WDOG pending (R337, R382). -/
def Party.marks (p : Party) (sup : Bool) : LaneMask :=
  if !sup && p.pendingCauses &&& Cause.mask .wdog != 0 then p.stalled else 0

/-- Enter a handler (R382): stop records, EPCV, companion word, entry point, PCs. The user handler runs at the privilege the
gang has, the supervisor handler at supervisor privilege. -/
def Party.enter (p : Party) (sup : Bool) : Party :=
  let stops := [p.port, p.mate].filter fun q => q.held && q.halted
  let live := p.live
  let epcv : Lanes Word := lanes fun l =>
    if !live.has l then 0xFFFFFFFF
    else
      let off := match stops.find? (·.lanes.has l) with
        | some r => r.stopOffset
        | none => p.pcv[l]
      if (p.marks sup).has l then off ||| 1 else off
  let mac := stops.findSome? (·.micro)
  { p with
    handler := some { sup, privBefore := p.sup, live, stops }
    epcv
    inmac := mac.isSome
    midx := (mac.map (·.idx)).getD 0
    sup := sup || p.sup
    pcv := lanes fun l =>
      if live.has l then (if sup then 0 else BitVec.ofNat 32 p.userh) else p.pcv[l]
    port := .free, mate := .free }

/-- Enter the user handler again with EPCV, the companion word and the stop records as they stand (R42). -/
def Party.enterAgain (p : Party) (h : Handler) : Party :=
  { p with
    handler := some { sup := false, privBefore := h.privBefore, live := h.live, stops := h.stops }
    sup := h.privBefore
    pcv := lanes fun l => if (p.live).has l then BitVec.ofNat 32 p.userh else p.pcv[l]
    port := .free, mate := .free }

/-- Set a cause bit (R379). -/
def Party.setCause (p : Party) (c : Cause) : Party := { p with cause := p.cause ||| c.mask }

/-- CONT is delivered: drawing ends (R281), and nothing more is dropped (R282). -/
def Party.contTaken (p : Party) : Party := { p with drawn := [], contDue := false, dropFrom := none, dropped := 0 }

/-- A port that holds a clause of which no word has issued. -/
def Port.unissued (q : Port) : Bool := q.held && !q.halted && q.idx == 0 && q.micro.isNone && q.wait.isNone

/-- A port gives a clause back of which no word has issued. -/
def Port.giveBack (q : Port) : Port := if q.unissued then .free else q

/-- The first word that a due containment drops: the one it dropped first already, or the party's next release (R282). -/
def Party.dropStart (p : Party) : Option Nat :=
  if !p.contDue then none
  else match p.dropFrom with
    | some n => some n
    | none => (p.pend.find? fun e => e.isRelease && !e.performed).map (·.id)

/-- A due containment drops the word: the release, or a later store (R282). -/
def Party.drops (p : Party) (e : Pend) : Bool := !e.performed && (e.writes || e.isRelease) && p.dropStart.any fun n => decide (n ≤ e.id)

/-- Some words have been dropped: DROPS counts the stores among them, in a containment record (R282, R283). -/
def Party.countDrops (p : Party) (k : Nat) : Party :=
  { p with
    dropped := p.dropped + k
    contrec := if natBits p.contrec[0].toNat 2 0 == 4 then p.contrec
      else p.contrec.set 1 ((p.contrec[1] &&& ~~~0xFF000000) ||| BitVec.ofNat 64 (Nat.min 255 (p.dropped + k) * 2 ^ 24)) }

/-- What a dropped word leaves: an ENQ its sequence number and its doorbell, and status 4 of its bundle (R344, R396); an MQPUT gives its
credit back (R127). -/
def State.afterDrop (s : State) (p : Party) (e : Pend) : State :=
  match e.kind with
  | .enq q seq _ _ =>
    let c := Tbl.getD s.queues q .initial
    ({ s with queues := Tbl.set s.queues q { c with droppedSeqs := seq :: c.droppedSeqs }, vent := s.vent ++ [({ queue := q, ask := .doorbell } : VentEvent)] }).recordStatus p.bundle 4
  | .mqput core q _ => s.changeCore p.core fun c => 
      { c with credits := c.credits.setIfInBounds (4 * (core % 4) + q) (c.credits[4 * (core % 4) + q]?.getD 0 + 1) }
  | _ => s

/-- Drop the release of a party whose containment is due, and its later stores (R282, R311): they leave their counters. CONT comes before any
later word issues: a clause of which no word has issued is given back, and a wait for an arrival that is dropped can be stopped. -/
def State.dropDue (s : State) (i : Ident) : State :=
  match s.party i with
  | none => s
  | some p =>
    match p.dropStart with
    | none => s
    | some n =>
      let gone := p.pend.filter p.drops
      let loose (q : Port) : Port := match q.wait with
        | some (.bar acc ph sc (some k)) => if gone.any (·.id == k) then { q with wait := some (.bar acc ph sc none) } else q
        | _ => q
      let s1 := s.changeParty i fun x =>
        { x.countDrops (gone.filter (·.writes)).length with
          pend := x.pend.filter fun e => !p.drops e
          dropFrom := some n
          port := (loose x.port).giveBack
          mate := (loose x.mate).giveBack }
      gone.foldl (fun t e => t.afterDrop p e) s1

/-- Part of a word that is being performed: the word has issued, so a containment that it meets does not give its clause back (R282). -/
def State.keepPort (s : State) (f : State → State) : State :=
  let t := f s
  t.setMe { t.me with port := s.me.port }

/-- Asynchronous causes (R379); QERR is one when no word of the party has stopped. -/
def Party.asyncMask (p : Party) : BitVec 32 :=
  0x000012E0 ||| (if p.port.halted || p.mate.halted then 0 else Cause.mask .qerr)

/-- Journal the asynchronous causes that a delivery takes (R411). -/
def State.journalAsync (s : State) (causes : BitVec 32) : State :=
  (List.range 18).foldl (fun t b =>
    if (causes &&& s.me.asyncMask).getLsbD b then
      t.journalEntry s.me.part s.me.source { kind := 0x12, ident := s.me.ident, pos := s.me.votes, key := b, vals := [] }
    else t) s

/-- Ports whose stop no delivery has taken go on: a wait that was stopped is issued again (R255, R380). A port whose word is to be retried
stays halted (R381). -/
def Party.goOn (p : Party) : Party :=
  { p with port := { p.port with halted := p.port.halted && p.port.retry.isSome }
           mate := { p.mate with halted := p.mate.halted && p.mate.retry.isSome } }

/-- The word at the issuing port has passed: the XLAT or PERM that it was retried for is cleared, unless the other port still waits for the
same (R381, R386). -/
def Party.passed (p : Party) : Party :=
  match p.port.retry with
  | none => p
  | some c => { p with cause := if p.mate.retry == some c then p.cause else p.cause &&& ~~~c.mask, port := { p.port with retry := none } }

/-- A port halted at a word that is to be retried (R381). -/
def Port.retries (q : Port) : Bool := q.halted && q.retry.isSome

/-- The lowest cause of a set (R406). -/
def lowestCause (c : BitVec 32) : Nat := ((List.range 18).find? fun b => c.getLsbD b).getD 0

/-- Deliver the causes of the party at the issue slot, both of whose ports are quiet (R379-R382). HALT takes effect first;
XLAT and PERM make the party replayable; then the supervisor handler, then the user handler; a thread stops, with the imm18 of the TRAP or
BKPT that first gives its bundle a status (R385). Where nothing is taken, ports that have stopped go on. What a containment drops is gone
before CONT is taken (R282, R311). -/
def State.deliver (s0 : State) : State :=
  let s := if s0.me.pendingCauses &&& Cause.mask .cont != 0 then s0.dropDue s0.me.ident else s0
  let p := s.me
  let pc := p.pendingCauses
  if p.switchedOut || p.replayable || p.stopped || p.halted || p.live == 0 then s
  else if pc &&& Cause.mask .halt != 0 then
    ((s.journalAsync (Cause.mask .halt)).traceEvent 3 12).setMe { p with halted := true }
  else if pc &&& replayMask != 0 && (p.port.retries || p.mate.retries) then s.setMe { p with replayable := true }
  else if p.isThread then
    if pc &&& threadStopMask != 0 then
      let st := if pc &&& Cause.mask .cont == 0 then 6 else 4
      let trapped := pc &&& (Cause.mask .swtr ||| Cause.mask .brkp) != 0
      (((s.journalAsync pc).setMe { p.contTaken with stopped := true }).changeBundle p.bundle fun b =>
        if b.status == 0 && trapped then { b with trapImm := p.trapImm } else b).recordStatus p.bundle st
    else s.setMe p.goOn
  else if p.handler.isSome then s.setMe p.goOn
  else if pc &&& supMask != 0 then
    ((s.journalAsync (pc &&& supMask)).traceEvent 1 (lowestCause (pc &&& supMask))).setMe
      ((if pc &&& Cause.mask .cont != 0 then p.contTaken else p).enter true)
  else if pc &&& userMask != 0 then
    let t := (s.journalAsync (pc &&& userMask)).traceEvent 1 (lowestCause (pc &&& userMask))
    if p.userh == 0xFFFFFFFF then t.killMe else t.setMe (p.enter false)
  else s.setMe p.goOn

/-- The wait of a port can be stopped: any but an ARWAIT whose arrive part has been performed, and a RET's for its refills (R255, R345). -/
def Party.stoppable (p : Party) (q : Port) : Bool :=
  match q.wait with
  | some (.refill _) => false
  | some (.bar _ _ _ (some n)) => p.pend.any fun e => e.id == n && !e.performed
  | some _ => true
  | none => false

/-- Entries that words in stoppable waits popped return to the heads of their queues: nothing of those words is performed (R255, R377). -/
def State.unpop (s : State) (b : Nat) (es : List (Nat × QEntry)) : State :=
  es.foldl (fun t x => t.changeBundle b fun y =>
    { y with queues := updateAt (fun q => { q with entries := x.2 :: q.entries }) x.1 y.queues }) s

/-- The stoppable waits in progress end as exact stops of their words; an arrival not yet performed is taken back, with its
entry in the reorder checker (R255). -/
def State.stopWaits (s : State) : State :=
  let p := s.me
  let gone := [p.port, p.mate].filterMap fun q => match q.wait with
    | some (.bar _ _ _ (some n)) => if p.stoppable q then some n else none
    | _ => none
  let f (q : Port) : Port := if p.stoppable q then { q with wait := none, halted := true, popped := none } else q
  let back := [p.port, p.mate].filterMap fun q => if p.stoppable q then q.popped else none
  let s1 := (s.unpop p.bundle back).setMe
    { p with port := f p.port, mate := f p.mate, pend := p.pend.filter fun e => !gone.contains e.id }
  if gone.isEmpty then s1
  else
    let c := match p.role with | .gang => p.core | .mThread => p.core / 4 * 4 | .cThread => p.core / 4 * 4 + 1
    s1.changeCore c fun x => { x with reorder := x.reorder.filter fun r => !(r.party == p.ident && gone.contains r.seq) }

/-- Take what is pending at a boundary: deliver once both ports are quiet (R380). -/
def State.settle (s : State) : State :=
  let p := s.me
  if (p.port.quiet || p.stoppable p.port) && (p.mate.quiet || p.stoppable p.mate) then s.stopWaits.deliver else s

/-- The recorded causes of this vote are set in replay mode, each once, unless the party runs live since a divergence (R412, R413); what a recorded
CONT drops it drops then (log 108). -/
def State.replayCauses (s : State) : State :=
  if !s.debugBit s.me.part 7 || s.debug[s.me.part].diverged.contains s.me.ident then s
  else
    let now (e : JEntry) : Bool := e.kind == 0x12 && e.ident == s.me.ident && e.pos == s.me.votes
    let due := s.debug[s.me.part].replay.filter now
    if due.isEmpty then s
    else (s.changeDebug s.me.part fun d => { d with replay := d.replay.filter fun e => !now e }).setMe
      { s.me with cause := due.foldl (fun c e => c ||| 1#32 <<< e.key) s.me.cause, contDue := s.me.contDue || due.any (·.key == 5) }

/-- Raise an asynchronous cause in a party; in replay mode only recorded ones are raised (R380, R412). -/
def State.raiseAsync (s : State) (i : Ident) (c : Cause) : State :=
  match s.party i with
  | some p => if s.debugBit p.part 7 && !(s.debug[p.part].diverged.contains i) then s else s.changeParty i (·.setCause c)
  | none => s

/-- What a party takes where it stands: HALT anywhere, other causes outside a handler (R379, R380, R384). -/
def Party.due (p : Party) : BitVec 32 :=
  p.pendingCauses &&& (Cause.mask .halt ||| (if p.isThread then threadStopMask
    else if p.handler.isSome then 0 else supMask ||| userMask))

/-- The journal has no room for the entries of the causes that a delivery would take: the party stalls where it stands (R405). -/
def State.asyncFull (s : State) (p : Party) : Bool :=
  !s.journalRoom p.part (((List.range 18).filter fun b => (p.due &&& p.asyncMask).getLsbD b).length * journalBytes 3)

/-- An asynchronous cause is delivered at a vote boundary, or in a stoppable wait that it ends (R255, R380); while a word or a fetch is to be
retried, after the retry (R381). -/
def State.deliverAsync (s0 : State) : State :=
  let s := s0.replayCauses
  let p := s.me
  if p.due == 0 || p.cause &&& replayMask != 0 || p.halted || p.stopped || p.replayable || p.switchedOut || s.asyncFull p then s
  else if p.stoppable p.port || p.stoppable p.mate then
    let t := s.stopWaits
    if t.me.port.quiet && t.me.mate.quiet then t.deliver else t
  else if p.port.quiet && p.mate.quiet then s.deliver
  else if (p.isThread && p.port.wait.isNone && p.port.micro.isNone) || (!p.port.held && !p.mate.held) then s.deliver
  else s

/-- EPCV holds an offset in the lanes of a mask (R59, R118, R194); in a handler EPCV stays what its RTE resumes (R381, R383). -/
def Party.saveEpcv (p : Party) (m : LaneMask) (off : Word) : Party :=
  if p.handler.isSome then p else { p with epcv := lanes fun l => if m.has l then off else p.epcv[l] }

/-- Raise a synchronous cause on the word at the issuing port: an exact stop (R377, R379) whose offset EPCV holds (R118, R194); the
other port halts at its header when it has issued no word yet. A retried word that stops on another cause has passed the translation it
stopped on before (log 69). In a handler every enabled cause but XLAT and PERM kills the gang (R384). -/
def State.raiseSync (s : State) (c : Cause) : State :=
  let m := s.me.mate
  let p := { (s.me.passed.setCause c).saveEpcv s.me.port.lanes s.me.port.stopOffset with
    port := { s.me.port with halted := true, retry := if c.mask &&& replayMask != 0 then some c else none }
    mate := m.giveBack }
  if s.me.handler.isSome && c.mask &&& replayMask == 0 && c.mask &&& s.me.causem != 0 then (s.setMe p).killMe
  else (s.setMe p).settle

/-- A halted port gives way to the other one; the ports swap places in the issue slot (R79). -/
def Party.swapPorts (p : Party) : Party := { p with port := p.mate, mate := p.port }

/-! ## From one word to the next -/

/-- The clause at the issuing port is finished: lanes that no branch moved stand at the fall-through offset (R80), the port
is free, and with both ports free the gang is at a vote boundary (R77). -/
def State.finishClause (s : State) : State :=
  let p := s.me
  let q := p.port
  let ft := BitVec.ofNat 32 q.fallThrough
  let p1 := { p with
    pcv := lanes fun l => if q.lanes.has l && !q.moved.has l && p.pcv[l] != 0xFFFFFFFF then ft else p.pcv[l]
    port := .free
    yielding := if p.isThread then p.yielding else if q.yields then some ((s.die p.die).cycr.toNat + 8) else p.yielding
    clauses := p.clauses + 1 }
  let s1 := (s.setMe p1).changeCrew p1 fun c => { c with clauses := c.clauses + 1 }
  if p1.mate.halted then s1.settle
  else if p1.mate.held then s1.setMe p1.swapPorts
  else s1.deliverAsync

/-- A TRAP or BKPT has been performed (R385): in a handler the gang is killed (R384); else its port halts at the next word of
the clause, or its clause is finished, and the cause is delivered once the other port has halted. -/
def State.afterTrap (s : State) : State :=
  let p := s.me
  let m := p.mate
  let q : Port := { p.port with trapped := false }
  let p1 : Party := { p with port := q, mate := m.giveBack }
  if p.handler.isSome then s.killMe
  else if q.idx ≥ q.hdr.n then (s.setMe p1).finishClause
  else (s.setMe { p1 with port := { q with halted := true } }).settle

/-- The word at the issuing port has been performed; it took `len` words of the clause. Inside a microprogram the body goes
on; after its last word the clause goes on after the MCALL (R86). A thread is at a word boundary (R380). -/
def State.retire (s : State) (len : Nat) : State :=
  let p := s.me.passed
  let s0 := { s with fresh := s.fresh + 1 }
  let onward (q : Port) : State :=
    let s1 := s0.setMe { p with port := q }
    if q.trapped then s1.afterTrap
    else if q.idx ≥ q.hdr.n then s1.finishClause
    else if p.isThread then s1.deliverAsync
    else if p.mate.held && !p.mate.halted then s1.setMe s1.me.swapPorts
    else s1
  match p.port.micro with
  | some m =>
    if m.idx + len ≥ m.words.length then
      onward { p.port with micro := none, idx := p.port.idx + 1 }
    else s0.setMe { p with port := { p.port with micro := some { m with idx := m.idx + len } } }
  | none => onward { p.port with idx := p.port.idx + len }

/-- The vent cores report an XLAT or a PERM of the party at the issue slot to the host, with the access where there is one (R381, log 94). -/
def State.reportFault (s : State) (c : Cause) (access : Option (Nat × Acc)) : State :=
  if c.mask &&& replayMask == 0 then s
  else { s with reports := s.reports ++ [{ ident := s.me.ident, cause := c.bit, asid := s.me.asid, access }] }

/-- A word that stopped: nothing of it happened, but what its stop says (R377). -/
def State.stopWord (s : State) (t : Stop) : State :=
  let s0 := { s with fresh := s.fresh + 1 }
  match t with
  | .hold => s0.setMe { s0.me with port := { s0.me.port with stall := true } }
  | .cause c => (s0.reportFault c none).raiseSync c
  | .refused c va k => (s0.reportFault c (some (va, k))).raiseSync c
  | .race r =>
    let p := s0.me
    let old := p.cause &&& (Cause.mask .cont ||| Cause.mask .fprt) != 0
    (s0.setMe { p with contrec := if old then p.contrec.set 0 (p.contrec[0] ||| 0x20) else r }).raiseSync .fprt
  | .mxf code => (s0.changeCluster s0.me.cluster fun c =>
      { c with engine := { c.engine with fcode := code } }).raiseSync .mxf

/-- The word waits: it completes when an event ends its wait (R254, R255). Its accesses have passed their checks (R381). -/
def enterWait (w : Wait) : Act Unit := changeMe fun q => let p := q.passed; { p with port := { p.port with wait := some w } }

/-- The word waits after it has popped an entry of stage queue j: until the wait ends nothing counts as popped (R255, R388). `old` is the
party before the word. -/
def enterWaitPopped (w : Wait) (old : Party) (e : Option (Nat × QEntry)) : Act Unit :=
  changeMe fun p => { p with port := { p.port with wait := some w, popped := e }, noFlush := if e.isSome then old.noFlush else p.noFlush }

/-- Nothing issues: in a wait of the port, behind a FENCE.FULL (R252), and behind a BAR whose wait part has not ended (R260). -/
def Party.blocked (p : Party) : Bool :=
  p.port.wait.isSome || p.pend.any (fun e => e.kind == .fence .full) || [p.port, p.mate].any fun q =>
    match q.wait with | some (.bar ..) => true | _ => false

/-- The word at the issuing port, of `len` words, is the last of a clause whose fall-through offset is out of range (R80). -/
def Party.pastEnd (p : Party) (len : Nat) : Bool :=
  p.port.held && p.port.micro.isNone && decide (p.port.idx + len ≥ p.port.hdr.n) && decide (p.port.fallThrough > 0xFFFFFFFB)

/-- The course of a word (R55-R57, R80, R377): held while SW waits for a long result; performed whole and then the next word, unless it waits; or stopped with nothing performed. A last word whose fall-through is out of range raises ILLI (R80). -/
def word (sw : Bool) (len : Nat) (body : Act Unit) (s : State) : Out :=
  if (sw && s.me.hasLong) || s.me.blocked then .next (s.stopWord .hold)
  else if s.me.pastEnd len then .next (s.stopWord (.cause .illi))
  else
    match body (s.setMe { s.me with atPoint := false }) with
    | .ok (_, s') =>
      if s'.me.port.wait.isSome then .next { s' with fresh := s'.fresh + 1 }.deliverAsync else .next (s'.retire len)
    | .error t => .next (s.stopWord t)

end Sys2Proof.Machine
end

