-- ==== Sys2Proof/Machine/Operands.lean ====
section
/-! DEFINITION. Every operand form: vector and uniform sources with last-read marks and queue ports, destinations with the
VREG check, long destinations, predicates (R8, R22-R32, R94-R96, R162-R164). -/

namespace Sys2Proof.Machine

open Sys2Proof

/-- A vector source with its last-read mark. -/
abbrev Src := VOp × Bool

/-- The names whose last-read marks take effect; marks on ports are ignored (R29). -/
def marked : List Src → List (Fin 116)
  | [] => []
  | (.v n, true) :: r => n :: marked r
  | _ :: r => marked r

/-- Read vector sources in order; each port is popped at most once (R29). -/
def readVs : List VOp → List (Fin 8 × VReg) → Act (List VReg)
  | [], _ => pure []
  | .v n :: r, c => do
    let s ← get
    let rest ← readVs r c
    pure (s.seeV n :: rest)
  | .q k :: r, c =>
    match c.lookup k with
    | some v => do
      let rest ← readVs r c
      pure (v :: rest)
    | none => do
      let v ← popV k
      let rest ← readVs r ((k, v) :: c)
      pure (v :: rest)

/-- The names a destination binds: none for a port. -/
def namesOf : VOp → List (Fin 116)
  | .v n => [n]
  | .q _ => []

/-- The check of R24 for destinations, made only where a lane is active (R22). -/
def checkVreg (freed dests : List (Fin 116)) : Act Unit := do
  let s ← get
  check (s.me.active == 0 || s.me.fits freed dests) .illi

/-- Unbind the names in a list (R22). -/
def Party.freeAll (p : Party) (ns : List (Fin 116)) : Party := ns.foldl Party.freeV p

/-- Write a vector destination in the active lanes, or push it (R22, R29). -/
def writeDest (d : VOp) (v : VReg) : Act Unit := do
  let s ← get
  match d with
  | .v n => changeMe fun p => p.writeV s.me.active n v
  | .q k => pushV k s.me.active v

/-- A register of values without poison. -/
def VReg.clean (f : Fin 32 → Word) : VReg := { val := lanes f, poison := 0 }

/-- Read the sources of a lane word: VREG check, reads and pops, POIS for poison in an active lane, then the marks (R96).
`old` says that the word reads its destination as well. Answers A, B and the old D. Where a word meets several, the order ILLI of a register
beyond VREG, a source port's QERR or wait, POIS, a destination port's QERR or wait is the model's choice: R96 and R164 give none (log 93). A mark
on A or B that names the destination of a word that reads it unbinds it too, where R22 and R94 differ (log 104). -/
def laneReads (dests : List (Fin 116)) (d : VOp) (srcs : List Src) (old : Bool) : Act (VReg × VReg × VReg) := do
  let s ← get
  checkVreg (marked srcs) dests
  let vs ← readVs (srcs.map (·.1)) []
  let a := vs.getD 0 .zero
  let b := vs.getD 1 .zero
  let o := match d, old with
    | .v n, true => s.seeV n
    | _, _ => .zero
  check ((a.poison ||| b.poison ||| o.poison) &&& s.me.active == 0) .pois
  changeMe fun p => p.freeAll (marked srcs)
  pure (a, b, o)

/-- A lane word with a short vector result and no other effect: D[l] = f A[l] B[l] oldD[l] (R95). -/
def laneWord (sw : Bool) (d : VOp) (srcs : List Src) (old : Bool) (f : Word → Word → Word → Word) : State → Out :=
  word sw 1 do
    let (a, b, o) ← laneReads (namesOf d) d srcs old
    writeDest d (.clean fun l => f a.val[l] b.val[l] o.val[l])

/-- A lane word whose result is a predicate: P[D][l] = f A[l] B[l] (R103). -/
def predWord (sw : Bool) (d : Fin 8) (srcs : List Src) (f : Word → Word → Bool) : State → Out :=
  word sw 1 do
    let (a, b, _) ← laneReads [] (.v 0) srcs false
    changeMe fun p => p.setPred p.active d (maskOf fun l => f a.val[l] b.val[l])

/-- A word that computes a predicate from predicates (R103, R180). -/
def predOnly (sw : Bool) (d : Fin 8) (f : Party → LaneMask) : State → Out :=
  word sw 1 (changeMe fun p => p.setPred p.active d (f p))

/-- A word that writes a vector register from the party's own state (R103, R104, R112, R180). -/
def fillWord (sw : Bool) (d : VOp) (f : Party → Fin 32 → Word) : State → Out :=
  word sw 1 do
    checkVreg [] (namesOf d)
    let s ← get
    writeDest d (.clean (f s.me))

/-- Set sticky FLAGS bits (R39). -/
def Party.orFlags (p : Party) (f : BitVec 32) : Party := { p with flags := p.flags ||| f }

/-- The flags raised in the lanes of a mask. -/
def flagsOver (act : LaneMask) (f : Fin 32 → BitVec 32) : BitVec 32 :=
  (List.finRange 32).foldl (fun acc l => if act.has l then acc ||| f l else acc) 0

/-- A floating-point lane word with a short result: the value and the flags of each active lane (R163). -/
def floatWord (sw : Bool) (d : VOp) (srcs : List Src) (old : Bool)
    (f : Word → Word → Word → Word × BitVec 32) : State → Out :=
  word sw 1 do
    let s ← get
    let (a, b, o) ← laneReads (namesOf d) d srcs old
    changeMe fun p => p.orFlags (flagsOver s.me.active fun l => (f a.val[l] b.val[l] o.val[l]).2)
    writeDest d (.clean fun l => (f a.val[l] b.val[l] o.val[l]).1)

/-- Hand over long results: they stay pending until written back (R56), in `n` names from d on. -/
def longResult (d : Fin 116) (regs : List (Lanes Word)) : Act Unit :=
  changeMe fun p =>
    if p.active == 0 then p
    else p.addPend (.value d regs) p.active [] false .none
      (some (regs.map fun v => { val := v, poison := 0 }))
      ((List.range regs.length).map (vnext d))

/-- A VF word with a long result; `bad` gives the poisoned lanes it consumes (R164); `f` sees whole registers and answers the
result registers and the flags of the active lanes (R163, R173, R178). -/
def longWord (sw : Bool) (d : VOp) (n : Nat) (srcs : List Src) (bad : Party → VReg → VReg → LaneMask)
    (f : Party → VReg → VReg → List (Lanes Word) × BitVec 32) : State → Out :=
  word sw 1 do
    let s ← get
    match d with
    | .q _ => raise .illi
    | .v k =>
      checkVreg (marked srcs) ((List.range n).map (vnext k))
      let vs ← readVs (srcs.map (·.1)) []
      let a := vs.getD 0 .zero
      let b := vs.getD 1 .zero
      check (bad s.me a b == 0) .pois
      changeMe fun p => p.freeAll (marked srcs)
      changeMe fun p => p.orFlags (f s.me a b).2
      longResult k (f s.me a b).1

/-! ## Uniform operands (R31, R105) -/

/-- Read uniform sources in order; each port is popped at most once (R29). -/
def readSs : List SOp → List (Fin 8 × SReg) → Act (List SReg)
  | [], _ => pure []
  | .s n :: r, c => do
    let s ← get
    let rest ← readSs r c
    pure (s.seeS n :: rest)
  | .sq k :: r, c =>
    match c.lookup k with
    | some v => do
      let rest ← readSs r c
      pure (v :: rest)
    | none => do
      let v ← popS k
      let rest ← readSs r ((k, v) :: c)
      pure (v :: rest)

/-- Read uniform sources; a poisoned one raises POIS (R105). -/
def readClean (srcs : List SOp) : Act (List DWord) := do
  let vs ← readSs srcs []
  check (vs.all (!·.poison)) .pois
  pure (vs.map (·.val))

/-- Read one uniform register or port. -/
def readS (a : SOp) : Act DWord := do
  let vs ← readClean [a]
  pure (vs.getD 0 0)

/-- The entry that reading a uniform operand popped, with its queue (R29). -/
def Party.poppedBy (p : Party) (a : SOp) (x : DWord) : Option (Nat × QEntry) :=
  match a with
  | .s _ => none
  | .sq k => p.sqports[k].map fun j => (j, .sca { val := x, poison := false })

/-- Write a uniform destination, or push it. -/
def writeS (d : SOp) (v : DWord) : Act Unit :=
  match d with
  | .s n => changeMe fun p => p.setS n { val := v, poison := false }
  | .sq k => pushS k { val := v, poison := false }

/-- A UN word SD = f SA SB (R107). -/
def uniWord (sw : Bool) (d : SOp) (srcs : List SOp) (f : DWord → DWord → DWord) : State → Out :=
  word sw 1 do
    let vs ← readClean srcs
    writeS d (f (vs.getD 0 0) (vs.getD 1 0))

end Sys2Proof.Machine
end

