-- ==== Sys2Proof/Machine/Flags.lean ====
section
/-! DEFINITION. Every flag and condition the spec computes: compares of both classes (R103, R107, R110), predicate operations
and folds (R103, R180), and the sticky floating-point flags of FLAGS (R39, R145). -/

namespace Sys2Proof.Machine

open Sys2Proof

/-- Signed compare of ISETS. -/
def Cmp.signed (c : Cmp) (a b : Word) : Bool :=
  match c with
  | .eq => a == b | .ne => a != b | .lt => a.slt b | .le => a.sle b

/-- Unsigned compare of ISETU. -/
def Cmp.unsigned (c : Cmp) (a b : Word) : Bool :=
  match c with
  | .eq => a == b | .ne => a != b | .lt => a.ult b | .le => a.ule b

/-- Compare of SSET. -/
def SCmp.holds (c : SCmp) (a b : DWord) : Bool :=
  match c with
  | .eq => a == b | .ne => a != b | .lt => a.slt b | .le => a.sle b | .ltu => a.ult b | .leu => a.ule b

/-- PLOP on whole predicates. -/
def POp.apply (o : POp) (x y : LaneMask) : LaneMask :=
  match o with
  | .and => x &&& y | .or => x ||| y | .xor => x ^^^ y | .andn => x &&& ~~~y

/-- Bits of FLAGS (R39). -/
def flagINV : BitVec 32 := 0x01
/-- Overflow. -/
def flagOVF : BitVec 32 := 0x02
/-- Underflow. -/
def flagUNF : BitVec 32 := 0x04
/-- Inexact. -/
def flagINX : BitVec 32 := 0x08
/-- Gain underflow. -/
def flagGUF : BitVec 32 := 0x10

/-- A bit as FLAGS. -/
def flagIf (c : Bool) (f : BitVec 32) : BitVec 32 := if c then f else 0

end Sys2Proof.Machine
end

