-- ==== Sys2Proof/Machine/Mem.lean ====
section
/-! DEFINITION. Memory: bytes by physical address with keys and poison (R219, R366, R378), regions (R358), homes
(R297-R299), page tables, the walk and its checks (R352-R359). -/

namespace Sys2Proof.Machine

open Sys2Proof

/-! ## Regions and homes -/

/-- Regions of the physical address space (R358). -/
inductive Region where
  | device | host | peer | window | none
  deriving DecidableEq, Repr

/-- The region of a physical address. -/
def regionOf (pa : Nat) : Region :=
  if pa < 0x8000000000 then .device
  else if 0x1000000000000 ≤ pa && pa < 0x2000000000000 then .host
  else if 0x2000000000000 ≤ pa && pa < 0x3000000000000 then .peer
  else if 0xFFF0000000000 ≤ pa && pa < 0x10000000000000 then .window
  else .none

/-- hdie of R297. -/
def hdie (pa : Nat) : Nat :=
  natBits pa 13 12 ^^^ natBits pa 21 20 ^^^ natBits pa 29 28 ^^^ natBits pa 37 36 ^^^ natBits pa 45 44

/-- Slice of a line within its home die (R297). -/
def sliceOf (pa : Nat) : Nat :=
  ((natBits pa 15 14 ^^^ natBits pa 24 23) * 32) + (natBits pa 11 7 ^^^ natBits pa 20 16)

/-- Dies of a mask in ascending order. -/
def diesOf (m : BitVec 4) : List Nat := (List.range 4).filter fun d => m.getLsbD d

/-- Home die of an interleaved line in a partition (R299). -/
def interleavedHome (m : BitVec 4) (pa : Nat) : Nat :=
  let ds := diesOf m
  ds.getD (hdie pa % Nat.max 1 ds.length) 0

/-- Partition whose device range holds a physical address (R364). -/
def State.partOfPa (s : State) (pa : Nat) : Option (Fin 4) :=
  (List.finRange 4).find? fun p => (diesOf s.parts[p].dies).contains (pa / 0x2000000000)

/-! ## Bytes -/

/-- What an unlisted address reads as: device memory is zero after a cold start (R414), host and peer memory by choice
(log 14). -/
def emptyByte : Byte := 0

/-- Raw byte of memory. -/
def State.byte (s : State) (a : Nat) : Byte := Tbl.getD s.mem a emptyByte

/-- Write a raw byte, keeping the canonical form: an entry equal to what an unlisted address reads as is not kept. -/
def memSet (m : List Host.Cell) (a : Nat) (b : Byte) : List Host.Cell :=
  if b = emptyByte then Tbl.erase m a else Tbl.set m a b

/-- Canonical form of memory: addresses strictly rising, no entry equal to the empty byte. -/
abbrev Memory.wf (m : List Host.Cell) : Prop :=
  Tbl.sorted m = true ∧ m.all (fun c => c.2 != emptyByte) = true

/-- Write bytes from a on. -/
def memSets (m : List Host.Cell) : Nat → List Byte → List Host.Cell
  | _, [] => m
  | a, b :: bs => memSets (memSet m a b) (a + 1) bs

/-- The line record of a physical address. -/
def State.line (s : State) (n : Nat) : Line := Tbl.getD s.lines n .initial

/-- Change the line record n. -/
def State.changeLine (s : State) (n : Nat) (f : Line → Line) : State :=
  { s with lines := Tbl.set s.lines n (f (s.line n)) }

/-- Generation of a key's material. -/
def State.genOf (s : State) (kid : Nat) : Nat := ((Tbl.get s.kids kid).map (·.gen)).getD 0

/-- Device bytes are enciphered on their way to HBM; host, peer and window bytes are not (R366). -/
def enciphered (pa : Nat) : Bool := regionOf pa == .device

/-- Byte a as it reads under a key (R366): under another key than it stands under, unrelated bytes. -/
def State.keyedByte (s : State) (kid a : Nat) : Byte :=
  let l := s.line (a / 128)
  if !enciphered a || (l.dkid == kid && l.dgen == s.genOf kid) then s.byte a
  else Config.rekey l.dgen (s.genOf kid) (a / 128) (a % 128) ((rangeFrom (a / 16 * 16) 1 16).map s.byte)

/-- Bytes from a on under a key. -/
def State.keyedBytes (s : State) (kid a : Nat) : Nat → List Byte
  | 0 => []
  | n + 1 => s.keyedByte kid a :: s.keyedBytes kid (a + 1) n

/-- Re-encipher line n under a key before it is written (R366): its bytes become what they read as. -/
def State.adopt (s : State) (kid n : Nat) : State :=
  let l := s.line n
  if !enciphered (n * 128) || (l.dkid == kid && l.dgen == s.genOf kid) then s
  else
    let bs := s.keyedBytes kid (n * 128) 128
    { (s.changeLine n fun l => { l with dkid := kid, dgen := s.genOf kid }) with
      mem := memSets s.mem (n * 128) bs }

/-- Poison of the elements that [a, a + n) touches. -/
def State.poisonedAt (s : State) (a n : Nat) : Bool :=
  (rangeFrom (a / 4) 1 ((a + n + 3) / 4 - a / 4)).any fun e => s.poison.contains e

/-- Elements wholly inside [a, a + n): a store of them clears their poison (R378). -/
def wholeElements (a n : Nat) : List Nat := rangeFrom ((a + 3) / 4) 1 ((a + n) / 4 - (a + 3) / 4)

/-- Write bytes under a key; elements wholly written lose their poison (R378). -/
def State.writeBytes (s : State) (kid a : Nat) (bs : List Byte) : State :=
  if bs.isEmpty then s
  else
    let s2 := (rangeFrom (a / 128) 1 ((a + bs.length - 1) / 128 + 1 - a / 128)).foldl (fun t n => t.adopt kid n) s
    let gone := wholeElements a bs.length
    { s2 with mem := memSets s2.mem a bs, poison := s2.poison.filter fun e => !gone.contains e }

/-- Mark the elements of [a, a + n) poisoned (R378). -/
def State.markPoison (s : State) (a n : Nat) : State :=
  { s with poison := (rangeFrom (a / 4) 1 ((a + n + 3) / 4 - a / 4)).foldl (fun l e => insertNat e l) s.poison }

/-! ## Translation (R352-R358) -/

/-- Fields of an entry (R354). -/
def pteBit (e : BitVec 64) (n : Nat) : Bool := e.getLsbD n
/-- PA[51:12] as an address. -/
def ptePa (e : BitVec 64) : Nat := natBits e.toNat 51 12 * 4096
/-- MT. -/
def pteMt (e : BitVec 64) : Nat := natBits e.toNat 9 8
/-- PL. -/
def ptePl (e : BitVec 64) : Nat := natBits e.toNat 11 10
/-- HD. -/
def pteHd (e : BitVec 64) : Nat := natBits e.toNat 53 52
/-- KID. -/
def pteKid (e : BitVec 64) : Nat := natBits e.toNat 63 54
/-- A leaf has any of R, W, X (R355). -/
def pteLeaf (e : BitVec 64) : Bool := pteBit e 1 || pteBit e 2 || pteBit e 3

/-- log2 of the leaf size at a level (R353). -/
def leafShift (level : Nat) : Nat := 12 + 9 * level

/-- Malformed entries (R355). -/
def malformed (e : BitVec 64) (level : Nat) : Bool :=
  (pteBit e 2 && !pteBit e 1) ||
  (pteLeaf e && (level == 4 || ptePa e % 2 ^ leafShift level != 0)) ||
  (!pteLeaf e && (natBits e.toNat 11 4 != 0 || natBits e.toNat 63 52 != 0))

/-- Entries of a table at a level (R353). -/
def tableSize (level : Nat) : Nat := if level == 4 then 16 else 512

/-- PA of the entry that a VA indexes in the table at t (R353). -/
def entryPa (t level va : Nat) : Nat := t + 8 * (va / 2 ^ leafShift level % tableSize level)

/-- The entry that stands at a PA of the firmware's region, under key 0 (R352, log 9). -/
def State.entryAt (s : State) (pa : Nat) : BitVec 64 := BitVec.ofNat 64 (natLE (s.keyedBytes 0 pa 8))

/-- Walk from the table at t down to a leaf (R356); `fuel` is the table's level plus 1. -/
def State.walkFrom (s : State) (va : Nat) : Nat → Nat → Except Cause (Nat × BitVec 64)
  | _, 0 => .error .xlat
  | t, k + 1 =>
    let e := s.entryAt (entryPa t k va)
    if !pteBit e 0 || malformed e k then .error .xlat
    else if pteLeaf e then .ok (k, e)
    else s.walkFrom va (ptePa e) k

/-- The walk of R356 in an address space. -/
def State.walk (s : State) (asid va : Nat) : Except Cause (Nat × BitVec 64) :=
  if va ≥ 2 ^ 52 then .error .xlat
  else match Tbl.get s.spaces asid with
    | none => .error .xlat
    | some sp => s.walkFrom va sp.root 5

/-- PAs of the entries that a walk reads from the table at t on. -/
def State.pathFrom (s : State) (va : Nat) : Nat → Nat → List Nat
  | _, 0 => []
  | t, k + 1 =>
    let pa := entryPa t k va
    let e := s.entryAt pa
    if pteBit e 0 && !malformed e k && !pteLeaf e then pa :: s.pathFrom va (ptePa e) k else [pa]

/-- PAs of the entries that a walk of R356 reads, from the root's on. -/
def State.walkPath (s : State) (asid va : Nat) : List Nat :=
  match Tbl.get s.spaces asid with
  | some sp => if va < 2 ^ 52 then s.pathFrom va sp.root 5 else []
  | none => []

/-- PA of the entry that a VA indexes at a level, where its table is there. -/
def State.slotOf (s : State) (asid level va : Nat) : Option Nat := (s.walkPath asid va)[4 - level]?

/-- Write an entry of a table (R360). -/
def State.writeEntry (s : State) (pa : Nat) (e : BitVec 64) : State := s.writeBytes 0 pa (bytesLE 8 e.toNat)

/-- A TLB entry that serves an access (R359): of the ASID, or global within the partition. -/
def TlbEntry.serves (t : TlbEntry) (p : Party) (va : Nat) : Bool :=
  (t.asid == p.asid || pteBit t.pte 5) && t.part == p.part && va < 2 ^ 52 && t.vpn == va / 2 ^ leafShift t.level

/-- The L1 TLB entries of a core for a kind of access: fetches have their own (R359). -/
def Core.firstTlb (c : Core) (k : Acc) : List TlbEntry := if k == .fetch then c.itlb else c.tlb

/-- The leaf that serves an access: from the L1 TLB of the party's core, else the L2 TLB of its cluster, else by a walk
(R356, R359). -/
def State.leafFor (s : State) (p : Party) (k : Acc) (va : Nat) : Except Cause (Nat × BitVec 64) :=
  match ((s.core p.core).firstTlb k ++ (s.cluster p.cluster).tlb).find? (·.serves p va) with
  | some t => .ok (t.level, t.pte)
  | none => s.walk p.asid va

/-- The address space whose tables hold that leaf: for a global entry of a TLB, the one it was read from (R356, R359). -/
def State.leafOwner (s : State) (p : Party) (k : Acc) (va : Nat) : Nat :=
  match ((s.core p.core).firstTlb k ++ (s.cluster p.cluster).tlb).find? (·.serves p va) with
  | some t => t.asid
  | none => p.asid

/-- R358: which PL, MT and U a region allows a leaf of a level, all of whose PAs lie in the region, and peers and dies of the partition. -/
def regionAllows (dies : BitVec 4) (level : Nat) (e : BitVec 64) : Bool :=
  let pl := ptePl e
  let mt := pteMt e
  let pa := ptePa e
  match regionOf pa with
  | .device =>
    (rangeFrom (pa / 0x2000000000) 1 ((pa + 2 ^ leafShift level - 1) / 0x2000000000 + 1 - pa / 0x2000000000)).all
      (diesOf dies).contains && (pl == 0 || (pl == 1 && (diesOf dies).contains (pteHd e)))
  | .host => pl == 2 && (mt == 1 || mt == 3)
  | .peer => pl == 0 && mt == 1 && (diesOf dies).contains (natBits pa 47 44 / 4)
  | .window => pl == 0 && mt == 1 && !pteBit e 4
  | .none => false

/-- The checks of R357, orders 2 to 4, of a leaf of a level. -/
def leafCheck (dies : BitVec 4) (sup : Bool) (k : Acc) (level : Nat) (e : BitVec 64) : Except Cause Unit :=
  let r := pteBit e 1
  let w := pteBit e 2
  let x := pteBit e 3
  let u := pteBit e 4
  let perm := match k with
    | .load => r
    | .store => w
    | .atomic => r && w
    | .fetch => x
  if !perm then .error .perm
  else if (!sup && !u) || (sup && k == .fetch && u) then .error .perm
  else if !regionAllows dies level e then .error .perm
  else .ok ()

/-- A translated address: PA, key, memory type, and the entry. -/
structure Trans where
  pa : Nat
  kid : Nat
  mt : Nat
  pl : Nat
  pte : BitVec 64
  level : Nat
  deriving DecidableEq, Repr

/-- Translate a VA for an access of a party (R356, R357). -/
def State.translate (s : State) (p : Party) (k : Acc) (va : Nat) : Except Cause Trans := do
  let (level, e) ← s.leafFor p k va
  let pa := ptePa e + va % 2 ^ leafShift level
  leafCheck (s.partOf p).dies p.sup k level e
  pure { pa, kid := pteKid e, mt := pteMt e, pl := ptePl e, pte := e, level }

/-- A TLB after an access of a party through a leaf: its entry comes first, and the oldest of more than `n` leaves (R359, log 13). -/
def tlbWith (l : List TlbEntry) (p : Party) (va : Nat) (e : TlbEntry) (n : Nat) : List TlbEntry :=
  (e :: l.filter fun x => !x.serves p va).take n

/-- Entries leave every TLB (R359, R362). -/
def State.dropTlb (s : State) (gone : TlbEntry → Bool) : State :=
  let core (x : Nat × Core) : Nat × Core :=
    (x.1, { x.2 with tlb := x.2.tlb.filter fun t => !gone t, itlb := x.2.itlb.filter fun t => !gone t })
  let cluster (x : Nat × Cluster) : Nat × Cluster := (x.1, { x.2 with tlb := x.2.tlb.filter fun t => !gone t })
  { s with cores := s.cores.map core, clusters := s.clusters.map cluster }

/-- Home die of a translated device address (R298, R299). -/
def State.homeDie (s : State) (part : Fin 4) (t : Trans) : Nat :=
  if t.pl == 1 then pteHd t.pte else interleavedHome s.parts[part].dies t.pa

/-- The valid entries of the table of n entries at t, with their indices. -/
def State.tableEntries (s : State) (t n : Nat) : List (Nat × BitVec 64) :=
  (s.mem.filter fun c => decide (t ≤ c.1) && decide (c.1 < t + 8 * n) && (c.1 - t) % 8 == 0 && c.2.toNat % 2 == 1).map fun c =>
    ((c.1 - t) / 8, s.entryAt c.1)

/-- The leaves beneath the table at t, whose first VA is va: level, first VA, entry, PA of the entry. `fuel` is the table's level plus 1. -/
def State.leavesUnder (s : State) : Nat → Nat → Nat → List (Nat × Nat × BitVec 64 × Nat)
  | _, _, 0 => []
  | t, va, k + 1 =>
    (s.tableEntries t (tableSize k)).flatMap fun (i, e) =>
      let first := va + i * 2 ^ leafShift k
      if malformed e k then []
      else if pteLeaf e then [(k, first, e, t + 8 * i)]
      else s.leavesUnder (ptePa e) first k

/-- Every leaf of the page tables: ASID, level, first VA, entry. -/
def State.leaves (s : State) : List (Nat × Nat × Nat × BitVec 64) :=
  s.spaces.flatMap fun (a, sp) => (s.leavesUnder sp.root 0 5).map fun x => (a, x.1, x.2.1, x.2.2.1)

/-- Device pages of 4 KiB that a leaf maps, by number. -/
def leafPages (level : Nat) (e : BitVec 64) : List Nat :=
  if regionOf (ptePa e) == .device then rangeFrom (ptePa e / 4096) 1 (2 ^ leafShift level / 4096) else []

/-- Home die of a line, by any leaf of its page: every leaf of a page gives it one home (R299). Lines that no leaf maps are
interleaved over the partition of their range. -/
def State.homeOfPa (s : State) (pa : Nat) : Nat :=
  let page := pa / 4096 * 4096
  let fromLeaf := s.spaces.findSome? fun (_, sp) => (s.leavesUnder sp.root 0 5).findSome? fun (level, _, e, _) =>
    if decide (ptePa e ≤ page) && decide (page < ptePa e + 2 ^ leafShift level) then
      some (if ptePl e == 1 then pteHd e else interleavedHome s.parts[sp.part].dies pa)
    else none
  match fromLeaf with
  | some d => d
  | none => match s.partOfPa pa with
    | some p => interleavedHome s.parts[p].dies pa
    | none => pa / 0x2000000000 % 4

/-- Device pages that leaves map, without repeats, with their home dies (R299). -/
def State.homedPages (s : State) : List (Nat × Nat) :=
  (s.leaves.flatMap fun x => leafPages x.2.1 x.2.2.2).eraseDups.map fun n => (n, s.homeOfPa (n * 4096))

/-- Pages a die can be home of (R299): 128 GiB. -/
def diePages : Nat := 2 ^ 25

/-- Number of the home slice unit of a line (R272, R297). -/
def State.homeUnit (s : State) (pa : Nat) : Nat := 512 + 128 * s.homeOfPa pa + sliceOf pa

/-- Number of the HBM4 controller of a line (R272, R297). -/
def State.hbmUnit (s : State) (pa : Nat) : Nat := 1024 + 2 * s.homeOfPa pa + sliceOf pa / 64

/-- Loads, stores and atomics to a line homed on a failed die raise HOME, except a salvaging supervisor load (R395,
R257). -/
def State.homeLost (s : State) (p : Party) (k : Acc) (pa kid : Nat) : Bool :=
  regionOf pa == .device && (s.die (s.homeOfPa pa)).failed &&
    !(p.sup && k == .load && (s.line (pa / 128)).salvaged.contains kid)

end Sys2Proof.Machine
end

