-- ==== Sys2Proof/Machine/Coherence.lean ====
section
/-! DEFINITION. The coherence protocol: logical clocks (R269), holders and their states (R288-R290), interval numbers
(R271), sinter records (R273, R274), host halves (R291), key chains (R293). A line has one value, the bytes of memory; a
holder whose copy differs from it carries its own bytes (log 13). -/

namespace Sys2Proof.Machine

open Sys2Proof

/-! ## Clocks (R269) -/

/-- Time a is at or after time b in the window of R269. -/
def laterOrSame (a b : BitVec 48) : Bool := (a - b).toNat < 2 ^ 47

/-- The earlier of two logical times. -/
def minTime (a b : BitVec 48) : BitVec 48 := if laterOrSame a b then b else a

/-- The later of two logical times. -/
def maxTime (a b : BitVec 48) : BitVec 48 := if laterOrSame a b then a else b

/-- The host bridge's unit (R272). -/
def bridgeUnit : Nat := 1032

/-- The unit of vent core n (R272). Units 1040 to 1044 name a copy engine too: the two share a clock (log 30, 65). -/
def ventUnit (n : Nat) : Nat := 1033 + n

/-- Compute die of a unit; none on the FED (R272). -/
def unitDie (u : Nat) : Option Nat :=
  if u < 512 then some (u / 128)
  else if u < 1024 then some ((u - 512) / 128)
  else if u < 1032 then some ((u - 1024) / 2)
  else if u < 1045 then none
  else if u < 1168 then some ((u - 1040) / 32)
  else if u < 1296 then some ((u - 1168) / 32) else none

/-- Compute die of a unit that holds a line: units 1040 to 1044 do so as copy engines only (R272, R295). -/
def holderDie (u : Nat) : Option Nat := if 1040 ≤ u && u < 1045 then some 0 else unitDie u

/-- The partition of a unit's die. -/
def State.partOfUnit (s : State) (u : Nat) : Option (Fin 4) :=
  (unitDie u).bind fun d => (List.finRange 4).find? fun p => s.parts[p].dies.getLsbD d

/-- Clock of a unit: a broadcast has raised one that lags to the largest clock it carried (R269). A unit of the FED hears the broadcasts of
every partition (log 88). -/
def State.clock (s : State) (u : Nat) : BitVec 48 :=
  let own := Tbl.getD s.clocks u 0
  match unitDie u with
  | some _ => match s.partOfUnit u with
    | some p => maxTime own s.parts[p].maxClock
    | none => own
  | none => (List.finRange 4).foldl (fun m p => if s.parts[p].dies == 0 then m else maxTime m s.parts[p].maxClock) own

/-- k local events of a unit: its clock advances by 1 with each. -/
def State.ticks (s : State) (u k : Nat) : State := { s with clocks := Tbl.set s.clocks u (s.clock u + BitVec.ofNat 48 k) }

/-- A local event of a unit. -/
def State.tick (s : State) (u : Nat) : State := s.ticks u 1

/-- A message from unit u reaches unit v: its clock becomes max(own, t) + 1. -/
def State.message (s : State) (u v : Nat) : State :=
  { s with clocks := if u == v then s.clocks else Tbl.set s.clocks v (maxTime (s.clock u) (s.clock v) + 1) }

/-- The clock of a party: its core's; core 0 of a cluster serves the M-thread and core 1 the C-thread (R276). -/
def Party.clockUnit (p : Party) : Nat :=
  match p.role with
  | .gang => p.core
  | .mThread => p.core / 4 * 4
  | .cThread => p.core / 4 * 4 + 1

/-! ## Holders -/

/-- A unit that is an L2 slice (R272). -/
def isSlice (u : Nat) : Bool := 512 ≤ u && u < 1024

/-- A unit that is a copy or matrix engine (R272). -/
def isEngine (u : Nat) : Bool := 1040 ≤ u && u < 1296

/-- A W holder (R288). -/
def Moesi.write : Moesi → Bool
  | .m | .e => true
  | .o | .s => false

/-- Dirty toward the home (R288). -/
def Moesi.dirty : Moesi → Bool
  | .m | .o => true
  | .e | .s => false

/-- A new holder of a line. -/
def Holder.fresh (u : Nat) (beneath : Option Nat) (st : Moesi) : Holder :=
  { unit := u, st, beneath, start := 0, first := [], own := none, readers := [], loaded := false }

/-- Give unit u the line in a group of holders (R289): the group after, and whether a new interval begins. -/
def grant (hs : List Holder) (u : Nat) (beneath : Option Nat) (write shared : Bool) : List Holder × Bool :=
  match hs.find? (·.unit == u) with
  | some h =>
    if !write then (hs, false)
    else match h.st with
      | .m => (hs, false)
      | .e => ([{ h with st := .m }], false)
      | _ => ([{ h with st := .m }], true)
  | none =>
    if write then ([.fresh u beneath .m], true)
    else
      let others := hs.map fun h =>
        match h.st with
        | .m => { h with st := if isSlice h.unit then .o else .s }
        | .e => { h with st := .s }
        | _ => h
      (others ++ [.fresh u beneath (if hs.isEmpty && !shared then .e else .s)], true)

/-- DUALW: unit u is granted W and no other holder is invalidated (R287). -/
def grantDual (hs : List Holder) (u : Nat) (beneath : Option Nat) : List Holder × Bool :=
  match hs.find? (·.unit == u) with
  | some h => (hs.map fun x => if x.unit == u then { x with st := .m } else x, !h.st.write)
  | none => (hs ++ [.fresh u beneath .m], true)

/-- A holder's record of its part in the present interval of line n (R273, R274); an interval of zero length ends when it began (R280). -/
def Holder.record (h : Holder) (n : Nat) (l : Line) (kind : SinterKind) (now : Nat) (value : List Byte) : Sinter :=
  { line := n, kid := l.kid, kind, half := 0, write := h.st.write, interval := l.interval, beneath := h.beneath,
    sub := match h.beneath with | some r => Tbl.getD l.subs r 0 | none => 0
    unit := h.unit, tstart := h.start, tend := if kind == .atomic then h.start else now, first := h.first, last := h.own.getD value
    readers := h.readers }

/-- CRC-32C step for one byte (R273): Castagnoli polynomial, reflected. -/
def crcByte (c : BitVec 32) (b : Byte) : BitVec 32 :=
  (List.range 8).foldl (fun x _ => if x.getLsbD 0 then (x >>> 1) ^^^ 0x82F63B78 else x >>> 1) (c ^^^ b.zeroExtend 32)

/-- CRC-32C of bytes in ascending address order (R273). -/
def crc32c (bs : List Byte) : BitVec 32 := ~~~(bs.foldl crcByte 0xFFFFFFFF)

/-- A line is sampled under K when the low K bits of the CRC-32C of the 8-byte value PA[51:7] are 0 (R286). -/
def sampled (k n : Nat) : Bool := (crc32c (bytesLE 8 n)).toNat % 2 ^ k == 0

/-- Code of KIND; an open notice is sent before the kind of the close is known (R273, R274). -/
def SinterKind.code : SinterKind → Nat
  | .opened | .close => 0
  | .discard => 1
  | .engine => 2
  | .atomic => 3
  | .seal => 4
  | .retire => 5

/-- The 40 bytes of a record; of an open notice the first 24 and HSTART, with TEND 0 (R273, R274). -/
def Sinter.bytes (r : Sinter) : List Byte :=
  let hstart := (crc32c r.first).toNat
  let hend := if r.kind == .opened then 0 else (crc32c r.last).toNat
  bytesLE 8 (r.line * 2 ^ 19 + r.kid * 2 ^ 9 + r.kind.code * 2 ^ 6 + r.half * 2 ^ 4 + r.write.toNat * 2 ^ 3) ++
    bytesLE 8 (r.interval * 2 ^ 32 + r.sub * 2 ^ 12 + r.unit) ++ bytesLE 8 (r.tstart % 2 ^ 48) ++
    bytesLE 8 (if r.kind == .opened then 0 else r.tend % 2 ^ 48) ++ bytesLE 8 (hend * 2 ^ 32 + hstart)

/-- Records of a line's intervals that begin now are kept (R285, R286). -/
def State.records? (s : State) (n : Nat) : Bool :=
  regionOf (n * 128) == .device &&
    match s.partOfPa (n * 128) with
    | some p =>
      let m := s.parts[p].chkmode.toNat
      natBits m 1 0 == 0 || sampled (natBits m 7 4) n
    | none => true

/-- Who holds an interval with a holder set: the HBM4 controller with W when no cache does (R271). -/
def State.holdersOf (s : State) (n : Nat) (l : Line) (hs : List Holder) (value : List Byte) : List Holder :=
  if hs.isEmpty && regionOf (n * 128) == .device then [{ Holder.fresh (s.hbmUnit (n * 128)) none .m with start := l.began, first := value }] else hs

/-- What a W holder leaves in an interval of a line that closes: the bytes of the copy, or of the half, that held W; none where no holder had W
(R288, R292). -/
def Line.writtenBy (l : Line) (old : List Holder) (value : List Byte) : Option (List Byte) :=
  match old.find? fun h => h.beneath.isNone && h.st.write with
  | some h => some (h.own.getD value)
  | none => if l.lo == .hm || l.hi == .hm then some value else none

/-- An interval of line n, under key kid, with a W holder closes, holding these bytes: its LINE entry is journaled (R411), or compared in replay
mode (R413). W intervals of a line are numbered under each key. -/
def State.lineClosed (s : State) (n kid : Nat) (bytes : List Byte) : State :=
  match s.partOfPa (n * 128) with
  | none => s
  | some p =>
    if !s.debugBit p 6 && !s.debugBit p 7 then s
    else
      let key := n * 1024 + kid
      let o := Tbl.getD s.debug[p].ordinals key 0
      let h := (crc32c bytes).toNat
      let src := 2304 + 128 * s.homeOfPa (n * 128) + sliceOf (n * 128)
      let t := (s.changeDebug p fun d => { d with ordinals := Tbl.set d.ordinals key (o + 1) }).journalEntry p src
        { kind := 0x16, ident := 0, pos := o, key, vals := [h] }
      if s.debugBit p 7 && s.debug[p].replay.any (fun e => e.kind == 0x16 && e.key == key && e.pos == o && e.vals != [h]) then
        t.emit p src 0x08 (le8 1 ++ le8 (n * 128) ++ le8 kid ++ le8 o)
      else t

/-- Keep records until they are checked. -/
def State.keepRecords (s : State) (rs : List Sinter) : State := { s with records := s.records ++ rs }

/-- The bytes of a half: 1 bytes 0-63, 2 bytes 64-127, else all (R273). -/
def halfBytes (h : Nat) (bs : List Byte) : List Byte :=
  match h with
  | 1 => bs.take 64
  | 2 => bs.drop 64
  | _ => bs

/-- Records of a line with a half at the host stand for one half each (R292): of the half itself, none for one that is HM, and PERM R for
one that is HS; where no cache holds a half that the host holds, its controller is no holder of it. -/
def splitHalves (l : Line) (rs : List Sinter) : List Sinter :=
  if l.lo == .n && l.hi == .n then rs
  else [(1, l.lo), (2, l.hi)].flatMap fun (h, st) =>
    if st == .hm then []
    else (rs.filter fun r => st == .n || !(1024 ≤ r.unit && r.unit < 1032)).map fun r =>
      { r with half := h, write := r.write && st == .n, first := halfBytes h r.first, last := halfBytes h r.last }

/-- The bridge's records of the halves the host holds (R292). -/
def bridgeRecords (n : Nat) (l : Line) (kind : SinterKind) (now : Nat) (value : List Byte) : List Sinter :=
  [(1, l.lo), (2, l.hi)].filterMap fun (h, st) =>
    if st == .n then none
    else some { line := n, kid := l.kid, kind, half := h, write := st == .hm, interval := l.interval, beneath := none, sub := 0,
                unit := bridgeUnit, tstart := l.began, tend := now, first := halfBytes h l.value0, last := halfBytes h value,
                readers := [] }

/-! ## Intervals (R271, R274, R290) -/

/-- The bytes a line holds once a holder set gives way to another: those of a copy that was dirty, or that is granted W, where they differ
from the line's value; they are what is handed on (R275, R289). -/
def handedOn (old new : List Holder) (value : List Byte) : List Byte :=
  match new.find? fun h => h.st.write && h.own.isSome with
  | some h => h.own.getD value
  | none => match old.find? fun h => h.st.dirty && h.own.isSome with
    | some h => h.own.getD value
    | none => value

/-- A holder in a group that begins: it has its own bytes only where they differ from what the line now holds. -/
def Holder.open (h : Holder) (old : List Holder) (was now : List Byte) (start : Nat) : Holder :=
  let bytes := h.own.getD (if old.any (·.unit == h.unit) then was else now)
  { h with start, first := bytes, own := if bytes == now then none else some bytes, readers := [] }

/-- A line's value becomes what a copy held; no element is written, so poison stays (R378). -/
def State.putValue (s : State) (kid n : Nat) (bs : List Byte) : State :=
  { s.writeBytes kid (n * 128) bs with poison := s.poison }

/-- Events of a unit when its part in an interval begins or ends: the event, and the record where one is emitted (R269). -/
def Line.events (l : Line) : Nat := if l.recorded then 2 else 1

/-- The kind of a holder's close: an engine's own, or the one given for a unit (R273). -/
def closeKind (what : Nat × SinterKind) (u : Nat) : SinterKind :=
  if isEngine u then .engine else if u == what.1 then what.2 else .close

/-- No unit's close is of another kind. -/
def plainClose : Nat × SinterKind := (4096, .close)

/-- A unit hears from the one that stands over it that its part in an interval is over, and answers with its record (R269, R274, R290). -/
def State.hearClose (s : State) (above u events : Nat) : State := ((s.message above u).ticks u events).message u above

/-- A unit receives a line (R269, R274). -/
def State.hearOpen (s : State) (above u events : Nat) : State := ((s.message above u).ticks u events).message u above

/-- The unit that serves a line: its home slice, or the host bridge for host memory (R220, R272). -/
def State.servingUnit (s : State) (pa : Nat) : Nat := if regionOf pa == .device then s.homeUnit pa else bridgeUnit

/-- A store has changed the line in its present interval (R310). -/
def Line.written (l : Line) : Line := { l with wrote := l.interval, prior := if l.wrote == l.interval then l.prior else l.wrote }

/-- Key of an interval in a line's table of faulty ones (R281, R293). -/
def faultKey (kid k : Nat) : Nat := kid * 2 ^ 32 + k

/-- What made an interval of the line faulty (R281). -/
def Line.faultAt (l : Line) (kid k : Nat) : Option Verdict := Tbl.get l.faulty (faultKey kid k)

/-- Interval k is faulty, and what made it so first stands (R281). -/
def Line.markFault (l : Line) (kid k : Nat) (v : Verdict) : Line :=
  if (l.faultAt kid k).isSome then l else { l with faulty := Tbl.set l.faulty (faultKey kid k) v }

/-- Replace the holders of line n and the states of its halves at the host; a new interval begins: the old holders close, the
new ones open at their clocks with the bytes handed on (R271, R274, R275, R292). The first interval of a chain is number 0 and closes nothing. `what` is a unit whose close has a kind of its own. Beneath
a remote copy sub-intervals are numbered from 0 again (R290). A frozen line stays as it is (R395). -/
def State.newIntervalAt (s : State) (n : Nat) (hs : List Holder) (lo hi : HostHalf) (what : Nat × SinterKind) : State :=
  let l := s.line n
  if l.frozen then s
  else
  let value := s.keyedBytes l.kid (n * 128) 128
  let home := s.servingUnit (n * 128)
  let above (h : Holder) : Nat := h.beneath.getD home
  let kids (xs : List Holder) : List Holder := xs.filter (·.beneath.isSome)
  let tops (xs : List Holder) : List Nat := (xs.filter (·.beneath.isNone)).map (·.unit)
  let old := if l.unborn then [] else s.holdersOf n l l.holders value
  let host (a b : HostHalf) : List Nat := if a == .n && b == .n then [] else [bridgeUnit]
  let s1 := (kids old).foldl (fun t h => t.hearClose (above h) h.unit l.events) s
  let s2 := (tops old ++ host l.lo l.hi).foldl (fun t u => t.hearClose home u l.events) s1
  let closes := if l.unborn then [] else
    splitHalves l (old.map fun h => h.record n l (closeKind what h.unit) (s2.clock h.unit).toNat value) ++
      bridgeRecords n l .close (s2.clock bridgeUnit).toNat value
  let now := handedOn l.holders hs value
  let s2' := if now == value then s2 else s2.putValue l.kid n now
  let s3 := (match if l.unborn then none else l.writtenBy old value with
    | some bytes => s2'.lineClosed n l.kid bytes
    | none => s2').tick home
  let l0 : Line := if now == value then l else l.written
  let l1 : Line := { l0 with interval := if l.unborn then 0 else (l.interval + 1) % 2 ^ 32, unborn := false
                             began := (s3.clock home).toNat, value0 := now, lo, hi, subs := [], recorded := s.records? n }
  let s4 := (tops (s.holdersOf n l1 hs now) ++ host lo hi).foldl (fun t u => t.hearOpen home u l1.events) s3
  let s5 := (kids hs).foldl (fun t h => t.hearOpen (above h) h.unit l1.events) s4
  let opened := hs.map fun h => h.open l.holders value now (s5.clock h.unit).toNat
  let l2 : Line := { l1 with holders := opened }
  let opens := splitHalves l2 ((s5.holdersOf n l2 opened now).map fun h => h.record n l2 .opened 0 now) ++ bridgeRecords n l2 .opened 0 now
  (s5.changeLine n fun x => { l2 with dkid := x.dkid, dgen := x.dgen }).keepRecords
    ((if l.recorded then closes else []) ++ if l2.recorded then opens else [])

/-- Replace the holders of line n, the host's halves staying as they are. -/
def State.newInterval (s : State) (n : Nat) (hs : List Holder) (what : Nat × SinterKind) : State :=
  s.newIntervalAt n hs (s.line n).lo (s.line n).hi what

/-- The holders beneath a remote copy change: their group closes and opens under the next sub-interval number (R290). -/
def State.newSub (s : State) (n r : Nat) (hs : List Holder) (what : Nat × SinterKind) : State :=
  let l := s.line n
  if l.frozen then s
  else
  let value := s.keyedBytes l.kid (n * 128) 128
  let below (xs : List Holder) : List Holder := xs.filter (·.beneath == some r)
  let s1 := (below l.holders).foldl (fun t h => t.hearClose r h.unit l.events) s
  let closes := splitHalves l ((below l.holders).map fun h => h.record n l (closeKind what h.unit) (s1.clock h.unit).toNat value)
  let now := handedOn (below l.holders) (below hs) value
  let s2 := (if now == value then s1 else s1.putValue l.kid n now).tick r
  let s3 := (below hs).foldl (fun t h => t.hearOpen r h.unit l.events) s2
  let opened := hs.map fun h => if h.beneath == some r then h.open l.holders value now (s3.clock h.unit).toNat else h
  let l0 : Line := if now == value then l else l.written
  let l1 : Line := { l0 with holders := opened, subs := Tbl.set l.subs r ((Tbl.getD l.subs r 0 + 1) % 2 ^ 20) }
  let opens := splitHalves l1 ((below opened).map fun h => h.record n l1 .opened 0 now)
  (s3.changeLine n fun x => { l1 with dkid := x.dkid, dgen := x.dgen }).keepRecords (if l.recorded then closes ++ opens else [])

/-- Units and states of the holders that the home knows. -/
def topsOf (hs : List Holder) : List (Nat × Moesi) := (hs.filter (·.beneath.isNone)).map fun h => (h.unit, h.st)

/-- Units and states of the holders beneath a remote copy. -/
def belowOf (hs : List Holder) (r : Nat) : List (Nat × Moesi) := (hs.filter (·.beneath == some r)).map fun h => (h.unit, h.st)

/-- A remote copy holds the line with PERM W while a copy beneath it may write, and with PERM R otherwise (R290); `home` is the line's own
slice. -/
def lowered (home : Nat) (hs : List Holder) : List Holder :=
  hs.map fun h =>
    if isSlice h.unit && h.unit != home && h.beneath.isNone && h.st.write && !(hs.any fun k => k.beneath == some h.unit && k.st.write) then
      { h with st := if h.st == .m then .o else .s }
    else h

/-- Replace the holders of line n: a new interval where the home's holders change, else a new sub-interval beneath each remote copy where
something changes (R271, R290). -/
def State.setHolders (s : State) (n : Nat) (hs0 : List Holder) (what : Nat × SinterKind) : State :=
  let l := s.line n
  let hs := lowered (s.homeUnit (n * 128)) hs0
  if topsOf hs != topsOf l.holders then s.newInterval n hs what
  else (((l.holders ++ hs).filterMap (·.beneath)).eraseDups).foldl (fun t r =>
    if belowOf hs r == belowOf l.holders r then t
    else t.newSub n r (((t.line n).holders.filter (·.beneath != some r)) ++ hs.filter (·.beneath == some r)) what) s

/-- The chain of a line under its key ends: the HBM4 controller's last interval closes with a retire record (R293); a chain without an interval
has none. -/
def State.endChain (s : State) (n : Nat) : State :=
  let l := s.line n
  if l.unborn then s
  else
  let value := s.keyedBytes l.kid (n * 128) 128
  let u := s.hbmUnit (n * 128)
  let t := s.hearClose (s.homeUnit (n * 128)) u l.events
  t.keepRecords (if !l.recorded then []
    else (s.holdersOf n l [] value).map fun h => h.record n l .retire (t.clock u).toNat value)

/-- Every copy of line n is dropped, dirty data being written home, and the host's halves are recalled (R289, R291). -/
def State.dropCopies (s : State) (n : Nat) : State :=
  let l := s.line n
  if l.holders.isEmpty && l.lo == .n && l.hi == .n then s else s.newIntervalAt n [] .n .n plainClose

/-- A line starts a chain under a key: its next interval is number 0, and nothing of the old chain is compared with it (R271, R293). Faults of
an older chain under that key are none of its. -/
def State.startChain (s : State) (n kid : Nat) : State :=
  ((s.dropCopies n).endChain n).changeLine n fun x =>
    { x with kid, interval := 0, unborn := true, wrote := 0, prior := 0, holders := [], subs := [], lo := .n, hi := .n
             faulty := x.faulty.filter fun y => y.1 / 2 ^ 32 != kid }

/-- A fill under another key ends the chain of the old one and starts a new one; after a cold start the chain under key 0 is at interval 0
already (R271, R293). -/
def State.chain (s : State) (n kid : Nat) : State :=
  if !enciphered (n * 128) || (s.line n).kid == kid then s else s.startChain n kid

/-! ## Access to a line (R289-R291) -/

/-- Recall the host's halves that a device access touches (R291). A holder that lacks a half that the host held HM lets go of the line, but
for those of `keep`, which are filled again (log 85). -/
def State.recallHost (s : State) (keep : List Nat) (pa len : Nat) (write : Bool) : State :=
  let n := pa / 128
  let l := s.line n
  let f (touched : Bool) (h : HostHalf) : HostHalf :=
    if !touched then h
    else match h with
      | .n => .n
      | .hs => if write then .n else .hs
      | .hm => if write then .n else .hs
  let lo := f (decide (pa % 128 < 64)) l.lo
  let hi := f (decide (pa % 128 + len > 64)) l.hi
  let taken := (l.lo == .hm && lo != .hm) || (l.hi == .hm && hi != .hm)
  if lo == l.lo && hi == l.hi then s
  else s.newIntervalAt n (if taken then l.holders.filter fun h => keep.contains h.unit else l.holders) lo hi plainClose

/-- The unit that holds a line beneath a remote copy for a cluster (R290, R300), when the line is homed elsewhere. -/
def State.remoteUnit (s : State) (cluster pa : Nat) : Option Nat :=
  if regionOf pa == .device && s.homeOfPa pa != cluster / 32 then
    some (512 + 128 * (cluster / 32) + 4 * (cluster % 32) + natBits pa 8 7)
  else none

/-- Unit u lets go of line n, with what lies beneath it (R289, R290). -/
def State.release (s : State) (u n : Nat) (kind : SinterKind) : State :=
  let l := s.line n
  if !l.holders.any (·.unit == u) then s
  else s.setHolders n (l.holders.filter fun h => h.unit != u && h.beneath != some u) (u, kind)

/-! ### Room in a cache (R11, R12) -/

/-- A core holds line n in a window of a crew, or in one whose SUNMAP is still to be performed; a slice counts where the core's copy lies
beneath it (R125, R126, R290). -/
def State.windowHolds (s : State) (u n : Nat) : Bool :=
  let under (core : Nat) : Bool := (s.line n).holders.any fun h => h.unit == core && (h.unit == u || h.beneath == some u)
  (s.crews.any fun c => under c.core && c.windows.toList.any fun w => w.any (·.lines.contains n)) ||
    s.parties.any fun p => under p.core && p.pend.any fun e => match e.kind with
      | .sunmap _ => e.accs.any fun a => a.pa / 128 == n
      | _ => false

/-- A load that has been performed in some of its lanes only still reads line n from the copy of unit u, or from one beneath it (R119). -/
def State.halfRead (s : State) (u n : Nat) : Bool :=
  s.parties.any fun p => (p.core == u || (s.line n).holders.any fun h => h.unit == p.core && h.beneath == some u) &&
    p.pend.any fun e => (e.past.any fun a => a.pa / 128 == n) && e.accs.any fun a => a.pa / 128 == n

/-- A cache may let go of line n: a frozen copy, a pinned line, a line of a window, one that a load is reading, and one whose home serves no
request in a relock stay (R119, R125, R193, R308, R395). -/
def State.evictable (s : State) (u n : Nat) : Bool :=
  !(s.line n).frozen && (s.line n).pinned.isEmpty && !s.windowHolds u n && !s.halfRead u n &&
    !(regionOf (n * 128) == .device && (s.die (s.homeOfPa (n * 128))).busy)

/-- Lines that a cache holds: an L1 has what the stash leaves of 384 KiB, an L2 slice 1 MiB (R11, R12). -/
def State.cacheLines (s : State) (u : Nat) : Nat := if u < 512 then (384 - 64 * (s.core u).split) * 8 else 8192

/-- The lines of unit u: those of a core's windows lie in its stash and not in its L1 (R12, R125). -/
def State.residents (s : State) (u : Nat) : List Nat :=
  (s.lines.filter fun x => x.2.holders.any (·.unit == u) && !(u < 512 && s.windowHolds u x.1)).map (·.1)

/-- A cache has no place for line n. -/
def State.cacheFull (s : State) (u n : Nat) : Bool :=
  decide (u < 1024) && !(s.line n).holders.any (·.unit == u) && decide (s.cacheLines u ≤ (s.residents u).length)

/-- Unit u lets go of k lines, which ones is open (R289, log 13). Where every line is one that it should keep, it lets go of one that is not
frozen all the same, and what lies beneath is recalled. -/
def State.evict (s : State) (u : Nat) : Nat → State
  | 0 => s
  | k + 1 =>
    let all := s.residents u
    let free := all.filter (s.evictable u)
    let old := if free.isEmpty then all.filter fun n => !(s.line n).frozen else free
    match old[Config.pick s.fresh % Nat.max 1 old.length]? with
    | some v => ({ s with fresh := s.fresh + 1 }.release u v .close).evict u k
    | none => s

/-- A full cache lets go of lines before it takes another (R12). -/
def State.makeRoom (s : State) (u n : Nat) : State :=
  if s.cacheFull u n then s.evict u ((s.residents u).length + 1 - s.cacheLines u) else s

/-- A cache that the stash has taken storage from keeps what it has place for (R12). -/
def State.fitCache (s : State) (u : Nat) : State := s.evict u ((s.residents u).length - s.cacheLines u)

/-- Count a data transfer from a home slice to a unit on die d (R301); host memory has no home slice (R298). -/
def State.countFill (s : State) (pa d : Nat) : State :=
  if regionOf pa != .device then s
  else
    let home := s.homeOfPa pa
    s.changeDie d fun x =>
      let (_, l, r) := if x.arrived.1 == x.cycr then x.arrived else (0, 0, 0)
      if home == d then { x with locfill := x.locfill + 1, arrived := (x.cycr, l + 1, r) }
      else { x with remfill := x.remfill + 1, arrived := (x.cycr, l, r + 1) }

/-- Holders beneath remote copies that a new group at the home leaves: those of a remote copy that stays, as readers where it may no longer
write (R290). -/
def belowAfter (g below : List Holder) : List Holder :=
  below.filterMap fun h => match g.find? fun t => h.beneath == some t.unit with
    | some t => some (if t.st.write then h else { h with st := .s })
    | none => none

/-- Unit u on a die takes the line of pa for reading or writing: recall at the host, chain change, the group at the home and
the group beneath a remote copy (R288-R291), after room is made for it (R12), and the data transfer it causes (R301): a half that comes back from
the host modified is data, and so is what another unit's M or O copy forwards, which the spec gives no sender of its own (DESIGN CHOICE, log
100). With `dual` nothing else is invalidated (R287). -/
def State.holdBy (s : State) (u : Nat) (remote : Option Nat) (die pa len kid : Nat) (write dual : Bool) : State :=
  let n := pa / 128
  let s00 := (remote.toList.foldl (fun t r => t.makeRoom r n) (s.makeRoom u n)).chain n kid
  let s0 := s00.recallHost (u :: remote.toList) pa len write
  let l := s0.line n
  let was := s00.line n
  let refilled := (was.lo == .hm && l.lo != .hm) || (was.hi == .hm && l.hi != .hm)
  let shared := l.lo != .n || l.hi != .n || isEngine u
  let tops := l.holders.filter (·.beneath.isNone)
  let kids (r : Nat) := l.holders.filter (·.beneath == some r)
  let give (hs : List Holder) (v : Nat) (b : Option Nat) (sh : Bool) := if dual then grantDual hs v b else grant hs v b write sh
  let had (v : Nat) : Bool := l.holders.any (·.unit == v)
  let home := s0.servingUnit pa
  let sent (t : State) (v : Nat) : State := if !had v || refilled then t.countFill pa die else t
  match remote with
  | none =>
    let (g, ch) := give tops u none shared
    if ch then
      sent ((s0.message u home).newInterval n (lowered (s0.homeUnit pa) (g ++ belowAfter g (l.holders.filter (·.beneath.isSome)))) plainClose) u
    else
      let t := s0.changeLine n fun x => { x with holders := g ++ x.holders.filter (·.beneath.isSome) }
      if refilled then sent t u else t
  | some r =>
    let (g, ch) := give tops r none shared
    let w := (g.find? (·.unit == r)).any (·.st.write)
    let data := ((g.find? (·.unit == r)).bind (·.own))
    let (k0, chk) := give (kids r) u (some r) (!w)
    let k := k0.map fun h => if had h.unit then h else { h with own := data }
    let rest := belowAfter g (l.holders.filter fun h => h.beneath.isSome && h.beneath != some r)
    let hs := lowered (s0.homeUnit pa) (g ++ k ++ rest)
    if ch || topsOf hs != topsOf g then sent (((s0.message u r).message r home).newInterval n hs plainClose) r
    else
      let t := if chk then (s0.message u r).newSub n r hs plainClose
        else s0.changeLine n fun x => { x with holders := hs }
      if refilled then sent t r else t

/-- Unit u of a cluster takes the line of pa, beneath the cluster's remote copy where the line is homed elsewhere (R290). -/
def State.hold (s : State) (u cluster pa len kid : Nat) (write : Bool) : State :=
  s.holdBy u (s.remoteUnit cluster pa) (cluster / 32) pa len kid write false

/-- Unit u drops its dirty copy of line n and nothing is written: the line's value is what its home holds, given by bytes and poisoned elements
(R126, R237, R378). -/
def State.discardLine (s : State) (u n : Nat) (home : List Byte) (bad : List Nat) : State :=
  let t := s.writeBytes (s.line n).kid (n * 128) home
  ({ t with poison := sortBy (fun a b => decide (a ≤ b)) ((t.poison.filter fun e => e / 32 != n) ++ bad) }).release u n .discard

/-- Copies of line n that a test picks are left clean (CMO clean, R289). -/
def State.cleanCopies (s : State) (n : Nat) (test : Holder → Bool) : State :=
  let l := s.line n
  let hs := l.holders.map fun h =>
    if !test h then h
    else match h.st with
      | .m => { h with st := .e }
      | .o => { h with st := .s }
      | _ => h
  s.setHolders n hs plainClose

/-- A window's line is written home if it is dirty, past the remote copy that the core's copy lies beneath, and the stash lets go of it (R126,
R290). -/
def State.homeLine (s : State) (u n : Nat) : State :=
  let above := ((s.line n).holders.filter (·.unit == u)).filterMap (·.beneath)
  (s.cleanCopies n fun h => h.unit == u || above.contains h.unit).release u n .close

/-- Every line of a window (R126). -/
def State.homeWindow (s : State) (u : Nat) (x : Window) : State := x.lines.foldl (fun t n => t.homeLine u n) s

/-- A copy x of line n is the copy that unit u reads, or the remote copy that u's copy lies beneath (R290). -/
def copyUnits (u n x : Nat) : Bool :=
  x == u || (u < 512 && x == 512 + 128 * (u / 128) + 4 * (u / 4 % 32) + natBits (n * 128) 8 7)

/-- The caches a CMO level acts on, by unit, for a core (R256). -/
def cmoUnits (level core unit : Nat) : Bool :=
  match level with
  | 0 => unit == core
  | 1 => if unit < 512 then unit / 4 == core / 4 else isSlice unit && (unit - 512) / 4 == core / 4
  | 2 => unit < 1024 && (unit % 512) / 128 == core / 128
  | _ => unit < 1024

/-- CMO on one line under its key (R244, R256): its copies are left clean or dropped. A page of MT 01 holds no cached line. -/
def State.cmoLine (s : State) (core : Nat) (op : CmoOp) (level n kid : Nat) : State :=
  let l := s.line n
  let s0 := if level == 4 && regionOf (n * 128) == .device then s.recallHost (l.holders.map (·.unit)) (n * 128) 128 true else s
  if enciphered (n * 128) && l.kid != kid then s
  else match op with
    | .clean => s0.cleanCopies n fun h => cmoUnits level core h.unit
    | .inv | .clinv =>
      let l := s0.line n
      let gone := l.holders.filter fun h => cmoUnits level core h.unit
      if gone.isEmpty then s0
      else s0.setHolders n (l.holders.filter fun h => !(gone.any fun g => g.unit == h.unit || h.beneath == some g.unit)) plainClose

/-- CMO.LSALV on one line (R257): a line of a failed home die is opened, under the key of the range's page, to supervisor loads (R256); others
are cleaned as at level 3. -/
def State.salvageLine (s : State) (core n kid : Nat) : State :=
  if regionOf (n * 128) == .device && (s.die (s.homeOfPa (n * 128))).failed then
    s.changeLine n fun l => { l with salvaged := insertNat kid l.salvaged }
  else s.cmoLine core .clean 3 n kid

/-! ## Accesses at the home (R122, R250, R280) -/

/-- What an access of a line leaves known of it: the time of the unit that performed it, the line's interval, and the interval in which the
line had last been written (R270, R281, R310). -/
structure Reached where
  time : Nat
  ival : Nat
  last : Nat
  deriving DecidableEq, Repr

/-- The line as an access finds it, at the clock of a unit. -/
def State.reached (s : State) (u n : Nat) : Reached :=
  { time := (s.clock u).toNat, ival := (s.line n).interval, last := (s.line n).wrote }

/-- A store changes line n in its present interval (R310). -/
def State.noteWrite (s : State) (n : Nat) : State := s.changeLine n (·.written)

/-- An access of unit u at the unit that serves a line: uncached accesses, atomics of wide scope, firmware and peers (R122, R250, R280). A
read leaves M, O and E copies S; a write drops every copy. It is an interval of zero length of the serving unit, numbered as any other (log 20);
`act` is what the access does to the bytes within it. `whole` recalls both halves that the host holds (R250). -/
def State.atHome (s : State) (u pa len kid : Nat) (write whole : Bool) (act : State → State) : State × Reached :=
  let n := pa / 128
  if regionOf pa != .device && regionOf pa != .host then (act s, s.reached u n)
  else
    let home := s.servingUnit pa
    let t0 := (s.message u home).chain n kid
    let t := if whole then t0.recallHost [] (n * 128) 128 write else t0.recallHost [] pa len write
    let kept := if write then [] else ((t.line n).holders.filter (·.unit != home)).map fun h => { h with st := .s }
    let t1 := (t.newInterval n (.fresh home none (if write then .m else .s) :: kept) plainClose).tick home
    let r := t1.reached home n
    let t2 := act t1
    ((t2.setHolders n ((t2.line n).holders.filter (·.unit != home)) (home, .atomic)).message home u, r)

/-! ## Page tables (R272, R356, R360) -/

/-- The vent core that takes an event: any idle one of the twelve, which R323 leaves open (log 5, 30). -/
def State.ventPick (s : State) : Nat :=
  ((List.range 4).foldl (fun n k => 2 * n + (Config.freeBit [7, s.fresh, k]).toNat) 0) % 12

/-- A vent core reads an entry at its home slice (R272). -/
def State.tableRead (s : State) (pa : Nat) : State := ((s.tick (ventUnit s.ventPick)).atHome (ventUnit s.ventPick) pa 8 0 false false id).1

/-- An entry is changed at its home slice, for unit u (R272, R356). -/
def State.tableChange (s : State) (u pa : Nat) (f : BitVec 64 → BitVec 64) : State :=
  (s.atHome u pa 8 0 true false fun t => (t.writeEntry pa (f (t.entryAt pa))).noteWrite (pa / 128)).1

/-- A vent core writes an entry (R272, R360). -/
def State.tableWrite (s : State) (pa : Nat) (f : BitVec 64 → BitVec 64) : State :=
  (s.tick (ventUnit s.ventPick)).tableChange (ventUnit s.ventPick) pa f

/-- The entry of a VA at a level takes A, and D for a write, by an atomic OR for unit u; where it has them, or is gone, nothing is written
(R356). -/
def State.markUsed (s : State) (u asid level va : Nat) (write : Bool) : State :=
  let bits : BitVec 64 := 0x40 ||| (if write then 0x80 else 0)
  match s.slotOf asid level va with
  | some pa => if s.entryAt pa &&& bits == bits then s else s.tableChange u pa (· ||| bits)
  | none => s

/-- What an access that passed its checks leaves behind: A, and D for a write, in the entry (R356), and its entry in the TLBs of
the core, of 128 data and 32 instruction entries, and of the cluster, of 4096 (R11, R359). -/
def State.noteAccess (s : State) (p : Party) (k : Acc) (va : Nat) (t : Trans) : State :=
  let wr := k == .store || k == .atomic
  let e := t.pte ||| 0x40 ||| (if wr then 0x80 else 0)
  let owner := s.leafOwner p k va
  let s1 := if e == t.pte then s else s.markUsed p.core owner t.level va wr
  let ent : TlbEntry := { asid := owner, part := p.part, level := t.level, vpn := va / 2 ^ leafShift t.level, pte := e }
  let s2 := s1.changeCluster p.cluster fun c => { c with tlb := tlbWith c.tlb p va ent 4096 }
  s2.changeCore p.core fun c =>
    if k == .fetch then { c with itlb := tlbWith c.itlb p va ent 32 } else { c with tlb := tlbWith c.tlb p va ent 128 }

/-- Move a leaf to a die (R258, R302): copies are written home and dropped, each line's interval passes from the old
controller to the new one, and every leaf of the partition over the extent is rewritten and leaves the TLBs. -/
def State.moveLeaf (s : State) (part : Fin 4) (asid va die : Nat) : State :=
  match s.walk asid va with
  | .error _ => s
  | .ok (level, e) =>
    if ptePl e == 1 && pteHd e == die then s
    else
      let pa := ptePa e
      let size := 2 ^ leafShift level
      let moved := (rangeFrom (pa / 128) 1 (size / 128)).foldl (fun t n =>
        let t1 := t.dropCopies n
        let old := t1.hbmUnit (n * 128)
        let t2 := t1.newInterval n [] plainClose
        let k := (t2.line n).interval
        let unit := 1024 + 2 * die + sliceOf (n * 128) / 64
        let rename (r : Sinter) : Sinter :=
          if r.line == n && r.interval == k && r.kind == .opened && r.unit == old then { r with unit } else r
        { t2 with records := t2.records.map rename }) s
      let mine (x : BitVec 64) (l : Nat) : Bool := ptePa x == pa && l == level
      let repl (x : BitVec 64) : BitVec 64 :=
        (x &&& ~~~(0x30000000000C00 : BitVec 64)) ||| 0x400 ||| BitVec.ofNat 64 (die * 2 ^ 52)
      let slots := (s.spaces.filter fun x => x.2.part == part).flatMap fun x =>
        (s.leavesUnder x.2.root 0 5).filter fun y => mine y.2.2.1 y.1
      (slots.foldl (fun t y => t.tableWrite y.2.2.2 repl) moved).dropTlb fun t =>
        t.part == part && mine t.pte t.level

/-- The home slice takes a line itself, with PERM W for a new interval (R287). -/
def State.takeHome (s : State) (u pa kid : Nat) : State :=
  let n := pa / 128
  let home := s.servingUnit pa
  let t := ((s.message u home).chain n kid).recallHost [] (n * 128) 128 true
  t.newInterval n [.fresh home none .m] plainClose

/-- Bytes a unit reads: its own copy where that differs, else the line's value under the key (R366). -/
def State.readAs (s : State) (u kid a len : Nat) : List Byte :=
  match (s.line (a / 128)).holders.find? (·.unit == u) with
  | some h => match h.own with
    | some bs => (bs.drop (a % 128)).take len
    | none => s.keyedBytes kid a len
  | none => s.keyedBytes kid a len

/-- Note that a party read from unit u's copy of line n at a time (R274, R281). -/
def State.noteUse (s : State) (u n : Nat) (who : Ident) (t : Nat) : State :=
  let note (h : Holder) : Holder :=
    if h.unit != u then h
    else { h with loaded := true, readers := if h.readers.any (·.1 == who) then h.readers else (who, t) :: h.readers }
  s.changeLine n fun l => { l with holders := l.holders.map note }

/-- A W holder's own store changes its copy: where that differs from the line's value it stays so in the other bytes (R289). -/
def State.writeOwn (s : State) (u kid a : Nat) (bs : List Byte) : State :=
  let put (old : List Byte) : List Byte := old.take (a % 128) ++ bs ++ old.drop (a % 128 + bs.length)
  (s.writeBytes kid a bs).changeLine (a / 128) fun l =>
    { l.written with holders := l.holders.map fun h => if h.unit == u then { h with own := h.own.map put } else h }

end Sys2Proof.Machine
end

