-- ==== Sys2Proof/Machine/Float.lean ====
section
/-! DEFINITION. Floating-point values, the one rounding step and the basic operations (R139-R146, R168-R172, R176, R177). An
operation is computed exactly on integers with a power of two, then rounded once. -/

namespace Sys2Proof.Machine

open Sys2Proof

/-- A binary format: exponent bits, fraction bits, bias (R139). -/
structure Fmt where
  eb : Nat
  fb : Nat
  bias : Int
  deriving DecidableEq, Repr

/-- FP32. -/
def f32 : Fmt := { eb := 8, fb := 23, bias := 127 }
/-- FP16. -/
def f16 : Fmt := { eb := 5, fb := 10, bias := 15 }
/-- BF16. -/
def bf16 : Fmt := { eb := 8, fb := 7, bias := 127 }

/-- A decoded value: NaN, an infinity, or (-1)^neg * m * 2^e. -/
inductive FVal where
  | nan
  | inf (neg : Bool)
  | fin (neg : Bool) (m : Nat) (e : Int)
  deriving DecidableEq, Repr

/-- Bits of infinity without the sign. -/
def Fmt.infBits (f : Fmt) : Nat := (2 ^ f.eb - 1) * 2 ^ f.fb

/-- The canonical NaN (R141). -/
def Fmt.nanBits (f : Fmt) : Nat := f.infBits + 2 ^ (f.fb - 1)

/-- Sign bit of a format. -/
def Fmt.signBit (f : Fmt) : Nat := 2 ^ (f.eb + f.fb)

/-- Decode the bits of a format (R139). -/
def Fmt.decode (f : Fmt) (bits : Nat) : FVal :=
  let frac := bits % 2 ^ f.fb
  let ex := bits / 2 ^ f.fb % 2 ^ f.eb
  let neg := bits / f.signBit % 2 == 1
  if ex == 2 ^ f.eb - 1 then (if frac == 0 then .inf neg else .nan)
  else if ex == 0 then .fin neg frac (1 - f.bias - f.fb)
  else .fin neg (2 ^ f.fb + frac) (Int.ofNat ex - f.bias - f.fb)

/-- Bits with a sign. -/
def Fmt.signed (f : Fmt) (neg : Bool) (mag : Nat) : Nat := if neg then f.signBit + mag else mag

/-- Whether a mode rounds the magnitude n + (rest)/unit up; `low` compares the discarded part with half a unit, `any` says
that it is not 0 (R143). -/
def roundsUp (r : Rnd) (neg : Bool) (n : Nat) (low : Ordering) (any : Bool) : Bool :=
  match r with
  | .rne => low == .gt || (low == .eq && n % 2 == 1)
  | .rz => false
  | .rd => neg && any
  | .ru => !neg && any

/-- The discarded part of m at a shift, against half a unit; `sticky` says that a nonzero part below m was dropped before. -/
def cut (m sh : Nat) (sticky : Bool) : Nat × Ordering × Bool :=
  let n := m / 2 ^ sh
  let rest := m % 2 ^ sh
  let low := if sh == 0 then (if sticky then .lt else .lt)
    else match compare rest (2 ^ (sh - 1)) with
      | .eq => if sticky then .gt else .eq
      | c => c
  (n, low, rest != 0 || sticky)

/-- The rounding step: (-1)^neg * (m, plus less than one unit of it when sticky) * 2^e into a format, with its flags
(R143-R145). -/
def Fmt.round (f : Fmt) (r : Rnd) (neg : Bool) (m : Nat) (e : Int) (sticky : Bool) : Nat × BitVec 32 :=
  if m == 0 && !sticky then (f.signed neg 0, 0)
  else
    let top : Int := e + Int.ofNat (Nat.log2 m)
    let emin : Int := 1 - f.bias
    let q : Int := max top emin - f.fb
    let (n, low, any) :=
      if e ≥ q then (m * 2 ^ (e - q).toNat, Ordering.lt, sticky) else cut m (q - e).toNat sticky
    let n1 := if roundsUp r neg n low any then n + 1 else n
    let biased := (q + f.fb + f.bias).toNat
    let mag := (biased - 1) * 2 ^ f.fb + n1
    if mag ≥ f.infBits then
      let big := f.infBits - 1
      let res := match r with
        | .rne => f.infBits
        | .rz => big
        | .rd => if neg then f.infBits else big
        | .ru => if neg then big else f.infBits
      (f.signed neg res, flagOVF ||| flagINX)
    else (f.signed neg mag, flagIf any flagINX ||| flagIf (any && decide (mag < 2 ^ f.fb)) flagUNF)

/-- Round a value that may be special: NaN is canonical, an infinity stays (R141). -/
def Fmt.finish (f : Fmt) (r : Rnd) (v : FVal) : Nat × BitVec 32 :=
  match v with
  | .nan => (f.nanBits, 0)
  | .inf neg => (f.signed neg f.infBits, 0)
  | .fin neg m e => f.round r neg m e false

/-- Invalid: the canonical NaN with INV (R142). -/
def Fmt.invalid (f : Fmt) : Nat × BitVec 32 := (f.nanBits, flagINV)

/-- Signed integer of a magnitude. -/
def signInt (neg : Bool) (m : Nat) : Int := if neg then -(Int.ofNat m) else Int.ofNat m

/-- Exact sum of two finite values; an exact zero takes its sign under R144. -/
def exactAdd (r : Rnd) (na : Bool) (ma : Nat) (ea : Int) (nb : Bool) (mb : Nat) (eb : Int) : FVal :=
  let e := min ea eb
  let x := signInt na (ma * 2 ^ (ea - e).toNat) + signInt nb (mb * 2 ^ (eb - e).toNat)
  if x == 0 then .fin (if ma == 0 && mb == 0 && na == nb then na else r == .rd) 0 e
  else .fin (decide (x < 0)) x.natAbs e

/-- a + b, rounded once. -/
def Fmt.add (f : Fmt) (r : Rnd) (a b : FVal) : Nat × BitVec 32 :=
  match a, b with
  | .nan, _ | _, .nan => (f.nanBits, 0)
  | .inf x, .inf y => if x == y then (f.signed x f.infBits, 0) else f.invalid
  | .inf x, _ | _, .inf x => (f.signed x f.infBits, 0)
  | .fin na ma ea, .fin nb mb eb => f.finish r (exactAdd r na ma ea nb mb eb)

/-- The opposite. -/
def FVal.neg : FVal → FVal
  | .nan => .nan
  | .inf n => .inf (!n)
  | .fin n m e => .fin (!n) m e

/-- Exact product, none for 0 * inf. -/
def FVal.mul (a b : FVal) : Option FVal :=
  match a, b with
  | .inf x, .inf y => some (.inf (x != y))
  | .inf x, .fin y m _ => if m == 0 then none else some (.inf (x != y))
  | .fin x m _, .inf y => if m == 0 then none else some (.inf (x != y))
  | .fin x ma ea, .fin y mb eb => some (.fin (x != y) (ma * mb) (ea + eb))
  | _, _ => some .nan

/-- a * b, rounded once. -/
def Fmt.mul (f : Fmt) (r : Rnd) (a b : FVal) : Nat × BitVec 32 :=
  match a.mul b with
  | none => f.invalid
  | some v => f.finish r v

/-- a * b + c with one rounding; a product 0 * inf is invalid even beside a NaN (R168). -/
def Fmt.fma (f : Fmt) (r : Rnd) (a b c : FVal) : Nat × BitVec 32 :=
  match a.mul b with
  | none => f.invalid
  | some p => f.add r p c

/-- FP32 value of a word. -/
def dec32 (w : Word) : FVal := f32.decode w.toNat

/-- A result as a word. -/
def asWord (x : Nat × BitVec 32) : Word × BitVec 32 := (BitVec.ofNat 32 x.1, x.2)

/-- FADD (R168). -/
def fadd32 (r : Rnd) (a b : Word) : Word × BitVec 32 := asWord (f32.add r (dec32 a) (dec32 b))
/-- FSUB (R168). -/
def fsub32 (r : Rnd) (a b : Word) : Word × BitVec 32 := asWord (f32.add r (dec32 a) (dec32 b).neg)
/-- FMUL (R168). -/
def fmul32 (r : Rnd) (a b : Word) : Word × BitVec 32 := asWord (f32.mul r (dec32 a) (dec32 b))
/-- FFMA (R168). -/
def ffma32 (r : Rnd) (a b c : Word) : Word × BitVec 32 := asWord (f32.fma r (dec32 a) (dec32 b) (dec32 c))

end Sys2Proof.Machine
end

