-- ==== Sys2Proof/Machine/Order.lean ====
section
/-! DEFINITION. The memory model: which outstanding access must be performed before which (R224-R228), performing loads,
stores and atomics (R223, R225, R248-R250), releases held for checking (R279), and the write-back of long results (R56). -/

namespace Sys2Proof.Machine

open Sys2Proof

/-! ## Scopes (R221) -/

/-- What a scope may include: gangs and threads, engine jobs, vent cores, the host and the peers (R221). -/
inductive Agent where
  | party (p : Party)
  | job (j : Job)
  | vent (n : Nat)
  | host
  | peer (port : Nat)
  deriving DecidableEq, Repr

/-- The cluster an agent stands in; an engine job stands in its engine's, whatever the die of its footprint (R221). -/
def Agent.cluster : Agent → Option Nat
  | .party p => some p.cluster
  | .job j => some j.cluster
  | .vent _ | .host | .peer _ => none

/-- The partition of an agent on a compute die. -/
def State.agentPart (s : State) (a : Agent) : Option (Fin 4) :=
  a.cluster.bind fun c => (List.finRange 4).find? fun p => s.parts[p].dies.getLsbD (c / 32)

/-- Gangs of one crew. -/
def Party.sameCrew (p q : Party) : Bool :=
  !p.isThread && !q.isThread && q.bundle == p.bundle && q.stage == p.stage && q.crew == p.crew

/-- b lies in the scope of a with respect to a partition's parties, the vent cores among them: every vent core serves every partition
(R221, log 30). -/
def State.inDevice (s : State) (a b : Agent) : Bool :=
  match a, b with
  | .vent _, .vent _ => true
  | .vent _, _ => (s.agentPart b).isSome
  | _, .vent _ => (s.agentPart a).isSome
  | _, _ => (s.agentPart a).isSome && s.agentPart a == s.agentPart b

/-- Agent b lies in a scope of agent a (R221): relaxed words, which name none, include the issuer only. -/
def State.inScope (s : State) (sc : Scope) (a b : Agent) : Bool :=
  match sc with
  | .none | .gang => a == b
  | .crew => a == b || (match a, b with | .party p, .party q => p.sameCrew q | _, _ => false)
  | .clu => a == b || (a.cluster.isSome && a.cluster == b.cluster)
  | .die => a == b || (a.cluster.isSome && a.cluster.map (· / 32) == b.cluster.map (· / 32))
  | .dev => a == b || s.inDevice a b
  | .sys => a == b || s.inDevice a b || (match b with | .host | .peer _ => true | _ => match a with | .host | .peer _ => true | _ => false)

/-- A scope includes both parties of a pair (R221). -/
def State.inScopeBoth (s : State) (sc : Scope) (a b : Agent) : Bool := s.inScope sc a b && s.inScope sc b a

/-! ## Order among one party's accesses -/

/-- Two spans of memory share a byte. -/
def overlaps (a la b lb : Nat) : Bool := decide (a < b + lb) && decide (b < a + la)

/-- Two outstanding words touch a common byte; MON touches its whole line (R253). -/
def Pend.meets (x y : Pend) : Bool :=
  x.accs.any fun a => y.accs.any fun b =>
    if x.kind == .mon then a.pa / 128 == b.pa / 128 else overlaps a.pa a.len b.pa b.len

/-- An acquire (R228). -/
def Pend.isAcquire (e : Pend) : Bool :=
  match e.kind with
  | .load .. | .atomic .. | .mqget .. => e.ord
  | _ => false

/-- A scope of cluster or wider (R225, R250). -/
def Scope.wide : Scope → Bool
  | .clu | .die | .dev | .sys => true
  | _ => false

/-- A load that may take its bytes from its own party's or crew's stores before they are performed (R225): none of an uncached or
write-combined page, which returns what the home or the register window holds (R122). -/
def Pend.forwards (e : Pend) : Bool :=
  (e.accs.all fun a => a.mt != 1 && a.mt != 2) && match e.kind with
  | .load .. => !(e.ord && Scope.wide e.scope)
  | .sld .. | .vfill .. | .refill | .mon => true
  | _ => false

/-- The fence that a word acts as: a FENCE, or an ordered word that issued with no active lane (R228, R229). -/
def Pend.fenceKind (e : Pend) : Option FenceKind :=
  let bare := e.ord && e.accs.isEmpty && e.past.isEmpty
  match e.kind with
  | .fence k => some k
  | .store .. => if bare then some .rel else none
  | .load .. => if bare then some .acq else none
  | .atomic .. => if bare then some .ar else none
  | .mqput .. => if e.ord && e.active == 0 then some .rel else none
  | .mqget .. => if e.ord && e.active == 0 then some .acq else none
  | _ => none

/-- A release whose scope is no wider than the crew: what its crew sees early is ordered for every observer in its scope (R225, R228, R231). A
party outside the scope may see it first, as R245's row on scopes that are too narrow allows; so R226's store order does not hold it behind
such a store (log 101). -/
def Pend.narrow (e : Pend) : Bool := e.isRelease && !Scope.wide e.scope

/-- A system-scope release, which orders peer accesses (R236). -/
def Pend.sysRelease (e : Pend) : Bool := e.isRelease && e.scope == .sys

/-- Touches peer memory (R236, R358). -/
def Pend.toPeer (e : Pend) : Bool := (e.accs ++ e.past).any fun a => regionOf a.pa == .peer

/-- Every part lies on write-combined pages, whose stores keep no order among themselves (R122, R226). -/
def Pend.combined (e : Pend) : Bool := !e.accs.isEmpty && e.accs.all (·.mt == 2)

/-- A communication that a release fence before it orders (R231): a store, an atomic, an arrival or an MQPUT. -/
def Pend.sends (e : Pend) : Bool := e.writes || match e.kind with | .mqput .. => true | _ => false

/-- Whether x, earlier in program order, must be performed before y is (R224, R226, R228, R229, R236, R253); of one DWACC, the slot stores
come before the descriptor's (R137). A load follows its own party's store to the location, once that is in the L1 (R224, R276). A release of
crew scope or narrower waits for no store that its crew sees already (R231, R245). -/
def mustPrecede (x y : Pend) : Bool :=
  let same := x.meets y && !(x.early != 0 && y.forwards)
  let stores := match x.kind, y.kind with
    | .store _ true, .store _ true => !(x.combined && y.combined)
    | _, _ => false
  let commit := match x.kind, y.kind with
    | .store _ false, .store _ false => x.pos == y.pos
    | _, _ => false
  let fx := match x.fenceKind with
    | some .rel => y.sends
    | some _ => true
    | none => false
  let seen := x.accesses || x.fenceKind.isSome
  let fy := match y.fenceKind with
    | some .acq | some .ar => x.reads
    | _ => false
  same || commit || fx || fy || x.isAcquire || (x.sysRelease && y.toPeer) || ((stores || (y.isRelease && seen)) && !(y.narrow && x.early != 0))

/-! ## The view of a load -/

/-- Write one lane part as raw bytes. -/
def State.writeAcc (s : State) (a : LaneAcc) : State := s.writeBytes a.kid a.pa a.data

/-- Slot of a VA in a draft window. -/
def Draft.slot (d : Draft) (va : Nat) : Nat := (va - d.base) / d.slotsz

/-- The crew's draft window when a VA lies in its slot range (R136). -/
def State.draftAt (s : State) (p : Party) (va : Nat) : Option Draft :=
  match s.crewOf p with
  | some c => c.draft.bind fun d => if decide (d.base ≤ va) && decide (va < d.base + d.nslot * d.slotsz) then some d else none
  | none => none

/-- The VA lies in the tentative range (R134). -/
def Draft.tentative (d : Draft) (va : Nat) : Bool :=
  decide (d.c ≤ d.slot va) && decide (d.slot va < Nat.min (d.c + 16) d.nslot)

/-- A draft window after a store of tentative bytes (R136). -/
def Draft.put (d : Draft) (va : Nat) (bs : List Byte) : Draft :=
  { d with bytes := (bs.zipIdx).foldl (fun t (x : Byte × Nat) => Tbl.set t (va + x.2) x.1) d.bytes
           t := Nat.max d.t (d.slot va - d.c + 1) }

/-- A store into the tentative range is held in the crew's stash while its window is open (R136); one whose window has been closed, or whose
slot has been committed meanwhile, has been discarded with it (R137, R239). -/
def State.putTentative (s : State) (p : Party) (a : LaneAcc) : State :=
  let put (d : Draft) : Draft :=
    if decide (d.base ≤ a.va) && decide (a.va < d.base + d.nslot * d.slotsz) && d.tentative a.va then d.put a.va a.data else d
  s.changeCrew p fun c => { c with draft := c.draft.map put }

/-- The bytes of one lane of a store as the party's crew finds them: in the draft window, or in their core's L1. -/
def State.putStore (s : State) (p : Party) (a : LaneAcc) : State :=
  if a.tent then s.putTentative p a else s.writeOwn p.core a.kid a.pa a.data

/-- Tentative bytes of the elements that an access of the crew touches (R136). -/
def State.tentativeAt (s : State) (p : Party) (va len : Nat) : Tbl Byte :=
  match (s.crewOf p).bind (·.draft) with
  | some d => if p.isThread then [] else d.bytes.filter fun x => decide (va / 4 * 4 ≤ x.1) && decide (x.1 < (va + len + 3) / 4 * 4)
  | none => []

/-- Crew-mates' stores that the crew sees early, oldest stamp first (R225). -/
def State.earlyStores (s : State) (p : Party) : List (Nat × LaneAcc) :=
  let mates := s.parties.filter fun q => q.ident != p.ident && s.inScope .crew (.party p) (.party q)
  let all := mates.flatMap fun q => q.pend.flatMap fun e =>
    if e.early != 0 && !e.performed then e.accs.map fun a => (e.early, a) else []
  sortBy (fun x y => decide (x.1 ≤ y.1)) all

/-- The memory a load of a party sees: over memory, the stores that its crew sees early, its own among them (R224, R225). -/
def State.viewOf (s : State) (p : Party) (e : Pend) : State :=
  if !e.forwards then s
  else
    let mates := (s.earlyStores p).map (·.2)
    let own := (p.pend.takeWhile fun x => x.id != e.id).flatMap fun x =>
      match x.kind with
      | .store .. => if x.performed || x.early == 0 then [] else x.accs
      | _ => []
    let hits := (mates ++ own).filter fun a => e.accs.any fun b => overlaps a.pa a.len b.pa b.len
    hits.foldl (fun t a => t.putStore p a) s

/-- Unit whose copy serves a cached access: the core of a gang (R220). -/
def Party.unit (p : Party) : Nat := p.core

/-- Whether an access goes to the home slice rather than through the core's L1: MT 01 and 10, and every access of a thread
(R111, R122). -/
def atHomeAccess (p : Party) (a : LaneAcc) : Bool := p.isThread || a.mt == 1 || a.mt == 2

/-- OP of INJ (R287). -/
def Party.injOp (p : Party) : Nat := natBits p.inj.toNat 3 0

/-- The injected operation has been performed: OP returns to 0 (R287). -/
def State.injDone (s : State) (i : Ident) : State := s.changeParty i fun p => { p with inj := p.inj &&& ~~~0xF }

/-- FLIP: one bit of a copy that the core has just filled with R permission is inverted (R287). -/
def State.injFlip (s : State) (p : Party) (n kid : Nat) : State :=
  let b := natBits p.inj.toNat 17 8
  let bad (v : List Byte) : List Byte := v.mapIdx fun i x => if i == b / 8 then x ^^^ (1#8 <<< (b % 8)) else x
  let value := s.keyedBytes kid (n * 128) 128
  let flip (h : Holder) : Holder := if h.unit == p.unit then { h with own := some (bad (h.own.getD value)) } else h
  (s.changeLine n fun l => { l with holders := l.holders.map flip }).injDone p.ident

/-- DUALW: W is granted without invalidating the other holders, which keep the bytes they have (R287). -/
def State.injDual (s : State) (p : Party) (a : LaneAcc) : State :=
  let n := a.pa / 128
  let remote := s.remoteUnit p.cluster a.pa
  let t := s.holdBy p.unit remote (p.cluster / 32) a.pa a.len a.kid true true
  let value := t.keyedBytes a.kid (n * 128) 128
  let keep (h : Holder) : Holder :=
    if h.unit == p.unit || some h.unit == remote then h else { h with own := some (h.own.getD value) }
  (t.changeLine n fun l => { l with holders := l.holders.map keep }).injDone p.ident

/-- An access of a crew to a line of a mapped window: the window holds the line from then on. A store remembers what the home holds, from the
moment the line becomes dirty in the window: what the core held dirty before has been written home by the fill (R125, R126). -/
def State.noteWindow (s : State) (p : Party) (a : LaneAcc) (write : Bool) : State :=
  let n := a.pa / 128
  let held := (s.line n).holders.any fun h => h.unit == p.unit && h.st == .m
  let home := (s.keyedBytes a.kid (n * 128) 128, s.poison.filter fun e => e / 32 == n)
  let mark (x : Window) : Window :=
    if !(decide (x.va ≤ a.va) && decide (a.va < x.va + x.len)) then x
    else
      { x with lines := insertNat n x.lines
               dirty := if write && !(held && (Tbl.get x.dirty n).isSome) then Tbl.set x.dirty n home else x.dirty }
  s.changeCrew p fun c => { c with windows := c.windows.map (Option.map mark) }

/-- A store of a party to line n ends the MWAITs of other parties on it, though it may begin no interval (R253, log 46). -/
def State.touchMonitors (s : State) (i : Ident) (n : Nat) : State :=
  let watches (q : Party) : Bool := q.ident != i && q.monitor.any fun m => m.line == n
  let touch (q : Party) : Party := if watches q then { q with monitor := q.monitor.map fun m => { m with touched := true } } else q
  if s.parties.any watches then { s with me := touch s.me, others := s.others.map touch } else s

/-- A lane has been performed: when, and in which interval of its line (R270, R281). -/
def LaneAcc.stamped (a : LaneAcc) (r : Reached) : LaneAcc := { a with time := r.time, ival := r.ival, last := r.last }

/-- The core of a gang takes a line into its cache; FLIP inverts a bit of a copy that is filled with R permission (R287, R288). -/
def State.fill (s : State) (p : Party) (pa len kid : Nat) (write : Bool) : State :=
  let mine (t : State) : Option Holder := (t.line (pa / 128)).holders.find? (·.unit == p.unit)
  let t := s.hold p.unit p.cluster pa len kid write
  if p.injOp == 2 && (mine s).isNone && (mine t).any (·.st == .s) then t.injFlip p (pa / 128) kid else t

/-- What an access to a line does: a read, the write of a store, or that of an atomic. -/
inductive Touch where
  | read | store | atomic
  deriving DecidableEq, Repr

/-- It writes. -/
def Touch.write (k : Touch) : Bool := k != .read

/-- A gang's access of a line in its core's cache, with what an injected operation does to it (R287, R288); `act` is what it does to the
bytes. A store to host memory is performed when the bridge's clock has taken it (R270). -/
def State.inCache (s : State) (p : Party) (a : LaneAcc) (k : Touch) (act : State → State) : State × Reached :=
  let n := a.pa / 128
  let write := k.write
  let s0 := s.noteWindow p a write
  let remote := s0.remoteUnit p.cluster a.pa
  let shared := (s0.line n).holders.any fun h => h.unit != p.unit && some h.unit != remote && h.st == .s
  let s2 := if k == .store && p.injOp == 3 && shared then s0.injDual p a else s0.fill p a.pa a.len a.kid write
  if write && regionOf a.pa == .host then
    let t := (s2.message p.clockUnit bridgeUnit).tick bridgeUnit
    ((act t).message bridgeUnit p.clockUnit, t.reached bridgeUnit n)
  else
    let t := s2.tick p.clockUnit
    (act t, t.reached p.clockUnit n)

/-- The effect of one lane's access on the directory and the clocks (R122, R269, R280, R287, R288): at the line's home, or in the core's
cache. `act` is what the access does to the bytes; the lane is answered with when it was performed. -/
def State.reach (s : State) (p : Party) (a : LaneAcc) (k : Touch) (home whole : Bool) (act : State → State) : State × LaneAcc :=
  let n := a.pa / 128
  let x :=
    if regionOf a.pa != .device && regionOf a.pa != .host then
      let t := s.tick p.clockUnit
      (act t, t.reached p.clockUnit n)
    else if home then s.atHome p.clockUnit a.pa a.len a.kid k.write whole act
    else s.inCache p a k act
  (if k.write then x.1.touchMonitors p.ident n else x.1, a.stamped x.2)

/-! ## Register windows (R70, R301) -/

/-- Core and offset of a control-store address. -/
def controlStoreAt (pa : Nat) : Option (Nat × Nat) :=
  if 0xFFF0000000000 ≤ pa && pa < 0xFFF0000000000 + 0x4000 * 512 then
    some ((pa - 0xFFF0000000000) / 0x4000, (pa - 0xFFF0000000000) % 0x4000)
  else none

/-- Die and offset of a placement-counter address. -/
def placementAt (pa : Nat) : Option (Nat × Nat) :=
  if 0xFFF0001000000 ≤ pa && pa < 0xFFF0001000000 + 0x1000 * 4 then
    some ((pa - 0xFFF0001000000) / 0x1000, (pa - 0xFFF0001000000) % 0x1000)
  else none

/-- Bytes a window read returns: control-store words (0 beyond a slot's 132 bytes), placement counters. -/
def State.windowRead (s : State) (pa len : Nat) : List Byte :=
  match controlStoreAt pa with
  | some (c, o) => bytesLE len (Tbl.getD (s.core c).cstore (o / 4) 0).toNat
  | none => match placementAt pa with
    | some (d, o) =>
      if o == 0 then bytesLE len (s.die d).locfill.toNat
      else if o == 8 then bytesLE len (s.die d).remfill.toNat else bytesLE len 0
    | none => bytesLE len 0

/-- Write a control-store word: the slot header and body words of a slot; the rest of its 256 bytes ignores writes (R70). -/
def State.writeSlot (s : State) (core o : Nat) (v : Word) : State :=
  if o % 256 < 132 then s.changeCore core fun c =>
    { c with cstore := if v == 0 then Tbl.erase c.cstore (o / 4) else Tbl.set c.cstore (o / 4) v }
  else s

/-- A window write. A store to a placement counter leaves its value plus the transfers counted in the same cycle (R301). -/
def State.windowWrite (s : State) (pa : Nat) (bs : List Byte) : State :=
  match controlStoreAt pa with
  | some (c, o) => s.writeSlot c o (BitVec.ofNat 32 (natLE bs))
  | none => match placementAt pa with
    | some (d, o) =>
      let v := BitVec.ofNat 64 (natLE bs)
      s.changeDie d fun x =>
        let (_, l, r) := if x.arrived.1 == x.cycr then x.arrived else (0, 0, 0)
        if o == 0 then { x with locfill := v + l } else if o == 8 then { x with remfill := v + r } else x
    | none => s

/-- A party holds a slot from the first body word of an MCALL until the body completes or the gang exits, also while its handler runs
(R86, R382). -/
def Party.holdsSlot (p : Party) (slot : Nat) : Bool :=
  !p.isThread && p.live != 0 && (p.port :: p.mate :: ((p.handler.map (·.stops)).getD [])).any fun q => q.micro.any (·.slot == slot)

/-- Slots of a core that a running MCALL holds (R71, R86). -/
def State.slotHeld (s : State) (core slot : Nat) : Bool := s.parties.any fun q => q.core == core && q.holdsSlot slot

/-! ## Performing -/

/-- Tentative bytes over the bytes an access reads (R136). -/
def LaneAcc.merge (a : LaneAcc) (tent : Tbl Byte) (bs : List Byte) : List Byte := bs.mapIdx fun i b => Tbl.getD tent (a.va + i) b

/-- Which of the elements that an access reads carry poison, the first one first: not one whose bytes are all tentative (R136, R378,
log 47). -/
def State.poisonedUnder (s : State) (a : LaneAcc) (tent : Tbl Byte) : List Bool :=
  (rangeFrom (a.pa / 4) 1 ((a.pa + a.len + 3) / 4 - a.pa / 4)).map fun e =>
    s.poison.contains e && (List.range 4).any fun i => (Tbl.get tent (a.va / 4 * 4 + 4 * (e - a.pa / 4) + i)).isNone

/-- A line of a failed home die has been opened for salvage, and no copy of it under the access's key survives (R256, R257). -/
def State.unsalvaged (s : State) (a : LaneAcc) : Bool :=
  let l := s.line (a.pa / 128)
  l.salvaged.contains a.kid && !(l.frozen && l.kid == a.kid)

/-- The bytes one lane reads, and the poison of each element of them: from a register window, or from the view of memory, a differing own
copy and the draft window as they are when the lane is performed (R119, R136, R227, R239). -/
def State.readLane (s view : State) (p : Party) (a : LaneAcc) : List Byte × List Bool :=
  if regionOf a.pa == .window then (s.windowRead a.pa a.len, [])
  else
    let tent := view.tentativeAt p a.va a.len
    let raw := if atHomeAccess p a then view.keyedBytes a.kid a.pa a.len else view.readAs p.unit a.kid a.pa a.len
    (a.merge tent raw, (view.poisonedUnder a tent).map fun b => b || s.unsalvaged a)

/-- A loaded value in a lane: 1- and 2-byte loads extend (R119). -/
def extend (ext : LoadExt) (bs : List Byte) : Word :=
  match ext, bs.length with
  | .sign, 1 => sext32 (BitVec.ofNat 8 (natLE bs))
  | .sign, 2 => sext32 (BitVec.ofNat 16 (natLE bs))
  | _, _ => BitVec.ofNat 32 (natLE bs)

/-- Registers of a vector load: name i takes bytes 4i to 4i+3 of each lane, and the poison of that element (R25, R27, R119, R378). -/
def loadRegs (ext : LoadExt) (regs : Nat) (vals : List (Fin 32 × List Byte × List Bool)) : List VReg :=
  (List.range regs).map fun i =>
    { val := lanes fun l => match vals.find? (·.1 == l) with
        | some (_, bs, _) => if regs == 1 then extend ext bs else BitVec.ofNat 32 (natLE ((bs.drop (4 * i)).take 4))
        | none => 0
      poison := maskOf fun l => (vals.find? (·.1 == l)).any fun x => x.2.2.getD i false }

/-- The new value of an atomic lane: none where ACAS fails (R248). -/
def atomNew (op : AtomOp) (old x new : Word) : Option Word × BitVec 32 :=
  match op with
  | .add => (some (old + x), 0)
  | .min => (some (if x.slt old then x else old), 0)
  | .max => (some (if old.slt x then x else old), 0)
  | .minu => (some (if x.ult old then x else old), 0)
  | .maxu => (some (if old.ult x then x else old), 0)
  | .and => (some (old &&& x), 0)
  | .or => (some (old ||| x), 0)
  | .xor => (some (old ^^^ x), 0)
  | .xch => (some x, 0)
  | .cas => (if old == x then some new else none, 0)
  | .fadd => let (v, f) := fadd32 .rne old x; (some v, f)

/-- One lane of an atomic: the read and the write are adjacent; a poisoned location is left as it is and poisons the lane
(R248-R251). Of cluster scope or wider it is performed at the home, of system scope once every half that the host holds has been recalled
(R250). -/
def State.atomLane (s : State) (p : Party) (e : Pend) (op : AtomOp) (x new : Word) (a : LaneAcc) :
    State × LaneAcc × Word × Bool × BitVec 32 :=
  let home := Scope.wide e.scope || atHomeAccess p a
  let whole := e.scope == .sys
  let t0 := (s.reach p a .atomic home whole id).1
  let old := BitVec.ofNat 32 (natLE (if home then t0.keyedBytes a.kid a.pa 4 else t0.readAs p.unit a.kid a.pa 4))
  let bad := t0.poisonedAt a.pa 4
  let r := atomNew op old x new
  let put (t : State) : State :=
    match r.1 with
    | some w =>
      if bad then t
      else if home then (t.writeBytes a.kid a.pa (bytesLE 4 w.toNat)).noteWrite (a.pa / 128)
      else t.writeOwn p.unit a.kid a.pa (bytesLE 4 w.toNat)
    | none => t
  let (t, b) := s.reach p a .atomic home whole put
  (if home then t else t.noteUse p.unit (a.pa / 128) p.ident b.time, b, old, bad, if bad then 0 else r.2)

/-- Append an entry to the reorder checker that serves a party (R276), with the perform times (R270) and the intervals of the lines that the
word touched. -/
def State.logAccess (s : State) (p : Party) (e : Pend) : State :=
  let now := (s.clock p.clockUnit).toNat
  let seen (a : LaneAcc) : Nat := if a.early == 0 then a.time else a.early
  let pick (times : List Nat) (f : BitVec 48 → BitVec 48 → BitVec 48) : Nat := match times with
    | [] => now
    | t :: ts => (ts.foldl (fun m x => f m (BitVec.ofNat 48 x)) (BitVec.ofNat 48 t)).toNat
  let lines := ((e.accs.filter (!·.tent)).map fun a => (a.pa / 128, a.kid, a.ival)).eraseDups
  let ent : REntry :=
    { party := p.ident, seq := e.id, store := e.writes, load := e.reads, access := e.accesses,
      covered := (match e.kind with | .store _ true => true | _ => false), combined := e.combined,
      rel := e.isRelease, acq := e.isAcquire, fence := e.fenceKind, scope := e.scope
      tc := pick (e.accs.map seen) maxTime, tp := pick (e.accs.map (·.time)) maxTime
      tc0 := pick (e.accs.map seen) minTime, tp0 := pick (e.accs.map (·.time)) minTime
      spans := e.accs.map fun a => (a.pa, a.len), lines := if e.writes then lines else [], checked := false }
  s.changeCore p.clockUnit fun c => { c with reorder := c.reorder ++ [ent] }

/-- Change an outstanding word of a party. -/
def State.changePend (s : State) (i : Ident) (n : Nat) (f : Pend → Pend) : State :=
  s.changeParty i fun p => { p with pend := p.pend.map fun e => if e.id == n then f e else e }

/-- Remove an outstanding word of a party. -/
def State.dropPend (s : State) (i : Ident) (n : Nat) : State :=
  s.changeParty i fun p => { p with pend := p.pend.filter fun e => e.id != n }

/-- An outstanding word of a party. -/
def State.pendOf (s : State) (i : Ident) (n : Nat) : Option (Party × Pend) :=
  match s.party i with
  | some p => (p.pend.find? (·.id == n)).map fun e => (p, e)
  | none => none

/-- A compressed spill record from its tag and bytes (R130-R132): none for a malformed one; some none for FMT 0. -/
def decodeSpill (tag : List Byte) (pay : List Byte) : Option (Option (Lanes Word)) :=
  let w := natLE (tag.take 4)
  let fmt := natBits w 7 0
  let len := natBits w 15 8
  let ok := natBits w 31 16 == 0x5653 && natLE (tag.drop 8) == 0
  let base := BitVec.ofNat 32 (natLE (pay.take 4))
  if !ok then none
  else match fmt with
    | 0 => if len == 0 then some none else none
    | 1 => if len == 4 then some (some (Vector.replicate 32 base)) else none
    | 2 => if len == 36 then some (some (lanes fun l => base + sext32 (BitVec.ofNat 8 (natLE ((pay.drop (4 + l.val)).take 1))))) else none
    | 3 => if len == 68 then some (some (lanes fun l => base + sext32 (BitVec.ofNat 16 (natLE ((pay.drop (4 + 2 * l.val)).take 2))))) else none
    | 4 => if len == 128 then some (some (lanes fun l => BitVec.ofNat 32 (natLE ((pay.drop (4 * l.val)).take 4)))) else none
    | _ => none

/-- Payload bytes of each format (R130). -/
def spillLen (fmt : Nat) : Nat :=
  match fmt with
  | 0 => 0 | 1 => 4 | 2 => 36 | 3 => 68 | _ => 128

/-- Lanes whose value the payload element at byte 4k enters (R132). -/
def spillLanes (fmt k : Nat) : LaneMask :=
  match fmt with
  | 1 => 0xFFFFFFFF
  | 2 => if k == 0 then 0xFFFFFFFF else maskOf fun l => (4 + l.val) / 4 == k
  | 3 => if k == 0 then 0xFFFFFFFF else maskOf fun l => (4 + 2 * l.val) / 4 == k
  | 4 => maskOf fun l => l.val == k
  | _ => 0

/-- The register VFILL writes, none to unbind: parts of the record read lane by lane, tag first (R132). -/
def fillReg (parts : List (List Byte × Bool)) : Option VReg :=
  let bytes := parts.flatMap (·.1)
  let tag := bytes.take 16
  let pay := bytes.drop 16
  let fmt := natBits (natLE (tag.take 4)) 7 0
  let tagBad := ((parts.take 4).any (·.2))
  let bad : VReg := { val := Vector.replicate 32 0, poison := 0xFFFFFFFF }
  if tagBad then some bad
  else match decodeSpill tag pay with
    | none => some bad
    | some none => none
    | some (some v) =>
      let marks := (parts.drop 4).mapIdx fun k x => if x.2 then spillLanes fmt k else 0
      some { val := v, poison := marks.foldl (· ||| ·) (BitVec.ofNat 32 (natLE ((tag.drop 4).take 4))) }

/-- The bundle an identity belongs to (R399). -/
def Bundle.names (b : Bundle) (i : Ident) : Bool := b.queue == i.toNat / 2 ^ 54 && b.cseq % 2 ^ 29 == i.toNat % 2 ^ 29

/-- A containment reaches a party (R281-R283, R286): CONT and, while neither CONT nor FPRT is set, its record; MULT when one
is. A drawer whose release has completed already takes it late and drops nothing; of a party that is no longer resident the
bundle records status 4 (R396). `at0` is when the party drew. What it drops that is outstanding is dropped at once (R282, R311). In replay mode the
record is written, and CONT is raised at the recorded vote (R412, log 108). -/
def State.contain (s : State) (i : Ident) (drew : Bool) (d : Drawn) (v : Verdict) (at0 : Nat) : State :=
  let record (late : Bool) : Vector DWord 4 :=
    #v[BitVec.ofNat 64 (d.line * 2 ^ 19 + d.kid * 2 ^ 9 + v.scope * 2 ^ 6 + late.toNat * 16 + drew.toNat * 8 + v.kind),
       BitVec.ofNat 64 (d.interval * 2 ^ 32 + v.other * 2 ^ 12 + v.detector), BitVec.ofNat 64 v.time, BitVec.ofNat 64 v.found]
  match s.party i with
  | some p =>
    if p.live == 0 || p.stopped then s.recordStatus p.bundle 4
    else
      let late := drew && p.lastRel != 0 && laterOrSame (BitVec.ofNat 48 p.lastRel) (BitVec.ofNat 48 at0)
      let quiet := s.debugBit p.part 7 && !(s.debug[p.part].diverged.contains i)
      let s1 := s.changeParty i fun p =>
        let old := p.cause &&& (Cause.mask .cont ||| Cause.mask .fprt) != 0 || (quiet && p.contrec[0] != 0)
        { (if quiet then p else p.setCause .cont) with
          drawn := if drew then d :: p.drawn else p.drawn
          contDue := p.contDue || (!late && !quiet)
          noFlush := true
          contrec := if old then p.contrec.set 0 (p.contrec[0] ||| 0x20) else record late }
      if late then s1.recordStatus p.bundle 4 else s1.dropDue i
  | none => match s.bundles.find? (·.names i) with
    | some b => s.recordStatus b.id 4
    | none => s

/-- An access of a party, or of a job of its, to a line is kept for the checkers (R281, R286, R310). -/
def State.noteUses (s : State) (who : Ident) (part : Fin 4) (job : Option Nat) (unit : Nat) (write : Bool)
    (ns : List (Nat × Nat × Reached)) : State :=
  let use (x : Nat × Nat × Reached) : Use :=
    { who, part, job, told := none, line := x.1, kid := x.2.1, interval := x.2.2.ival, last := x.2.2.last, unit, write, time := x.2.2.time }
  { s with uses := s.uses ++ ns.map use }

/-- Lines that the lanes of a word touched, each with when and in which interval it did first. -/
def touched (accs : List LaneAcc) : List (Nat × Nat × Reached) :=
  let as := accs.filter fun a => !a.tent
  ((as.map fun a => (a.pa / 128, a.kid, a.ival)).eraseDups).filterMap fun k =>
    (as.find? fun a => (a.pa / 128, a.kid, a.ival) == k).map fun a => (k.1, k.2.1, { time := a.time, ival := a.ival, last := a.last })

/-- A faulty interval that a reading of a line draws from: the latest of those from which the data it found came (R281, R310). It read from
the copy of `unit`, which is verified clean where the verdict names others. -/
def Line.drawsFrom (l : Line) (n kid unit : Nat) (r : Reached) : Option (Nat × Verdict) :=
  if l.kid != kid then none
  else
    let hits := (l.faulty.filter fun x => x.1 / 2 ^ 32 == kid && decide (r.last ≤ x.1 % 2 ^ 32) && decide (x.1 % 2 ^ 32 ≤ r.ival) &&
      x.2.only.all fun us => us.any fun y => copyUnits unit n y).map fun x => (x.1 % 2 ^ 32, x.2)
    hits.foldl (fun (m : Option (Nat × Verdict)) x => match m with
      | some y => if y.1 ≤ x.1 then some x else m
      | none => some x) none

/-- A party reads lines of faulty intervals, or writes others after it has drawn (R281). -/
def State.drawing (s0 : State) (p : Party) (e : Pend) : State :=
  let ns := touched e.accs
  let unit (n : Nat) : Nat := if e.accs.any fun a => a.pa / 128 == n && atHomeAccess p a then s0.servingUnit (n * 128) else p.unit
  let r := if e.reads then ns.foldl (fun t x => t.noteUses p.ident p.part none (unit x.1) false [x]) s0 else s0
  let s := if e.writes then r.noteUses p.ident p.part none p.unit true ns else r
  let s1 := if !e.reads then s else ns.foldl (fun t x =>
    match (t.line x.1).drawsFrom x.1 x.2.1 (unit x.1) x.2.2 with
    | some (k, v) => t.contain p.ident true { line := x.1, kid := x.2.1, interval := k } v x.2.2.time
    | none => t) s
  if !e.writes then s1
  else match s1.party p.ident with
    | some q => match q.drawn with
      | d :: _ => ns.foldl (fun t x => t.changeLine x.1 fun l =>
          match (t.line d.line).faultAt d.kid d.interval with
          | some v => if x.1 == d.line then l else l.markFault x.2.1 x.2.2.ival { v with only := none }
          | none => l) s1
      | [] => s1
    | none => s1

/-- Journal an atomic at each place it was performed, or tick its entries off in replay mode (R411, R412). -/
def State.noteAtomic (s : State) (p : Party) (e : Pend) : State :=
  match e.kind with
  | .atomic .. =>
    ((e.accs.map fun a => a.pa / 128 * 1024 + a.kid).eraseDups).foldl (fun t k =>
      let t1 := t.journalEntry p.part (2304 + 128 * t.homeOfPa (k / 1024 * 128) + sliceOf (k / 1024 * 128))
        { kind := 0x15, ident := p.ident, pos := e.pos, key := k, vals := [] }
      if t1.debugBit p.part 7 then t1.changeDebug p.part fun d =>
        { d with replay := eraseFirst (fun x => x.kind == 0x15 && x.key == k && x.ident == p.ident && x.pos == e.pos) d.replay }
      else t1) s
  | _ => s

/-- In replay mode an atomic waits at its place for those journaled before it (R412). -/
def State.replayHolds (s : State) (p : Party) (e : Pend) : Bool :=
  s.debugBit p.part 7 && !(s.debug[p.part].diverged.contains p.ident) && match e.kind with
    | .atomic .. => e.accs.any fun a =>
      let k := a.pa / 128 * 1024 + a.kid
      let mine (x : JEntry) : Bool := x.ident == p.ident && x.pos == e.pos
      let there := s.debug[p.part].replay.filter fun x => x.kind == 0x15 && x.key == k
      there.any mine && !(there.head?.any mine)
    | _ => false

/-- The journal has no room for the entries that the lanes of an atomic need, so it waits (R405, R411). -/
def State.journalHolds (s : State) (p : Party) (e : Pend) : Bool :=
  match e.kind with
  | .atomic .. => !s.journalRoom p.part (e.accs.length * journalBytes 4)
  | _ => false

/-- Lanes of a word are performed in ascending order, one access each: uncached accesses and loads of write-combined pages (R122, log 16). -/
def Pend.inOrder (e : Pend) : Bool :=
  match e.kind with
  | .store .. => e.accs.any (·.mt == 1)
  | _ => e.accs.any fun a => a.mt == 1 || a.mt == 2

/-- With a lane go those of its location (R120, R249); with a lane of an atomic that the host bridge performs, those of its 64-byte half, which
the bridge keeps until it has performed them all (R250). -/
def Pend.together (e : Pend) (a b : LaneAcc) : Bool :=
  match e.kind with
  | .atomic .. => if e.scope == .sys && regionOf a.pa == .host then a.pa / 64 == b.pa / 64 else a.pa == b.pa
  | _ => a.pa == b.pa

/-- The lanes of a word that are performed together when those of a mask are, and the rest (R119, R120). In a word whose lanes keep their order
those before a lane go with it, and no others (R122). The stores of a word that has no lanes, a VSPILL or a DWACC, are separate ones: a mask of
ones takes them all, and which ones another mask takes is open (R131, R137, log 5). -/
def Pend.chosen (e : Pend) (m : LaneMask) : List LaneAcc × List LaneAcc :=
  let apart := e.active == 0 && match e.kind with | .store .. => true | _ => false
  e.accs.partition fun a =>
    if apart then m == 0xFFFFFFFF || Config.freeBit [4, e.id, e.past.length, m.toNat, a.pa]
    else if e.inOrder then e.accs.any fun b => m.has b.lane && decide (a.lane ≤ b.lane)
    else e.accs.any fun b => m.has b.lane && e.together a b

/-- Stores to write-combined pages of one word that address one location are merged: only the highest lane's data is written (R122). -/
def merged (as : List LaneAcc) : List LaneAcc :=
  as.filter fun a => !(a.mt == 2 && as.any fun b => b.pa == a.pa && decide (a.lane < b.lane))

/-- One lane of a load (R119, R225): when it was performed, what it read, and the poison of each element. -/
def State.loadLane (s : State) (p : Party) (e : Pend) (a : LaneAcc) : State × LaneAcc × List Byte × List Bool :=
  let home := atHomeAccess p a
  let (r, b) := s.reach p a .read home false id
  let u := if home then r else r.noteUse p.unit (a.pa / 128) p.ident b.time
  (u, b, u.readLane (u.viewOf p { e with accs := [a] }) p a)

/-- Lanes of a load, in order, with what they read. -/
def State.loadLanes (s : State) (p : Party) (e : Pend) (as : List LaneAcc) :
    State × List LaneAcc × List (Fin 32 × List Byte × List Bool) :=
  as.foldl (fun (acc : State × List LaneAcc × List (Fin 32 × List Byte × List Bool)) a =>
    let (r, b, x) := acc.1.loadLane p e a
    (r, acc.2.1 ++ [b], acc.2.2 ++ [(a.lane, x)])) (s, [], [])

/-- One lane of a store: into a register window, the crew's draft window, or memory (R70, R136, R223). -/
def State.storeLane (s : State) (p : Party) (a : LaneAcc) : State × LaneAcc :=
  if regionOf a.pa == .window then
    let t := s.tick p.clockUnit
    (t.windowWrite a.pa a.data, a.stamped (t.reached p.clockUnit (a.pa / 128)))
  else if a.tent then
    let t := s.tick p.clockUnit
    (t.putTentative p a, a.stamped (t.reached p.clockUnit (a.pa / 128)))
  else
    let home := atHomeAccess p a
    s.reach p a .store home false fun t => if home then (t.writeAcc a).noteWrite (a.pa / 128) else t.writeOwn p.unit a.kid a.pa a.data

/-- Lanes of a store, in order. -/
def State.storeLanes (s : State) (p : Party) (as : List LaneAcc) : State × List LaneAcc :=
  (merged as).foldl (fun (acc : State × List LaneAcc) a =>
    let (r, b) := acc.1.storeLane p a
    (r, acc.2 ++ [b])) (s, [])

/-- Lanes of an atomic, in order, with their old values and the flags they raise (R248). -/
def State.atomLanes (s : State) (p : Party) (e : Pend) (op : AtomOp) (x new : Lanes Word) (as : List LaneAcc) :
    State × List LaneAcc × List (Fin 32 × List Byte × List Bool) × BitVec 32 :=
  as.foldl (fun (acc : State × List LaneAcc × List (Fin 32 × List Byte × List Bool) × BitVec 32) a =>
    let (t, b, old, po, f) := acc.1.atomLane p e op x[a.lane] new[a.lane] a
    (t, acc.2.1 ++ [b], acc.2.2.1 ++ [(a.lane, bytesLE 4 old.toNat, [po])], acc.2.2.2 ||| f)) (s, [], [], e.flags)

/-- What a word that has been performed in every lane leaves behind: its value is bound, its times are taken and it is entered for the
checkers (R223, R270, R276, R281). A release is entered already (R279). -/
def State.performedAll (t : State) (p : Party) (e : Pend) (bound : Option (List VReg)) (fl : BitVec 32) : State :=
  let whole : Pend := { e with accs := e.past ++ e.accs }
  let mark (x : Pend) : Pend := { x with performed := true, bound, flags := fl, accs := whole.accs, past := [], vals := [] }
  if e.tp != 0 then ((t.changePend p.ident e.id mark).noteAtomic p whole).drawing p whole
  else
    let t1 := if whole.accs.isEmpty then t.tick p.clockUnit else t
    (((t1.changePend p.ident e.id mark).logAccess p whole).noteAtomic p whole).drawing p whole

/-- Some lanes of a word have been performed, and others have not (R119, R234). -/
def State.performedSome (t : State) (p : Party) (e : Pend) (now rest : List LaneAcc) (vals : List (Fin 32 × List Byte × List Bool))
    (fl : BitVec 32) : State :=
  t.changePend p.ident e.id fun x => { x with accs := rest, past := e.past ++ now, vals, flags := fl }

/-- Parts of a word that touches lines without reading or writing their bytes, one event of the party's core (R269). -/
def State.stampAll (s : State) (p : Party) (as : List LaneAcc) : State × List LaneAcc :=
  let t := s.tick p.clockUnit
  (t, as.map fun a => a.stamped (t.reached p.clockUnit (a.pa / 128)))

/-- The arrive part of BAR at a barrier object: COUNT is bumped, or PHASE when the party completes it (R259, R260). Of an object that holds
poisoned elements, on which the spec is silent, it counts and compares the stored bytes, and an element that it writes whole loses its poison as
any store's does (DESIGN CHOICE, log 102). -/
def State.arriveAt (s : State) (p : Party) (e : Pend) (a : LaneAcc) : State × LaneAcc :=
  let home := Scope.wide e.scope || atHomeAccess p a
  let t0 := (s.reach p a .atomic home (e.scope == .sys) id).1
  let bytes := if home then t0.keyedBytes a.kid a.pa 16 else t0.readAs p.unit a.kid a.pa 16
  let word (k : Nat) : Word := BitVec.ofNat 32 (natLE ((bytes.drop (4 * k)).take 4))
  let arrived := word 1 + 1
  let full := (word 0).ule arrived
  let put (t : State) (k : Nat) (w : Word) : State :=
    if home then (t.writeBytes a.kid (a.pa + 4 * k) (bytesLE 4 w.toNat)).noteWrite (a.pa / 128)
    else t.writeOwn p.unit a.kid (a.pa + 4 * k) (bytesLE 4 w.toNat)
  s.reach p a .atomic home (e.scope == .sys) fun t => if full then put (put t 1 0) 2 (word 2 + 1) else put t 1 arrived

/-- A party performs an atomic at a scope wider than its crew: its crew can no longer be flushed (R388). -/
def State.noteShared (s : State) (i : Ident) (e : Pend) : State :=
  if Scope.wide e.scope && !e.accs.isEmpty then s.changeParty i fun q => { q with noFlush := true } else s

/-- Bind the value of a reading word, or perform a store, an atomic or an arrive, its predecessors having been performed: in the lanes that go
with those of a mask, all of them with a mask of ones (R119, R234). -/
def State.performNow (s : State) (i : Ident) (n : Nat) (m : LaneMask) : State :=
  match s.pendOf i n with
  | none => s
  | some (p, e) =>
    let (now, rest) := e.chosen m
    if e.performed || (now.isEmpty && !e.accs.isEmpty) then s
    else
      let done (t : State) (bs : List LaneAcc) (bound : Option (List VReg)) (fl : BitVec 32) : State :=
        t.performedAll p { e with accs := bs } bound fl
      match e.kind with
      | .load ext _ regs =>
        let (t, bs, got) := s.loadLanes p e now
        if rest.isEmpty then done t bs (some (loadRegs ext regs (e.vals ++ got))) 0
        else t.performedSome p e bs rest (e.vals ++ got) 0
      | .sld _ =>
        match e.accs with
        | a :: _ =>
          let (r, b, bs, po) := s.loadLane p e a
          let half (k : Nat) : VReg :=
            { val := Vector.replicate 32 (BitVec.ofNat 32 (natLE ((bs.drop (4 * k)).take 4))), poison := if po.any id then 1 else 0 }
          done r [b] (some [half 0, half 1]) 0
        | [] => done s [] (some []) 0
      | .refill =>
        let (t, bs, got) := s.loadLanes p e now
        if rest.isEmpty then done t bs (some (loadRegs .zero 1 (e.vals ++ got))) 0
        else t.performedSome p e bs rest (e.vals ++ got) 0
      | .vfill _ =>
        let (t, bs, got) := s.loadLanes p e e.accs
        done t bs (match fillReg (got.map fun x => (x.2.1, x.2.2.any id)) with | some v => some [v] | none => some []) 0
      | .mon =>
        match e.accs with
        | a :: _ =>
          let (r, b, _) := s.loadLane p e a
          let l := r.line (a.pa / 128)
          let sub := (r.remoteUnit p.cluster a.pa).map fun u => Tbl.getD l.subs u 0
          let mo : Monitor := { line := a.pa / 128, kid := l.kid, interval := l.interval, sub, touched := false }
          let arm (q : Party) : Party := if q.monPend == some n then { q with monitor := some mo, monPend := none } else q
          done (r.changeParty i arm) [b] (some []) 0
        | [] => done s [] (some []) 0
      | .atomic op _ x new =>
        let (t, bs, got, fl) := (s.noteShared i e).atomLanes p e op x new now
        if rest.isEmpty then done t bs (some (loadRegs .zero 1 (e.vals ++ got))) fl
        else t.performedSome p e bs rest (e.vals ++ got) fl
      | .store .. =>
        let (t, bs) := s.storeLanes p now
        if rest.isEmpty then done t bs e.bound 0 else t.performedSome p e bs rest [] 0
      | .arrive =>
        match e.accs with
        | a :: _ =>
          let (t, b) := (s.noteShared i e).arriveAt p e a
          done t [b] none 0
        | [] => done s [] none 0
      | .cmo op level =>
        let (t, bs) := s.stampAll p e.accs
        done (e.accs.foldl (fun t a =>
          if level == 5 then t.salvageLine p.core (a.pa / 128) a.kid else t.cmoLine p.core op level (a.pa / 128) a.kid) t) bs none 0
      | .sunmap _ =>
        let (t, bs) := s.stampAll p e.accs
        done (e.accs.foldl (fun t a => t.homeLine p.unit (a.pa / 128)) t) bs none 0
      | .claim .. => s
      | _ => done s e.accs e.bound 0

/-! ## When a word can be performed -/

/-- Crew-mates' early stores that a write of e, or a load that sees only what every party sees, must follow in coherence order: those that the
crew saw before e (R224, R225). -/
def State.earlyBefore (s : State) (p : Party) (e : Pend) : List (Ident × Nat) :=
  if !e.writes && e.forwards then []
  else s.parties.flatMap fun q =>
    if q.ident == p.ident || q.bundle != p.bundle || q.stage != p.stage || q.crew != p.crew then []
    else (q.pend.filter fun x => x.early != 0 && !x.performed && x.meets e && (e.early == 0 || decide (x.early < e.early))).map
      fun x => (q.ident, x.id)

/-- An outstanding CLAIM of any party, issued before a party's word or before a job, has a leaf still to move that holds a line of the given
address (R258, R302). -/
def State.claimedBefore (s : State) (word : Option (Ident × Nat)) (job : Option Nat) (pa : Nat) : Bool :=
  s.parties.any fun q => q.pend.any fun x => match x.kind with
    | .claim leaves before jobs =>
      word.all (fun w => !(q.ident == w.1 && decide (w.2 ≤ x.id)) && (before.lookup w.1).all fun k => decide (k ≤ w.2)) &&
      job.all (fun j => decide (jobs ≤ j)) &&
      leaves.any fun va => match s.walk q.asid va with
        | .ok (level, pte) => decide (ptePa pte ≤ pa) && decide (pa < ptePa pte + 2 ^ leafShift level)
        | .error _ => false
    | _ => false

/-- An access of [pa, pa + len) recalls a half of the line from the host (R291). -/
def State.recalls (s : State) (pa len : Nat) (write : Bool) : Bool :=
  let l := s.line (pa / 128)
  let taken (h : HostHalf) : Bool := h == .hm || (write && h == .hs)
  (decide (pa % 128 < 64) && taken l.lo) || (decide (pa % 128 + len > 64) && taken l.hi)

/-- The home of an access must act for it: it is no load that the requester's core holds a copy for, no store or narrow atomic that it
holds with PERM W, or it recalls a half from the host (R288, R291, R308). -/
def State.needsHome (s : State) (p : Party) (e : Pend) (a : LaneAcc) : Bool :=
  let mine := (s.line (a.pa / 128)).holders.filter (·.unit == p.unit)
  regionOf a.pa == .device &&
    (s.recalls a.pa a.len e.writes || atHomeAccess p a || (e.writes && (match e.kind with | .store .. => false | _ => true) && Scope.wide e.scope) ||
      !(e.accesses && (e.reads || e.writes)) || (if e.writes then !mine.any (·.st.write) else mine.isEmpty))

/-- A unit's clock would run more than 2^46 ahead of its partition's horizon: its next event waits (R269). A unit of the FED stands under the
horizon of every partition (log 88). -/
def State.clockAhead (s : State) (u : Nat) : Bool :=
  let under (p : Fin 4) : Bool := match unitDie u with
    | some _ => s.partOfUnit u == some p
    | none => s.parts[p].dies != 0
  (List.finRange 4).any fun p =>
    let d := (s.clock u - s.parts[p].chkhz).toNat
    decide (2 ^ 46 ≤ d) && decide (d < 2 ^ 47) && under p

/-- The clock of a unit that serves a line, or holds it for a cluster, has run too far (R269). -/
def State.lineAhead (s : State) (cluster pa : Nat) : Bool :=
  match regionOf pa with
  | .device => ((s.remoteUnit cluster pa).toList ++ [s.homeUnit pa, s.hbmUnit pa]).any s.clockAhead
  | .host => s.clockAhead bridgeUnit
  | _ => false

/-- A copy of the line, of another unit than u, that an access would recall stands on a die in a relock, which answers nothing (R289, R308). -/
def State.recallStuck (s : State) (u pa : Nat) (write : Bool) : Bool :=
  (s.line (pa / 128)).holders.any fun h => h.unit != u && (write || h.st != .s) && (holderDie h.unit).any fun d => (s.die d).busy

/-- A request for a line of the device is not served: its home, or a copy that it recalls, stands on a die in a relock (R308). -/
def State.notServed (s : State) (u pa : Nat) (write : Bool) : Bool :=
  regionOf pa == .device && ((s.die (s.homeOfPa pa)).busy || s.recallStuck u pa write)

/-- Something other than the order of the party's own words keeps a word from being performed: a crew-mate's store that cannot be performed yet
(R225), a running MCALL (R71), a pinned line (R193), a job (R242), a relock (R308), a CLAIM (R258), a clock that has run too far (R269), or the
replay of a journal, or one that is full (R405, R412). -/
def State.obstructed (s : State) (p : Party) (e : Pend) : Bool :=
  let slot := e.accs.any fun a => match controlStoreAt a.pa with
    | some (c, o) => e.writes && s.slotHeld c (o / 256)
    | none => false
  let pinned := e.writes && e.accs.any fun a => !a.tent && !(s.line (a.pa / 128)).pinned.isEmpty
  let raced := e.accs.any fun a => !a.tent && s.jobs.any fun j => j.started && !j.complete &&
    ((j.writes ++ if e.writes && j.copy then j.reads else []).any fun x =>
      decide (x.pa / 128 ≤ a.pa / 128) && decide (a.pa / 128 ≤ (x.pa + x.len - 1) / 128) && x.len != 0)
  let waits (a : LaneAcc) : Bool := !a.tent && ((s.needsHome p e a && s.notServed p.unit a.pa e.writes) || s.lineAhead p.cluster a.pa)
  !(s.earlyBefore p e).isEmpty || slot || pinned || raced || s.clockAhead p.clockUnit || (s.die p.die).busy || e.accs.any waits ||
    (e.accesses && e.accs.any fun a => s.claimedBefore (some (p.ident, e.id)) none a.pa) || s.replayHolds p e ||
    s.journalHolds p e

/-- Perform a word, in the lanes of a mask, after every word that must precede it (R224-R228); `fuel` bounds the chain. A held release is
performed only by `completeRelease`, so a word behind one is left as it is. What a due containment drops is dropped instead (R282). -/
def State.performDeep : Nat → State → Ident → Nat → Bool → LaneMask → State
  | 0, s, _, _, _, _ => s
  | k + 1, s, i, n, rel, m =>
    match s.pendOf i n with
    | none => s
    | some (p, e) =>
      if p.drops e then s.dropDue i
      else if e.performed || (e.isRelease && !rel) then s
      else
        let before := (p.pend.takeWhile fun x => x.id != n).filter fun x => !x.performed && mustPrecede x e
        let s1 := before.foldl (fun t x => State.performDeep k t i x.id false 0xFFFFFFFF) s
        let s2 := (s1.earlyBefore p e).foldl (fun t x => State.performDeep k t x.1 x.2 false 0xFFFFFFFF) s1
        let blocked := match s2.party i with
          | some q => (q.pend.takeWhile fun x => x.id != n).any fun x => !x.performed && mustPrecede x e
          | none => true
        if blocked || s2.obstructed p e then s2 else s2.performNow i n m

/-- Perform word n of a party in the lanes of a mask, with what must precede it. -/
def State.performIn (s : State) (i : Ident) (n : Nat) (rel : Bool) (m : LaneMask) : State :=
  s.performDeep (2 + (s.parties.map fun p => p.pend.length).sum) i n rel m

/-- Perform word n of a party in every lane, with what must precede it. -/
def State.perform (s : State) (i : Ident) (n : Nat) (rel : Bool) : State := s.performIn i n rel 0xFFFFFFFF

/-- Every word before n that must precede it has been performed. -/
def Party.ready (p : Party) (e : Pend) : Bool :=
  (p.pend.takeWhile fun x => x.id != e.id).all fun x => x.performed || !mustPrecede x e

/-- The mode of a partition is FULL (R285). -/
def Partition.full (p : Partition) : Bool := natBits p.chkmode.toNat 1 0 == 0

/-- The checking condition of release n, which has its time (R279): its entry and the party's earlier ones are clean, and in FULL mode the
horizon has reached its time. -/
def State.checkedUp (s : State) (p : Party) (n t : Nat) : Bool :=
  (s.cores.all fun c => c.2.reorder.all fun r => r.party != p.ident || decide (n < r.seq) || r.checked) &&
    (!(s.partOf p).full || laterOrSame (s.partOf p).chkhz (BitVec.ofNat 48 t))

/-- At a release of cluster scope or wider, every line the core holds with R permission and has loaded since its last seal is sealed, before
the release takes its time, and the checker of its home hears of it (R269, R274, R279). Readers before a clean seal are not readers of what the
copy turns into (R281). -/
def State.seal (s : State) (core : Nat) : State :=
  s.lines.foldl (fun t (n, l) =>
    match l.holders.find? fun h => h.unit == core && !h.st.write && h.loaded with
    | none => t
    | some h =>
      let value := t.keyedBytes l.kid (n * 128) 128
      let u := if l.recorded then t.tick core else t
      let rs := splitHalves l [h.record n l .seal (u.clock core).toNat value]
      let clean := rs.all fun r => r.first == r.last
      let mark (x : Holder) : Holder :=
        if x.unit == core then { x with loaded := false, readers := if clean && l.recorded then [] else x.readers } else x
      let t1 := u.changeLine n fun l => { l with holders := l.holders.map mark }
      if l.recorded then (t1.message core (h.beneath.getD (t1.servingUnit (n * 128)))).keepRecords rs else t1) s

/-- The unit whose clock gives an access of a release its time: the host bridge, the line's home slice, or the party's core (R250, R270). -/
def State.timeUnit (s : State) (p : Party) (e : Pend) (a : LaneAcc) : Nat :=
  let home := atHomeAccess p a || (Scope.wide e.scope && match e.kind with | .store .. => false | _ => true)
  if regionOf a.pa == .host then bridgeUnit
  else if home && regionOf a.pa == .device then s.homeUnit a.pa
  else p.clockUnit

/-- A release takes its time, lane by lane, from the units that are to perform it; one without data takes its core's (R270). -/
def State.takeTimes (s : State) (p : Party) (e : Pend) : State × List LaneAcc :=
  let one (x : State × List LaneAcc) (a : LaneAcc) : State × List LaneAcc :=
    let u := x.1.timeUnit p e a
    let t := (x.1.message p.clockUnit u).tick u
    (t.message u p.clockUnit, x.2 ++ [{ a with time := (t.clock u).toNat }])
  e.accs.foldl one (if e.accs.isEmpty then s.tick p.clockUnit else s, [])

/-- The latest of some logical times; 0 of none. -/
def latest (ts : List Nat) : Nat :=
  match ts with
  | [] => 0
  | t :: us => (us.foldl (fun m x => maxTime m (BitVec.ofNat 48 x)) (BitVec.ofNat 48 t)).toNat

/-- Move a release towards completion (R223, R279): once the accesses that must come before it are performed it takes its time and its reorder
entry, the core's lines having been sealed; once checking has caught up it is performed. A release of a party with a containment due is dropped
(R282). -/
def State.completeRelease (s : State) (i : Ident) (n : Nat) (finish : State → State) : State :=
  match s.pendOf i n with
  | none => s
  | some (p0, e0) =>
    let s1 := (p0.pend.takeWhile fun x => x.id != n).foldl (fun t x => if mustPrecede x e0 then t.perform i x.id false else t) s
    match s1.pendOf i n with
    | none => s1
    | some (p, e) =>
      if p.drops e then s1.dropDue i
      else if !p.ready e || (e.kind == .fence .full && (p.loads != 0 || p.stores != 0)) then s1
      else if e.tp == 0 then
        if s1.clockAhead p.clockUnit || e.accs.any (fun a => s1.lineAhead p.cluster a.pa) then s1
        else
          let (s2, as) := (if Scope.wide e.scope then s1.seal p.clockUnit else s1).takeTimes p e
          let t := if as.isEmpty then (s2.clock p.clockUnit).toNat else latest (as.map (·.time))
          (s2.changePend i n fun x => { x with tp := t, accs := as }).logAccess p { e with accs := as }
      else if s1.checkedUp p n e.tp then finish s1
      else s1

/-! ## Write-back (R56) -/

/-- Write a finished long result into its registers and drop the word. -/
def State.writeBack (s : State) (i : Ident) (n : Nat) : State :=
  match s.pendOf i n with
  | none => s
  | some (_, e) =>
    match e.bound with
    | none => s
    | some regs =>
      let put (q : Party) : Party :=
        match e.kind with
        | .load _ d _ | .atomic _ d _ _ | .mqget d _ | .value d _ =>
          (regs.zipIdx.foldl (fun (t : Party) (r : VReg × Nat) => t.writeV e.active (vnext d r.2) r.1) q).orFlags e.flags
        | .vfill d => match regs with
          | v :: _ => q.writeV 0xFFFFFFFF d v
          | [] => q.freeV d
        | .sld d => match regs with
          | lo :: hi :: _ => q.setS d { val := hi.val[0] ++ lo.val[0], poison := lo.poison != 0 || hi.poison != 0 }
          | _ => q
        | .svalue d v => q.setS d { val := v, poison := false }
        | _ => q
      (s.changeParty i put).dropPend i n

end Sys2Proof.Machine
end

