-- ==== Sys2Proof/Machine/LoadStore.lean ====
section
/-! DEFINITION. Vector loads and stores, SLD and SST, spill records and PREF (R111, R114-R122, R130-R133), and what every
memory word checks before anything of it happens (R117, R118, R136, R242). -/

namespace Sys2Proof.Machine

open Sys2Proof

/-! ## Checks before a word is performed -/

/-- Line range of a footprint extent meets the line of an address. -/
def Extent.covers (x : Extent) (pa : Nat) : Bool :=
  decide (x.pa / 128 ≤ pa / 128) && decide (pa / 128 ≤ (x.pa + x.len - 1) / 128) && x.len != 0

/-- A live job whose footprint an access races with (R242): its write footprint, or for a store its read footprint where the
line is not pinned, by that job or another. -/
def State.racedJob (s : State) (write : Bool) (pa : Nat) : Option Job :=
  s.jobs.find? fun j => !j.complete &&
    (j.writes.any (·.covers pa) || (write && j.reads.any (·.covers pa) && (s.line (pa / 128)).pinned.isEmpty))

/-- Unit number of a job's engine (R272). -/
def Job.unit (j : Job) : Nat := (if j.copy then 1040 else 1168) + j.cluster

/-- Containment record of a footprint race (R283). -/
def State.raceRecord (s : State) (p : Party) (sc : Scope) (pa kid : Nat) (j : Job) : Vector DWord 4 :=
  #v[BitVec.ofNat 64 (pa / 128 * 2 ^ 19 + kid * 2 ^ 9 + sc.code * 2 ^ 6 + 4),
     BitVec.ofNat 64 ((s.line (pa / 128)).interval * 2 ^ 32 + j.unit * 2 ^ 12 + (2048 + p.clockUnit)),
     BitVec.ofNat 64 (s.clock p.clockUnit).toNat, s.rtime]

/-- The crew's stash window that holds a VA (R125). -/
def State.windowAt (s : State) (p : Party) (va : Nat) : Option Window :=
  match s.crewOf p with
  | some c => c.windows.toList.findSome? fun w =>
      w.bind fun x => if decide (x.va ≤ va) && decide (va < x.va + x.len) then some x else none
  | none => none

/-- A store to a VA goes into the tentative range of the crew's draft window (R136). -/
def State.draftStore (s : State) (p : Party) (k : Acc) (va : Nat) : Bool :=
  k == .store && !p.isThread && (s.draftAt p va).any (·.tentative va)

/-- What the word's own rules forbid, order 5 of R357: peers (R236, R370), stash windows (R125), draft windows (R136),
register windows (R70, R86, R301). -/
def State.forbidden (s : State) (p : Party) (k : Acc) (sc : Scope) (va len : Nat) (t : Trans) : Bool :=
  let write := k == .store || k == .atomic
  let peer := regionOf t.pa == .peer && (sc != .sys || p.isThread || !(s.ports[natBits t.pa 47 44]?.any (·.up)))
  let win := match s.windowAt p va with
    | some _ => t.mt == 1 || t.mt == 2
    | none => false
  let draft := match s.draftAt p va with
    | some d => t.mt != 0 || (write && decide (d.slot va ≥ d.c + 16)) || (k == .atomic && d.tentative va)
    | none => false
  let reg := regionOf t.pa == .window &&
    match controlStoreAt t.pa with
    | some (c, o) => !(p.sup && len == 4) ||
        (write && c == p.core && p.holdsSlot (o / 256))
    | none => match placementAt t.pa with
      | some _ => !(p.sup && len == 8)
      | none => true
  let mt := k == .atomic && (t.mt == 1 || t.mt == 2)
  peer || win || draft || reg || mt

/-- Accesses of a word race with no live job: one that does raises FPRT with its record (R242). -/
def checkRaces (sc : Scope) (write : Bool) (ts : List Trans) : Act Unit := fun s =>
  match ts.findSome? fun t => (s.racedJob write t.pa).map fun j => (t, j) with
  | some (t, j) => .error (.race (s.raceRecord s.me sc t.pa t.kid j))
  | none => .ok ((), s)

/-- Translate and check the lanes of an access; causes come in the order of R118, whatever the lane: ALGN, XLAT, PERM, then
HOME (R395) and FPRT (R242). `size` is the size of the access that each part is, which a register window tests (R70), and `len` the bytes
of a part. Answers the lanes with their addresses and keys, A and D having been set. -/
def accessAs (k : Acc) (size : Nat) (sc : Scope) (len : Nat) (parts : List (Fin 32 × Nat × List Byte)) : Act (List LaneAcc) := do
  let s ← get
  let p := s.me
  check (parts.all fun x => x.2.1 % len == 0) .algn
  let ts := parts.map fun x => (x, s.translate p k x.2.1)
  checkAccess ts (·.1.2.1) (fun _ => k) (fun x => match x.2 with | .error .xlat => false | _ => true) .xlat
  checkAccess ts (·.1.2.1) (fun _ => k) (fun x => match x.2 with | .ok t => !s.forbidden p k sc x.1.2.1 size t | .error _ => false) .perm
  let ok := ts.filterMap fun x => match x.2 with | .ok t => some (x.1, t) | .error _ => none
  check (ok.all fun x => !s.homeLost p k x.2.pa x.2.kid) .home
  checkRaces sc (k == .store || k == .atomic) (ok.map (·.2))
  change fun s => ok.foldl (fun st x => st.noteAccess p k x.1.2.1 x.2) s
  pure (ok.map fun x => { lane := x.1.1, va := x.1.2.1, pa := x.2.pa, kid := x.2.kid, mt := x.2.mt, len, data := x.1.2.2
                          tent := s.draftStore p k x.1.2.1 })

/-- The lanes of a load, a store or an atomic: each is an access of `len` bytes (R117). -/
def accessLanes (k : Acc) (sc : Scope) (len : Nat) (parts : List (Fin 32 × Nat × List Byte)) : Act (List LaneAcc) :=
  accessAs k len sc len parts

/-- The bytes that a word reads or writes as a whole, as VSPILL, VFILL, DWOPEN, ENQ and the copy words do, in 4-byte parts: no part is an
access of 4 or 8 bytes, so a register window refuses it (R70). -/
def accessWhole (k : Acc) (parts : List (Fin 32 × Nat × List Byte)) : Act (List LaneAcc) := accessAs k 0 .none 4 parts

/-- Entries that the reorder checker of a core is still to receive, from outstanding words and from waits whose end is an acquire (R276,
R277). -/
def State.entriesDue (s : State) (u : Nat) : Nat :=
  let acquires (q : Port) : Bool := match q.wait with | some (.bar ..) | some (.jwait _) => true | _ => false
  s.parties.foldl (fun n p => if p.clockUnit != u then n
    else n + (p.pend.filter fun e => !e.performed && e.tp == 0 && (e.accesses || e.isRelease || e.isAcquire)).length +
      ([p.port, p.mate].filter acquires).length) 0

/-- The reorder checker of the issuing party's core has room for n entries, and the core's clock has not run too far (R269, R277). -/
def State.checkerFree (s : State) (n : Nat) : Bool :=
  decide ((s.core s.me.clockUnit).reorder.length + s.entriesDue s.me.clockUnit + n ≤ 512) && !s.clockAhead s.me.clockUnit

/-- A memory word of n entries waits for that. -/
def checkerRoomFor (n : Nat) : Act Unit := do
  let s ← get
  waitFor (s.checkerFree n)

/-- Room for the one entry of a memory word (R277). -/
def checkerRoom : Act Unit := checkerRoomFor 1

/-- Room on the load counter (R47). -/
def loadRoom : Act Unit := do
  let s ← get
  waitFor (decide (s.me.loads < 30))

/-- Room on the store counter (R47). -/
def storeRoom : Act Unit := do
  let s ← get
  waitFor (decide (s.me.stores < 30))

/-- Virtual address of a lane: base plus zero-extended offset, modulo 2^64 (R117). -/
def laneVa (base : DWord) (off : VReg) (l : Fin 32) : Nat := (base + zext64 off.val[l]).toNat

/-- Base register of an FM word; a poisoned one is consumed when a lane is active (log 21). -/
def baseReg (n : Fin 56) (used : Bool) : Act DWord := do
  let s ← get
  let r := s.seeS n
  check (!(r.poison && used)) .pois
  pure r.val

/-! ## Loads and stores (R119-R122) -/

/-- A vector load of `len` bytes per lane into `regs` names (R119, R121). -/
def loadWord (f : FMem) (ext : LoadExt) (len regs : Nat) : State → Out :=
  word f.w 1 do
    checkerRoom
    loadRoom
    let s ← get
    let act := s.me.active
    let freed := if f.lx then [f.a] else []
    let dests := (List.range regs).map (vnext f.d)
    checkVreg freed dests
    let base ← baseReg f.s (act != 0)
    let off := s.seeV f.a
    check (off.poison &&& act == 0) .pois
    let accs ← accessLanes .load f.scope len ((LaneMask.lanes act).map fun l => (l, laneVa base off l, []))
    changeMe fun p => p.freeAll freed
    changeMe fun p => p.addPend (.load ext f.d regs) act accs f.ord f.scope none (if act == 0 then [] else dests)

/-- Lane data of a store, in ascending address order. -/
def storeBytes (regs : List VReg) (len : Nat) (l : Fin 32) : List Byte :=
  (regs.flatMap fun r => bytesLE 4 r.val[l].toNat).take len

/-- EARLYREL is to send a store ahead: the party's next release store, none of it tentative (R136, R287). -/
def Party.injects (p : Party) (e : Pend) : Bool :=
  p.injOp == 1 && e.ord && !e.accs.isEmpty && e.past.isEmpty && e.accs.all (fun a => !a.tent) &&
    match e.kind with | .store .. => true | _ => false

/-- EARLYREL: a release store is sent to its home at once, before earlier stores are performed. The home slice takes each of its lines with PERM
W for one new interval and performs the lanes of the line there, at its own time (R270, R287, R311). A pinned line, a home in a relock and a CLAIM
hold it as they hold any store (R193, R258, R308). -/
def State.injEarly (s : State) (i : Ident) (n : Nat) : State :=
  match s.pendOf i n with
  | none => s
  | some (p, e) =>
    if s.obstructed p e then s
    else
    let keys := (e.accs.map fun a => (a.pa / 128, a.kid)).eraseDups
    let s1 := keys.foldl (fun t k => t.takeHome p.clockUnit (k.1 * 128) k.2) s
    let put (x : State × List LaneAcc) (a : LaneAcc) : State × List LaneAcc :=
      let u := x.1.servingUnit a.pa
      let t := x.1.tick u
      (((t.writeAcc a).noteWrite (a.pa / 128)).touchMonitors p.ident (a.pa / 128), x.2 ++ [a.stamped (t.reached u (a.pa / 128))])
    let (s2, bs) := e.accs.foldl put (s1, [])
    let s3 := keys.foldl (fun t k => t.message (t.servingUnit (k.1 * 128)) p.clockUnit) s2
    let s4 := if Scope.wide e.scope then s3.seal p.clockUnit else s3
    let d : Pend := { e with accs := bs }
    (((s4.logAccess p d).drawing p d).dropPend p.ident n).injDone p.ident

/-- A vector store of `len` bytes per lane from `regs` names (R119-R121). -/
def storeWord (f : FMem) (len regs : Nat) : State → Out :=
  word f.w 1 do
    checkerRoom
    storeRoom
    let s ← get
    let act := s.me.active
    let names := (List.range regs).map (vnext f.d)
    let base ← baseReg f.s (act != 0)
    let data := names.map s.seeV
    let off := s.seeV f.a
    check ((data.foldl (fun m r => m ||| r.poison) off.poison) &&& act == 0) .pois
    let accs ← accessLanes .store f.scope len
      ((LaneMask.lanes act).map fun l => (l, laneVa base off l, storeBytes data len l))
    changeMe fun p => p.freeAll (if f.lx then names ++ [f.a] else [])
    changeMe fun p => p.addPend (.store true true) act accs f.ord f.scope none []
    change fun t => if t.me.pend.getLast?.any t.me.injects then t.injEarly t.me.ident s.me.nextId else t

/-- LDB (R119). -/
def execLdb (f : FMem) : State → Out := loadWord f .zero 1 1
/-- LDBS (R119). -/
def execLdbs (f : FMem) : State → Out := loadWord f .sign 1 1
/-- LDH (R119). -/
def execLdh (f : FMem) : State → Out := loadWord f .zero 2 1
/-- LDHS (R119). -/
def execLdhs (f : FMem) : State → Out := loadWord f .sign 2 1
/-- LDW (R119). -/
def execLdw (f : FMem) : State → Out := loadWord f .zero 4 1
/-- LDD (R119). -/
def execLdd (f : FMem) : State → Out := loadWord f .zero 8 2
/-- LDQ (R119). -/
def execLdq (f : FMem) : State → Out := loadWord f .zero 16 4
/-- STB (R119). -/
def execStb (f : FMem) : State → Out := storeWord f 1 1
/-- STH (R119). -/
def execSth (f : FMem) : State → Out := storeWord f 2 1
/-- STW (R119). -/
def execStw (f : FMem) : State → Out := storeWord f 4 1
/-- STD (R119). -/
def execStd (f : FMem) : State → Out := storeWord f 8 2
/-- STQ (R119). -/
def execStq (f : FMem) : State → Out := storeWord f 16 4

/-! ## SLD and SST (R111) -/

/-- SLD. -/
def execSld (w : Bool) (d a : Fin 56) (i : BitVec 13) : State → Out :=
  word w 1 do
    checkerRoom
    loadRoom
    let x ← readS (.s a)
    let accs ← accessLanes .load .none 8 [(0, (x + sext64 i).toNat, [])]
    changeMe fun p => p.addPend (.sld d) 0xFFFFFFFF accs false .none none []

/-- SST: counted by no counter. -/
def execSst (w : Bool) (d : SOp) (a : Fin 56) (i : BitVec 13) : State → Out :=
  word w 1 do
    checkerRoom
    let vs ← readClean [d, .s a]
    let accs ← accessLanes .store .none 8 [(0, (vs.getD 1 0 + sext64 i).toNat, bytesLE 8 (vs.getD 0 0).toNat)]
    changeMe fun p => p.addPend (.store false false) 0xFFFFFFFF accs false .none none []

/-! ## Accesses made at issue -/

/-- A relaxed word of the party that is performed as it issues. -/
def Party.wordNow (p : Party) (k : PendKind) (accs : List LaneAcc) : Pend :=
  { id := p.nextId, kind := k, active := 0, accs, past := [], vals := [], ord := false, scope := .none, bound := none
    performed := false, early := 0, flags := 0, tp := 0, pos := 0, dests := [] }

/-- Such a word takes its times and its reorder entry, and is kept for the checkers (R270, R276, R281). -/
def State.logNow (s : State) (k : PendKind) (accs : List LaneAcc) : State :=
  let e := s.me.wordNow k accs
  let u := s.keepPort fun s => (s.logAccess s.me e).drawing s.me e
  u.setMe { u.me with nextId := u.me.nextId + 1 }

/-- An acquire that completes, of BAR, JWAIT, JSTAT or MSYNC, is entered for the checkers with the loads it made (R266, R267, R276, R280). -/
def State.logAcquire (s : State) (i : Ident) (o : Scope) (accs : List LaneAcc) : State :=
  match s.party i with
  | none => s
  | some p =>
    let e : Pend := { p.wordNow (.load .zero 0 0) accs with ord := true, scope := o }
    (s.keepPort fun s => ((s.tick p.clockUnit).logAccess p e).drawing p e).changeParty i fun q => { q with nextId := q.nextId + 1 }

/-- Read memory at issue, in the party's order (used where no later word issues until the read is done): the bytes of each
part, and whether an element of it is poisoned. Holds while an earlier access must come first and cannot yet, or while the read itself
cannot be performed. -/
def readNow (accs : List LaneAcc) : Act (List (List Byte × Bool)) := do
  let s ← get
  let e := s.me.wordNow (.sld 0) accs
  let i := s.me.ident
  let s1 := s.me.pend.foldl (fun t x => if x.performed || !mustPrecede x e then t else t.perform i x.id false) s
  waitFor (s1.me.pend.all fun x => x.performed || !mustPrecede x e)
  waitFor (!s1.obstructed s1.me e)
  let (s2, bs, got) := s1.loadLanes s1.me e accs
  set (s.keepPort fun _ => s2.logNow (.sld 0) bs)
  pure (got.map fun x => (x.2.1, x.2.2.any id))

/-- Aligned 4-byte parts of [va, va + 4n). -/
def wordParts (va n : Nat) : List (Fin 32 × Nat × List Byte) := (rangeFrom va 4 n).map fun a => (0, a, [])

/-! ## Spill records (R130-R132) -/

/-- Deltas from lane 0 fit k bits as signed numbers. -/
def deltasFit (v : Lanes Word) (k : Nat) : Bool :=
  (List.finRange 32).all fun l =>
    let d := (v[l] - v[0]).toInt
    decide (-(2 ^ (k - 1)) ≤ d) && decide (d < 2 ^ (k - 1))

/-- FMT of a register: 0 unbound, else the first of 1 to 4 that holds every lane (R131). -/
def spillFmt (v : Option VReg) : Nat :=
  match v with
  | none => 0
  | some r =>
    if (List.finRange 32).all fun l => r.val[l] == r.val[0] then 1
    else if deltasFit r.val 8 then 2 else if deltasFit r.val 16 then 3 else 4

/-- The record of a register (R130). -/
def spillRecord (v : Option VReg) : List Byte :=
  let fmt := spillFmt v
  let r := v.getD .zero
  let tag := bytesLE 4 (0x5653 * 65536 + spillLen fmt * 256 + fmt) ++ bytesLE 4 r.poison.toNat ++ bytesLE 8 0
  let d (l : Fin 32) : Word := r.val[l] - r.val[0]
  let pay := match fmt with
    | 0 => []
    | 1 => bytesLE 4 r.val[0].toNat
    | 2 => bytesLE 4 r.val[0].toNat ++ (List.finRange 32).flatMap fun l => bytesLE 1 (d l).toNat
    | 3 => bytesLE 4 r.val[0].toNat ++ (List.finRange 32).flatMap fun l => bytesLE 2 (d l).toNat
    | _ => (List.finRange 32).flatMap fun l => bytesLE 4 r.val[l].toNat
  tag ++ pay

/-- The register VSPILL writes: bound or not. In each lane a pending long result that has returned may be seen, and so may a VFILL that unbinds
the name (R57, R132, log 5). -/
def State.spillSource (s : State) (n : Fin 116) : Option VReg :=
  s.me.pend.foldl (fun acc e =>
    match e.bound, e.dests.idxOf? n with
    | some [], some _ => if Config.freeBit [0, s.fresh, e.id, n.val] then none else acc
    | some regs, some k =>
      let seen := maskOf fun l => e.active.has l && Config.freeBit [0, s.fresh, e.id, n.val, l.val]
      if seen == 0 then acc else some (mergeV acc seen (regs.getD k .zero))
    | _, _ => acc) s.me.vregs[n]

/-- VSPILL: all 32 lanes, active or not; poison is saved and raises nothing (R131). -/
def execVspill (w : Bool) (d : Fin 116) (n : Fin 56) (x : Bool) : State → Out :=
  word w 1 do
    checkerRoom
    storeRoom
    let base ← baseReg n true
    check (base.toNat % 16 == 0) .algn
    let s ← get
    let rec0 := spillRecord (s.spillSource d)
    let parts := (List.range (rec0.length / 4)).map fun k =>
      ((0 : Fin 32), (base.toNat + 4 * k) % 2 ^ 64, (rec0.drop (4 * k)).take 4)
    let accs ← accessWhole .store parts
    changeMe fun p => p.freeAll (if x then [d] else [])
    changeMe fun p => p.addPend (.store true true) 0 accs false .none none []

/-- VFILL: the tag, then the payload it names; all 32 lanes (R132). -/
def execVfill (w : Bool) (d : Fin 116) (n : Fin 56) : State → Out :=
  word w 1 do
    checkerRoomFor 2
    loadRoom
    let s ← get
    check (s.me.fits [] [d]) .illi
    let base ← baseReg n true
    check (base.toNat % 16 == 0) .algn
    let tagAccs ← accessWhole .load (wordParts base.toNat 4)
    let tag ← readNow tagAccs
    let t := natLE ((tag.flatMap (·.1)).take 4)
    let fmt := natBits t 7 0
    let good := natBits t 31 16 == 0x5653 && decide (fmt ≤ 4) && natBits t 15 8 == spillLen fmt &&
      natLE ((tag.flatMap (·.1)).drop 8) == 0 && !tag.any (·.2)
    let payAccs ← accessWhole .load (if good then wordParts (base.toNat + 16) (spillLen fmt / 4) else [])
    let pay ← readNow payAccs
    let regs := match fillReg (tag ++ pay) with | some v => [v] | none => []
    changeMe fun p =>
      let q := p.addPend (.vfill d) 0xFFFFFFFF [] false .none (some regs) [d]
      { q with pend := q.pend.map fun e => if e.id == p.nextId then { e with performed := true } else e }

/-! ## PREF (R133) -/

/-- A line is brought into the L1, or into the cluster's L2, which holds lines homed on other dies (R256, R290). It is dropped where something
holds its access: a job, a pin, a relock, a CLAIM (R133, R193, R258, R308). -/
def State.prefetch (s : State) (p : Party) (l2 ex : Bool) (t : Trans) : State :=
  let a : LaneAcc := { lane := 0, va := 0, pa := t.pa, kid := t.kid, mt := t.mt, len := 1, data := [] }
  if s.obstructed p (p.wordNow (if ex then .store false false else .sld 0) [a]) then s
  else if !l2 then s.fill p t.pa 1 t.kid ex
  else match s.remoteUnit p.cluster t.pa with
    | some r => s.holdBy r none p.die t.pa 1 t.kid ex false
    | none => s

/-- PREF: the line of each active lane whose access is allowed is taken into the L1, or into the cluster's L2; nothing a
program reads changes, and no cause is raised. -/
def execPref (w l2 ex : Bool) (a : Fin 116) (n : Fin 56) (x : Bool) : State → Out :=
  word w 1 do
    checkerRoom
    let s ← get
    let p := s.me
    let base := (s.seeS n).val
    let off := s.seeV a
    let good := (LaneMask.lanes p.active).filterMap fun l =>
      match s.translate p (if ex then .store else .load) (laneVa base off l) with
      | .ok t => if (t.mt == 0 || t.mt == 3) && !s.homeLost p .load t.pa t.kid && !off.poison.has l && (s.racedJob ex t.pa).isNone then some t else none
      | .error _ => none
    change fun s => good.foldl (fun t y => t.prefetch p l2 ex y) s
    changeMe fun p => p.freeAll (if x then [a] else [])

end Sys2Proof.Machine
end

