-- ==== Sys2Proof/Machine/Stash.lean ====
section
/-! DEFINITION. Stash windows (R123-R126), message queues (R127-R129) and draft windows (R134-R137). -/

namespace Sys2Proof.Machine

open Sys2Proof

/-! ## Stash windows -/

/-- Bytes of stash a core has for windows and draft areas: below the queue area when it holds at least 64 KiB (R12, R123). -/
def Core.stashBytes (c : Core) : Nat := if c.split == 0 then 0 else c.split * 65536 - 32768

/-- Two ranges overlap. -/
def rangesMeet (a la b lb : Nat) : Bool := decide (0 < la) && decide (0 < lb) && overlaps a la b lb

/-- Size of a draft window's tentative area (R134). -/
def Draft.area (d : Draft) : Nat := 16 * d.slotsz

/-- The run-time check of SMAP (R123, R124). -/
def smapLegal (core : Core) (c : Crew) (n : Fin 8) (va len off : Nat) : Bool :=
  c.windows[n].isNone && va % 128 == 0 && off % 128 == 0 && len % 128 == 0 && decide (128 ≤ len) &&
  decide (len ≤ 320 * 1024) && decide (off + len ≤ core.stashBytes) &&
  (c.windows.toList.all fun w => match w with
    | some x => !rangesMeet va len x.va x.len && !rangesMeet off len x.off x.len
    | none => true) &&
  (match c.draft with
    | some d => !rangesMeet va len d.base (d.nslot * d.slotsz) && !rangesMeet off len d.stashoff d.area
    | none => true)

/-- S register n + k. -/
def snext (n : Fin 56) (k : Nat) : Fin 56 := Fin.ofNat 56 (n.val + k)

/-- SMAP: maps window n with the three values at issue; it translates and moves nothing (R124). A poisoned value raises POIS before the window is
looked at: R118 gives a uniform operand no place in its order (DESIGN CHOICE, log 21). -/
def execSmap (w : Bool) (n : Fin 8) (r : Fin 56) : State → Out :=
  word w 1 do
    checkerRoom
    let va ← readS (.s r)
    let len ← readS (.s (snext r 1))
    let off ← readS (.s (snext r 2))
    let s ← get
    match s.crewOf s.me with
    | none => raise .illi
    | some c =>
      check (smapLegal (s.core s.me.core) c n va.toNat len.toNat off.toNat) .illi
      change fun s => s.changeCrew s.me fun c =>
        { c with windows := c.windows.set n (some { va := va.toNat, len := len.toNat, off := off.toNat, asid := s.me.asid, lines := [], dirty := [] }) }

/-- Outstanding accesses of a crew's gangs to a range of VAs. -/
def State.crewTouches (s : State) (p : Party) (va len : Nat) : Bool :=
  s.parties.any fun q => q.bundle == p.bundle && q.stage == p.stage && q.crew == p.crew && !q.isThread &&
    q.pend.any fun e => !e.performed && e.accs.any fun a => overlaps a.va a.len va len

/-- Drop every line of a window. Of those that the core still holds dirty, what their home holds, bytes and poison, is the line's value again,
and their interval closes as a discard interval (R126, R237, R378). -/
def State.discardWindow (s : State) (unit : Nat) (x : Window) : State :=
  let dropped := x.dirty.foldl (fun t (n, home) =>
    if ((t.line n).holders.any fun h => h.unit == unit && h.st == .m) then t.discardLine unit n home.1 home.2 else t) s
  x.lines.foldl (fun t n => t.release unit n .close) dropped

/-- SUNMAP: performed once every access to the window issued before it has completed; without .DISCARD it counts as a store
until its dirty lines are written home (R126). With .DISCARD it is a relaxed store to each dirty line, performed at once: it waits for what
the gang has ordered before it (R228, R237). -/
def execSunmap (w : Bool) (n : Fin 8) (discard : Bool) : State → Out :=
  word w 1 do
    checkerRoom
    storeRoom
    let s ← get
    match s.crewOf s.me with
    | none => raise .illi
    | some c =>
      match c.windows[n] with
      | none => raise .illi
      | some x =>
        waitFor (!s.crewTouches s.me x.va x.len)
        let accs : List LaneAcc := (if discard then x.dirty.map (·.1) else x.lines).map fun k =>
          { lane := 0, va := 0, pa := k * 128, kid := (s.line k).kid, mt := 0, len := 128, data := [], tent := false }
        if discard then waitFor (s.me.ready (s.me.wordNow (.store false false) accs)) else pure ()
        change fun s => s.changeCrew s.me fun c => { c with windows := c.windows.set n none }
        let drop (s : State) : State :=
          let t := s.discardWindow s.me.unit x
          let (u, bs) := t.stampAll t.me accs
          u.logNow (.store false false) bs
        if discard then change drop
        else
          changeMe fun p => p.addPend (.sunmap n.val) 0 accs false .none none []

/-! ## Message queues -/

/-- A core's queues serve the party's bundle (R127, R328). -/
def State.mqServes (s : State) (core : Nat) (p : Party) : Bool :=
  (s.core core).mqOwner == some p.bundle && decide (1 ≤ (s.core core).split)

/-- MQPUT (R128, R129). The queues it needs are the target core's (R127). A poisoned selector raises POIS before its bits are used, so before
QERR: R118 gives a uniform operand no place in its order (log 21). -/
def execMqput (w : Bool) (d : Fin 116) (r : Fin 56) (x : Bool) (o : Scope) : State → Out :=
  word w 1 do
    checkerRoom
    let tgt ← baseReg r true
    let s ← get
    let k := natBits tgt.toNat 1 0
    let q := natBits tgt.toNat 3 2
    let core := s.me.core / 4 * 4 + k
    check (decide (tgt.toNat < 16) && s.mqServes core s.me) .qerr
    waitFor (decide (s.me.engines < 6))
    waitFor (decide (0 < (s.core s.me.core).credits[4 * k + q]?.getD 0))
    let v := s.seeV d
    check (v.poison &&& s.me.active == 0) .pois
    change fun s => s.changeCore s.me.core fun c =>
      { c with credits := c.credits.setIfInBounds (4 * k + q) (c.credits[4 * k + q]?.getD 1 - 1) }
    changeMe fun p =>
      { ((p.freeAll (if x then [d] else [])).addPend (.mqput core q (mergeV none p.active v)) p.active []
          (o != .none) o none []) with noFlush := true }

/-- MQGET: takes the head entry, whose place's credit returns to the core that put it (R127-R129). A poisoned selector is as in MQPUT, and comes before the
ILLI of a destination beyond VREG too (log 21). -/
def execMqget (w : Bool) (d : Fin 116) (r : Fin 56) (o : Scope) : State → Out :=
  word w 1 do
    checkerRoom
    let src ← baseReg r true
    checkVreg [] [d]
    let s ← get
    let q := natBits src.toNat 1 0
    check (decide (src.toNat < 4) && s.mqServes s.me.core s.me) .qerr
    waitFor (decide (s.me.engines < 6))
    match (s.core s.me.core).mq[q]?.getD [] with
    | [] => hold
    | e :: rest =>
      change fun s => s.changeCore s.me.core fun c => { c with mq := c.mq.setIfInBounds q rest }
      change fun s =>
        let k := s.me.core % 4
        s.changeCore (s.me.core / 4 * 4 + e.sender) fun c =>
          { c with credits := c.credits.setIfInBounds (4 * k + q) (c.credits[4 * k + q]?.getD 0 + 1) }
      changeMe fun p =>
        { (p.addPend (.mqget d e.entry) p.active [] (o != .none) o (some [e.entry]) (if p.active == 0 then [] else [d])) with
          noFlush := true }

/-- An MQPUT whose conditions are met enters its queue, after the MQPUTs its gang issued before it (R128). -/
def State.mqArrive (s : State) (p : Party) (e : Pend) : State :=
  match e.kind with
  | .mqput core q v =>
    (s.changeCore core fun c =>
      { c with mq := c.mq.setIfInBounds q ((c.mq[q]?.getD []) ++ [{ sender := p.core % 4, entry := v }]) }).dropPend p.ident e.id
  | _ => s

/-! ## Draft windows -/

/-- A 32-bit field of a descriptor. -/
def field32 (bs : List Byte) (o : Nat) : Nat := natLE ((bs.drop o).take 4)

/-- The checks of R134 and R135 on a descriptor. -/
def draftLegal (core : Core) (c : Crew) (d : Draft) (bs : List Byte) : Bool :=
  c.draft.isNone && d.base % 128 == 0 && d.slotsz % 128 == 0 && decide (128 ≤ d.slotsz) &&
  decide (field32 bs 16 ≤ 16) && decide (d.c ≤ d.nslot) && d.stashoff % 128 == 0 && field32 bs 28 == 0 &&
  decide (d.stashoff + d.area ≤ core.stashBytes) &&
  (c.windows.toList.all fun w => match w with
    | some x => !rangesMeet d.stashoff d.area x.off x.len && !rangesMeet d.base (d.nslot * d.slotsz) x.va x.len
    | none => true)

/-- Relaxed stores of a gang made by a draft-window word: counted by no counter (R47, R137). Every piece is translated and checked before any
is stored; a piece is a whole element or bytes of one. They go to memory, whatever window they lie in. -/
def plainStores (groups : List (List (Fin 32 × Nat × List Byte))) : Act Unit := do
  let accs ← accessAs .store 0 .none 1 groups.flatten
  let put (a : LaneAcc) : LaneAcc := { a with len := a.data.length, tent := false }
  let cut := groups.foldl (fun (x : List (List LaneAcc) × List LaneAcc) g =>
    (x.1 ++ [(x.2.take g.length).map put], x.2.drop g.length)) ([], accs)
  changeMe fun p => cut.1.foldl (fun q as => q.addPend (.store false false) 0 as false .none none []) p

/-- A word that closes a draft window or commits from it takes what the crew has stored into the window: it does not issue while such a store
is still to be performed (R136, R137, log 84). -/
def State.draftQuiet (s : State) (p : Party) (d : Draft) : Bool := !s.crewTouches p d.base (d.nslot * d.slotsz)

/-- DWOPEN and DWOPEN.CLOSE (R135). That a window is open already needs no descriptor, so it comes first; a descriptor that reads back
poisoned raises POIS, its fields having no value to check (R118, R135). -/
def execDwopen (w : Bool) (close : Bool) (r : Fin 56) : State → Out :=
  word w 1 do
    checkerRoom
    let s ← get
    match s.crewOf s.me with
    | none => raise .illi
    | some c =>
      if close then
        match c.draft with
        | none => raise .illi
        | some d =>
          check (d.holder == s.me.ident) .illi
          waitFor (s.draftQuiet s.me d)
          plainStores [[(0, d.desc + 12, bytesLE 4 d.c), (0, d.desc + 16, bytesLE 4 0)]]
          change fun s => s.changeCrew s.me fun c => { c with draft := none }
      else
        check c.draft.isNone .illi
        let base ← baseReg r true
        check (base.toNat % 32 == 0) .algn
        let accs ← accessWhole .load (wordParts base.toNat 8)
        let parts ← readNow accs
        check (parts.all (!·.2)) .pois
        let bs := parts.flatMap (·.1)
        let d : Draft :=
          { holder := s.me.ident, desc := base.toNat, base := natLE (bs.take 8), slotsz := field32 bs 8, c := field32 bs 12,
            t := 0, nslot := field32 bs 20, stashoff := field32 bs 24, bytes := [] }
        check (draftLegal (s.core s.me.core) c d bs) .illi
        change fun s => s.changeCrew s.me fun c => { c with draft := some d }

/-- The tentative bytes of slots [c, c + n), grouped in ascending lines of consecutive bytes. -/
def Draft.accepted (d : Draft) (n : Nat) : List (Nat × Byte) :=
  d.bytes.filter fun x => decide (d.slot x.1 < d.c + n)

/-- The commit stores of accepted bytes: an element that is written whole is one 4-byte store, any other byte its own (R137, R378). -/
def Draft.commits (d : Draft) (n : Nat) : List (Fin 32 × Nat × List Byte) :=
  let bs := d.accepted n
  let whole (a : Nat) : Bool := (List.range 4).all fun i => (Tbl.get bs (a / 4 * 4 + i)).isSome
  bs.filterMap fun x =>
    if !whole x.1 then some (0, x.1, [x.2])
    else if x.1 % 4 == 0 then some (0, x.1, (List.range 4).map fun i => Tbl.getD bs (x.1 + i) 0)
    else none

/-- DWACC: the accepted slots' bytes go to memory as relaxed stores, the rest is forgotten, and the descriptor is updated by
stores after them (R137). Without a window there is nothing to count, so ILLI comes first; then a poisoned count (R118, log 21). -/
def execDwacc (w : Bool) (r : Fin 56) : State → Out :=
  word w 1 do
    checkerRoomFor 2
    let s ← get
    match (s.crewOf s.me).bind (·.draft) with
    | none => raise .illi
    | some d =>
      check (d.holder == s.me.ident) .illi
      waitFor (s.draftQuiet s.me d)
      let n ← baseReg r true
      check (decide (n.toNat ≤ d.t) && decide (d.c + n.toNat ≤ d.nslot)) .illi
      let c1 := d.c + n.toNat
      plainStores [d.commits n.toNat, [(0, d.desc + 12, bytesLE 4 c1), (0, d.desc + 16, bytesLE 4 0)]]
      change fun s => s.changeCrew s.me fun c => { c with draft := some { d with c := c1, t := 0, bytes := [] } }

end Sys2Proof.Machine
end

