-- ==== Sys2Proof/Machine/Atomic.lean ====
section
/-! DEFINITION. Words on memory as shared state: atomics (R246-R251), FENCE (R252), MON and MWAIT (R253-R255), CMO (R256,
R257), CLAIM (R258, R302) and BAR (R259, R260). -/

namespace Sys2Proof.Machine

open Sys2Proof

/-! ## Atomics -/

/-- An atomic: D holds the operand and receives the old value; ACAS reads D and D+1 (R248). -/
def atomicWord (f : FMem) (op : AtomOp) (names : Nat) : State → Out :=
  word f.w 1 do
    checkerRoom
    loadRoom
    let s ← get
    let act := s.me.active
    let ops := (List.range names).map (vnext f.d)
    let freed := if f.lx then ops ++ [f.a] else []
    checkVreg freed [f.d]
    let base ← baseReg f.s (act != 0)
    let data := ops.map s.seeV
    let off := s.seeV f.a
    check ((data.foldl (fun m r => m ||| r.poison) off.poison) &&& act == 0) .pois
    let accs ← accessLanes .atomic f.scope 4 ((LaneMask.lanes act).map fun l => (l, laneVa base off l, []))
    changeMe fun p => p.freeAll freed
    changeMe fun p =>
      p.addPend (.atomic op f.d (data.getD 0 .zero).val (data.getD 1 .zero).val) act accs f.ord f.scope none
        (if act == 0 then [] else [f.d])

/-- AADD (R248). -/
def execAadd (f : FMem) : State → Out := atomicWord f .add 1
/-- AMIN (R248). -/
def execAmin (f : FMem) : State → Out := atomicWord f .min 1
/-- AMAX (R248). -/
def execAmax (f : FMem) : State → Out := atomicWord f .max 1
/-- AMINU (R248). -/
def execAminu (f : FMem) : State → Out := atomicWord f .minu 1
/-- AMAXU (R248). -/
def execAmaxu (f : FMem) : State → Out := atomicWord f .maxu 1
/-- AAND (R248). -/
def execAand (f : FMem) : State → Out := atomicWord f .and 1
/-- AOR (R248). -/
def execAor (f : FMem) : State → Out := atomicWord f .or 1
/-- AXOR (R248). -/
def execAxor (f : FMem) : State → Out := atomicWord f .xor 1
/-- AXCH (R248). -/
def execAxch (f : FMem) : State → Out := atomicWord f .xch 1
/-- ACAS: D+1 keeps its value (R248). -/
def execAcas (f : FMem) : State → Out := atomicWord f .cas 2
/-- AFADD (R248). -/
def execAfadd (f : FMem) : State → Out := atomicWord f .fadd 1

/-! ## FENCE, MON, MWAIT -/

/-- FENCE: an outstanding word without data, on no counter; behind .FULL no later word issues (R252). -/
def execFence (w : Bool) (k : FenceKind) (o : Scope) : State → Out :=
  word w 1 do
    checkerRoom
    changeMe fun p => p.addPend (.fence k) 0 [] true o none []

/-- The page of an aligned address is of none of the given memory types. -/
def checkMt (len va : Nat) (k : Acc) (good : Nat → Bool) : Act Unit := do
  let s ← get
  match s.translate s.me k va with
  | .ok t => checkAccess [va] id (fun _ => k) (fun _ => va % len != 0 || good t.mt) .perm
  | .error _ => pure ()

/-- MON: watches the line of the lowest active lane; a MON with no active lane disarms the monitor (R253). -/
def execMon (w : Bool) (a : Fin 116) (n : Fin 56) (x : Bool) : State → Out :=
  word w 1 do
    checkerRoom
    loadRoom
    let s ← get
    let freed := if x then [a] else []
    match LaneMask.lanes s.me.active with
    | [] => changeMe fun p => { p.freeAll freed with monitor := none, monPend := none }
    | l :: _ =>
      let base ← baseReg n true
      let off := s.seeV a
      check (!off.poison.has l) .pois
      let va := laneVa base off l
      checkMt 4 va .load fun mt => mt == 0 || mt == 3
      let accs ← accessLanes .load .none 4 [(l, va, [])]
      changeMe fun p => { (p.freeAll freed).addPend .mon 0 accs false .none none [] with monitor := none, monPend := some p.nextId }

/-- The watched line's interval, or its sub-interval beneath the cluster's remote copy, is no longer the recorded one
(R253, R254). -/
def State.monitorFired (s : State) (p : Party) (m : Monitor) : Bool :=
  let l := s.line m.line
  let sub := (s.remoteUnit p.cluster (m.line * 128)).map fun u => Tbl.getD l.subs u 0
  m.touched || l.interval != m.interval || l.kid != m.kid || sub != m.sub

/-- MWAIT (R254). -/
def execMwait (w : Bool) (r : SOp) : State → Out :=
  word w 1 do
    checkerRoom
    let s ← get
    waitFor (s.me.loads == 0)
    let t ← readS r
    let back := s.me.poppedBy r t
    match s.me.monitor with
    | none => pure ()
    | some m =>
      waitFor (s.journalRoom s.me.part (journalBytes 3))
      let told := s.wakeRecorded s.me
      if told == some 1 || (told.isNone && t == 0 && !s.monitorFired s.me m) then change (·.journalWake 1)
      else if s.monitorFired s.me m then change fun s => (s.journalWake 0).setMe { (s.journalWake 0).me with monitor := none }
      else enterWaitPopped (.mwait (if t == 0xFFFFFFFFFFFFFFFF then none else some (s.rtime.toNat + t.toNat))) s.me back

/-! ## CMO and CLAIM -/

/-- End of a range of bytes: one that wraps past 2^52 ends at the top of the address space (R256). -/
def rangeEnd (va len : Nat) : Nat := if va < 2 ^ 52 then Nat.min (va + len) (2 ^ 52) else va + len

/-- First addresses of the pieces of a range that lie in one line each. -/
def linesOf (va len : Nat) : List Nat :=
  if len == 0 then [] else rangeFrom (va / 128 * 128) 128 ((rangeEnd va len - 1) / 128 - va / 128 + 1)

/-- CMO: translates every page of the range, then acts on its lines; counts as a store until done (R256). Level 5 in user code raises PERM, in
PERM's place in the order of causes (R118, R257). A line of a live write footprint is a race: CMO acts on each line as an access (R242, R244). -/
def execCmo (w : Bool) (op : CmoOp) (level : Fin 6) (r : Fin 56) : State → Out :=
  word w 1 do
    checkerRoom
    storeRoom
    let va ← baseReg r true
    let len ← baseReg (snext r 1) true
    let s ← get
    let ts := (linesOf va.toNat len.toNat).map fun a => (a, s.translate s.me .load a)
    checkAccess ts (·.1) (fun _ => .load) (fun x => match x.2 with | .error .xlat => false | _ => true) .xlat
    checkAccess ts (·.1) (fun _ => .load) (fun x => match x.2 with
      | .error _ => match s.leafFor s.me .load x.1 with
        | .ok (_, e) => ptePl e == 3 && pteBit e 1 && (s.me.sup || pteBit e 4)
        | .error _ => false
      | .ok _ => true) .perm
    checkAccess [va.toNat] id (fun _ => .load) (fun _ => level.val != 5 || s.me.sup) .perm
    let good := ts.filterMap fun x => match x.2 with | .ok t => some (x.1, t) | .error _ => none
    checkRaces .none false ((good.filter fun x => x.2.mt != 1).map (·.2))
    change fun s => good.foldl (fun st x => st.noteAccess s.me .load x.1 x.2) s
    let accs : List LaneAcc := (good.filter fun x => x.2.mt != 1).map fun x =>
      { lane := 0, va := x.1, pa := x.2.pa, kid := x.2.kid, mt := x.2.mt, len := 128, data := [] }
    changeMe fun p => p.addPend (.cmo op level.val) 0 accs false .none none []

/-- First addresses of the leaves that a range touches; `fuel` is the number of 4 KiB pages. -/
def State.leavesIn (s : State) (p : Party) : Nat → Nat → Nat → List (Nat × Except Cause (Nat × BitVec 64))
  | 0, _, _ => []
  | k + 1, va, stop =>
    if stop ≤ va then []
    else match s.walk p.asid va with
      | .ok (level, e) =>
        let first := va / 2 ^ leafShift level * 2 ^ leafShift level
        (first, .ok (level, e)) :: s.leavesIn p k (first + 2 ^ leafShift level) stop
      | .error c => [(va, .error c)]

/-- A leaf that CLAIM may move: W, U for user code, not placed at the host (R258). -/
def claimable (sup : Bool) (e : BitVec 64) : Bool :=
  (ptePl e == 0 || ptePl e == 1) && pteBit e 2 && (sup || pteBit e 4) && regionOf (ptePa e) == .device

/-- A leaf's extent overlaps, in an address space of the partition, a leaf of another extent (R258). -/
def State.extentMixed (s : State) (part : Fin 4) (level : Nat) (e : BitVec 64) : Bool :=
  s.leaves.any fun x =>
    (Tbl.get s.spaces x.1).any (·.part == part) && overlaps (ptePa x.2.2.2) (2 ^ leafShift x.2.1) (ptePa e) (2 ^ leafShift level) &&
      !(ptePa x.2.2.2 == ptePa e && x.2.1 == level)

/-- Pages that outstanding claims of parties of a die have reserved there (R258). -/
def State.reservedPages (s : State) (die : Nat) : List Nat :=
  (s.parties.filter (·.die == die)).flatMap fun q => q.pend.flatMap fun e =>
    match e.kind with
    | .claim leaves .. => leaves.flatMap fun va =>
      match s.walk q.asid va with
      | .ok (level, x) => leafPages level x
      | .error _ => []
    | _ => []

/-- CLAIM: checks every leaf and reserves the new home's capacity; the leaves move one by one, and accesses issued after it wait for theirs (R258,
R302). A misaligned operand that is not poisoned raises ILLI before a poisoned one raises POIS (R118). -/
def execClaim (w : Bool) (r : Fin 56) : State → Out :=
  word w 1 do
    checkerRoom
    storeRoom
    let s ← get
    let whole (x : SReg) : Bool := x.poison || x.val.toNat % 4096 == 0
    check (whole (s.seeS r) && whole (s.seeS (snext r 1))) .illi
    let va ← baseReg r true
    let len ← baseReg (snext r 1) true
    let p := s.me
    let stop := if len == 0 then va.toNat else rangeEnd va.toNat len.toNat
    let ls := s.leavesIn p ((stop - va.toNat) / 4096) va.toNat stop
    checkAccess ls (·.1) (fun _ => .store) (fun x => match x.2 with | .ok _ => true | .error _ => false) .xlat
    let ok := ls.filterMap fun x => match x.2 with | .ok y => some (x.1, y) | .error _ => none
    checkAccess ok (·.1) (fun _ => .store) (fun x => claimable p.sup x.2.2 && !s.extentMixed p.part x.2.1 x.2.2) .perm
    let home := (s.homedPages.filter (·.2 == p.die)).map (·.1) ++ s.reservedPages p.die
    let all := (home ++ ok.flatMap fun x => leafPages x.2.1 x.2.2).eraseDups
    checkAccess [va.toNat] id (fun _ => .store) (fun _ => decide (all.length ≤ diePages)) .perm
    changeMe fun p =>
      p.addPend (.claim (ok.map (·.1)) (s.parties.map fun q => (q.ident, q.nextId)) s.nextJob) 0 [] false .none none []

/-! ## BAR -/

/-- BAR: the arrive part is an outstanding release (R260); the wait part is a stoppable wait, for .ARWAIT until the arrive
part is performed (R255). -/
def execBar (w : Bool) (k : BarKind) (r : Fin 56) (o : Scope) : State → Out :=
  word w 1 do
    checkerRoomFor 2
    if k != .wait then storeRoom else pure ()
    let va ← baseReg r true
    let ph ← if k != .arrive then baseReg (snext r 1) true else pure 0
    checkMt 16 va.toNat .atomic (· == 0)
    let accs ← accessLanes .atomic o 16 [(0, va.toNat, [])]
    let s ← get
    if k != .wait then changeMe fun p => p.addPend .arrive 0 accs true o none [] else pure ()
    match k, accs with
    | .arrive, _ | _, [] => pure ()
    | .wait, a :: _ => enterWait (.bar a (ph.truncate 32) o none)
    | .arwait, a :: _ => enterWait (.bar a (ph.truncate 32) o (some s.me.nextId))

/-- The load of PHASE that ends a BAR wait: an acquire at the barrier's scope, behind every word that the party has outstanding (R228, R260). -/
def Party.phaseWord (p : Party) (a : LaneAcc) (o : Scope) : Pend :=
  { p.wordNow (.load .zero 0 1) [{ a with va := a.va + 8, pa := a.pa + 8, len := 4 }] with ord := true, scope := o }

/-- PHASE of a barrier object, as that load returns it (R225, R260). -/
def State.phaseOf (s : State) (p : Party) (a : LaneAcc) (o : Scope) : State × List LaneAcc × Word :=
  let e := p.phaseWord a o
  let (t, bs, got) := s.loadLanes p e e.accs
  (t, bs, BitVec.ofNat 32 (natLE (got.flatMap (·.2.1))))

/-- That load can be performed: what must come before it has been, and nothing holds it (R224, R225, R228, R232). -/
def State.phaseReady (s : State) (p : Party) (a : LaneAcc) (o : Scope) : Bool :=
  p.ready (p.phaseWord a o) && !s.obstructed p (p.phaseWord a o)

/-! ## Ends of waits -/

/-- End the wait of the word at a port of the party at the issue slot, with what the end of that wait does; the word completes (R254,
R255). -/
def State.endWait (s : State) (pick : Wait → Bool) (eff : Wait → State → State) : State :=
  let p := s.me
  let ended (q : Port) : Port := { q with wait := none, popped := none }
  let took (q : Port) : Bool := p.noFlush || q.popped.isSome
  match p.port.wait.filter pick with
  | some w => (eff w (s.setMe { p with port := ended p.port, noFlush := took p.port })).retire 1
  | none => match p.mate.wait.filter pick with
    | some w => (eff w (s.setMe { p.swapPorts with port := ended p.mate, noFlush := took p.mate })).retire 1
    | none => s

end Sys2Proof.Machine
end

