-- ==== Sys2Proof/Machine/Trace.lean ====
section
/-! DEFINITION. Records on their way to the rings (R403-R408), values journaled and replayed (R411-R413), and the lane-cycle
counters (R401, R402). -/

namespace Sys2Proof.Machine

open Sys2Proof

/-! ## Rings -/

/-- Bytes of a record: its header and payload (R403). -/
def TraceRec.bytes (r : TraceRec) : List Byte :=
  bytesLE 1 r.kind ++ bytesLE 1 (1 + r.payload.length / 16) ++ bytesLE 2 r.source ++ bytesLE 4 r.seq ++
    le8 r.stamp.toNat ++ r.payload

/-- Write bytes into a ring under the partition's host KID, at their homes, 16 bytes at a time (R403, R405). -/
def State.ringWrite (s : State) (kid : Nat) (r : Ring) (bs : List Byte) : State :=
  (List.range ((bs.length + 15) / 16)).foldl (fun t k =>
    let pa := r.base + (r.tail.toNat + 16 * k) % 2 ^ r.log2
    (t.atHome (t.servingUnit pa) pa 16 kid true true fun u =>
      (u.writeBytes kid pa ((bs.drop (16 * k)).take 16)).noteWrite (pa / 128)).1) s

/-- Put a record's bytes at the tail of a ring. -/
def State.ringPut (s : State) (part : Fin 4) (journal : Bool) (bs : List Byte) : State :=
  let d := s.debug[part]
  let r := if journal then d.jrn else d.sink
  let s1 := s.ringWrite s.parts[part].hostKid r bs
  let r1 := { r with tail := r.tail + BitVec.ofNat 64 bs.length }
  s1.changeDebug part fun d => if journal then { d with jrn := r1 } else { d with sink := r1 }

/-- A record that the sink control of a partition forms (R403-R405). -/
def State.controlRecord (s : State) (part : Fin 4) (kind : Nat) (payload : List Byte) : TraceRec :=
  { part, journal := false, source := 2828 + part.val, kind, seq := Tbl.getD s.traceSeqs (2828 + part.val) 0, stamp := s.rtime, payload,
    active := 0 }

/-- The sink control's next sequence number is used. -/
def State.controlFormed (s : State) (part : Fin 4) : State :=
  { s with traceSeqs := Tbl.set s.traceSeqs (2828 + part.val) (Tbl.getD s.traceSeqs (2828 + part.val) 0 + 1) }

/-- A LOST record is written as soon as there is room for it, with EN = 1 (R405). -/
def State.writeLost (s : State) (part : Fin 4) : State :=
  let d := s.debug[part]
  if d.lost == 0 || !s.debugBit part 0 || d.sink.used + 32 > 2 ^ d.sink.log2 then s
  else ((s.ringPut part false (s.controlRecord part 0x03 (le8 d.lost ++ le8 0)).bytes).controlFormed part).changeDebug part
    fun x => { x with lost := 0 }

/-- Write a record to the sink behind the LOST record that is due, or drop it (R405). -/
def State.sinkRecord (s : State) (r : TraceRec) : State :=
  let t := s.writeLost r.part
  let d := t.debug[r.part]
  if d.lost == 0 && d.sink.used + r.bytes.length ≤ 2 ^ d.sink.log2 then t.ringPut r.part false r.bytes
  else t.changeDebug r.part fun x => { x with drops := x.drops + 1, lost := x.lost + 1 }

/-- The period changes, with a PERIODCHG record (R406, R407). The sink control's records are written as they are formed, so in the order of
their SEQ (R404). -/
def State.periodChange (s : State) (part : Fin 4) (new : Nat) : State :=
  let d := s.debug[part]
  if new == d.cur then s
  else
    let t := s.changeDebug part fun x => { x with cur := new }
    if !s.debugBit part 0 then t
    else
      let u := t.writeLost part
      (u.controlFormed part).sinkRecord (u.controlRecord part 0x02 (le8 (d.cur + new * 2 ^ 8 + d.sink.used % 2 ^ 48 * 2 ^ 16) ++ le8 0))

/-- The occupancy rises past 3/4 of the sink: CUR rises by 1 (R407). -/
def State.sinkRose (s : State) (part : Fin 4) (before : Nat) : State :=
  let d := s.debug[part]
  let edge := 3 * 2 ^ d.sink.log2 / 4
  if d.ctl.getLsbD 3 && decide (before ≤ edge) && decide (edge < d.sink.used) then s.periodChange part (Nat.min (d.cur + 1) d.pmax)
  else s

/-- Write one record to the sink, or drop it; a write that takes the occupancy above 3/4 changes the period (R405, R407). -/
def State.sinkPut (s : State) (r : TraceRec) : State := (s.sinkRecord r).sinkRose r.part s.debug[r.part].sink.used

/-- The journal drops nothing: a record that does not fit stays, with those of its source behind it (R405). -/
def State.journalPut (s : State) (r : TraceRec) : State :=
  let j := s.debug[r.part].jrn
  if j.used + r.bytes.length ≤ 2 ^ j.log2 && !(s.trail.any fun x => x.journal && x.source == r.source && x.part == r.part) then
    s.ringPut r.part true r.bytes
  else { s with trail := s.trail ++ [r] }

/-- Write the records formed to their rings (R404, R405). -/
def State.flushTrace (s : State) : State :=
  s.trail.foldl (fun t r => if r.journal then t.journalPut r else t.sinkPut r) { s with trail := [] }

/-! ## Reading a journal back (R412) -/

/-- Eight-byte words of a byte list; `fuel` bounds their number. -/
def words8 : Nat → List Byte → List Nat
  | 0, _ => []
  | k + 1, bs => if bs.length < 8 then [] else natLE (bs.take 8) :: words8 k (bs.drop 8)

/-- Entries from a record list in memory, up to a record of length 0; `fuel` bounds their number (log 23). -/
def parseJournal : Nat → List Byte → List JEntry
  | 0, _ => []
  | k + 1, bs =>
    let len := 16 * natLE ((bs.drop 1).take 1)
    if len < 48 || bs.length < len then []
    else
      JEntry.ofFields (natLE (bs.take 1)) (words8 len ((bs.take len).drop 16)) :: parseJournal k (bs.drop len)

/-- Load the journal that the host placed in the ring (R411, R412). -/
def State.loadJournal (s : State) (part : Fin 4) : State :=
  let j := s.debug[part].jrn
  let bs := s.keyedBytes s.parts[part].hostKid j.base (2 ^ j.log2)
  s.changeDebug part fun d => { d with replay := parseJournal (2 ^ j.log2 / 16) bs, diverged := [], ordinals := [] }

/-- Values read are the same in a journal that pads an entry with zeros. -/
def samePrefix (a b : List Nat) : Bool := (b.take a.length) == a && (b.drop a.length).all (· == 0)

/-- A value that record mode journals and replay mode gives back (R411, R412): `code` is the register or opcode. The word is held while the
journal has no room for its entry (R405). -/
def recordValue (code : Nat) (live : DWord) : Act DWord := do
  let s ← get
  let p := s.me
  waitFor (s.journalRoom p.part (journalBytes 4))
  change fun s => s.journalEntry p.part p.source { kind := 0x11, ident := p.ident, pos := p.position, key := code, vals := [live.toNat] }
  if s.debugBit p.part 7 && !(s.debug[p.part].diverged.contains p.ident) then
    match s.recorded p 0x11 p.position with
    | some e => pure (BitVec.ofNat 64 (e.vals.getD 0 0))
    | none => do
      change State.diverge
      pure live
  else pure live

/-! ## Lane-cycle counters (R401, R402) -/

/-- Bin of a clause header's VA (R402). -/
def Debug.binOf (d : Debug) (va : Nat) : Nat :=
  ((List.range 16).find? fun b => decide (Tbl.getD d.binLo b 0 ≤ va) && decide (va < Tbl.getD d.binHi b 0)).getD 16

/-- Add to a counter. -/
def Debug.addLanes (d : Debug) (bin cls n : Nat) : Debug :=
  { d with lcount := Tbl.set d.lcount (5 * bin + cls) (Tbl.getD d.lcount (5 * bin + cls) 0 + BitVec.ofNat 64 n) }

/-- Class of lane l of a gang for the port that issues, by the lane's PC (R401). -/
def Party.laneClass (p : Party) (l : Fin 32) : Nat :=
  if !p.present.has l || p.pcv[l] == 0xFFFFFFFF then 3
  else if p.active.has l then 0
  else if p.pcv[l].toNat == p.port.head then 2
  else 1

/-- Count the word that a gang issues on one path in a cycle. -/
def State.countIssue (s : State) (p : Party) : State :=
  if !s.debugBit p.part 1 || p.isThread then s
  else s.changeDebug p.part fun d =>
    let bin := d.binOf (p.base + p.port.head)
    let d1 := (List.finRange 32).foldl (fun (x : Debug) l => x.addLanes bin (p.laneClass l) 1) d
    { d1 with lastBin := Tbl.set d1.lastBin p.source bin }

/-- Count n idle cycles of a path of a gang scheduler: in the bin it last issued from (R402). -/
def State.countIdle (s : State) (part : Fin 4) (sched n : Nat) : State :=
  if !s.debugBit part 1 || n == 0 then s
  else s.changeDebug part fun d => d.addLanes (Tbl.getD d.lastBin sched 16) 4 (32 * n)

/-- Count n idle path-cycles of each gang scheduler of a die but one. -/
def State.countIdleDie (s : State) (part : Fin 4) (die but n : Nat) : State :=
  if !s.debugBit part 1 then s
  else
    let used := s.debug[part].lastBin.filter fun x => x.1 / 512 == die && x.1 != but
    let s1 := used.foldl (fun t x => t.countIdle part x.1 (2 * n)) s
    let rest := 512 - used.length - (if but / 512 == die then 1 else 0)
    s1.changeDebug part fun d => d.addLanes 16 4 (64 * n * rest)

end Sys2Proof.Machine
end

