-- ==== Sys2Proof/Machine/Control.lean ====
section
/-! DEFINITION. Fetching words (R59, R91, R92), branch targets (R81), and the control-flow words: BRA, BRX, CALL, CALLX, RET,
EXIT, MCALL, NOP, SBRA, ICINV and TMARK (R34, R67-R69, R82-R87, R91, R93, R110, R345). -/

namespace Sys2Proof.Machine

open Sys2Proof

/-! ## Fetching -/

/-- Classes an executor may run (R58). -/
def roleRuns (r : Role) (c : Cls) : Bool :=
  match r with
  | .gang => c != .mx
  | .mThread => c == .un || c == .mx || c == .cp || c == .ct
  | .cThread => c == .un || c == .cp || c == .ct

/-- The word at a VA among the versions a core may hold of it: memory's, or one fetched earlier that no ICINV has removed, whichever the
open bits say (R92, log 5). -/
def pickVersion (fresh va : Nat) (now : Word) (old : List IWord) : Word :=
  ((old.filter (·.word != now)).zipIdx.find? fun x => Config.freeBit [3, fresh, va, x.2]).elim now (·.1.word)

/-- The word at a VA as the party's core fetches it: from memory, or a word fetched earlier that ICINV has not yet removed
(R92, log 5). Code on a register window or a peer is not executable (log 24). -/
def State.fetchAt (s : State) (va : Nat) : Except Cause (Trans × Word) := do
  let p := s.me
  let t ← s.translate p .fetch va
  if regionOf t.pa == .window || regionOf t.pa == .peer then throw .perm
  if s.homeLost p .load t.pa t.kid then throw .home
  if s.poisonedAt t.pa 4 then throw .pois
  let now : Word := BitVec.ofNat 32 (natLE (s.keyedBytes t.kid t.pa 4))
  pure (t, pickVersion s.fresh va now ((s.core p.core).icache.filter fun e => e.asid == p.asid && e.va == va))

/-- The 32 words of the line of a VA as memory holds them, for a core's instruction cache. -/
def State.codeLine (s : State) (p : Party) (va : Nat) (t : Trans) : List IWord :=
  (rangeFrom 0 4 32).map fun o =>
    { asid := p.asid, va := va / 128 * 128 + o, word := BitVec.ofNat 32 (natLE (s.keyedBytes t.kid (t.pa / 128 * 128 + o) 4)) }

/-- Fetch the word at an offset; the instruction cache keeps its line, beside what it already held of it (R92). -/
def State.fetchWord (s : State) (off : Nat) : Except Cause (State × Word) := do
  let va := (s.me.base + off) % 2 ^ 64
  let (t, w) ← s.fetchAt va
  let p := s.me
  let s1 := (s.noteAccess p .fetch va t).changeCore p.core fun c =>
    { c with icache := c.icache ++ (s.codeLine p va t).filter fun e => !c.icache.contains e }
  pure (s1, w)

/-- A word read as a clause header of a party: its fields and class are legal (R59). -/
def headerFor (r : Role) (w : Word) : Option Header :=
  match decodeHeader w.toNat with
  | .ok h => if roleRuns r h.cls && (r == .gang || (h.gp == 7 && !h.gi)) then some h else none
  | .error _ => none

/-- What the check of a branch target finds (R81). -/
def State.targetCause (s : State) (t : Nat) : Option Cause :=
  if t % 4 != 0 || decide (t > 0xFFFFFFF8) then some .illi
  else match s.fetchAt ((s.me.base + t) % 2 ^ 64) with
    | .error c => some c
    | .ok (_, w) => if (headerFor s.me.role w).isSome then none else some .illi

/-- Check the targets of the lanes a branch moves; ILLI comes before XLAT and PERM (R81, R118). R81 names no outcome for a poisoned word at
a target or one whose home has failed: POIS after ILLI and HOME last are the model's choice (log 49). -/
def checkTargets (ts : List Nat) : Act Unit := do
  let s ← get
  let cs := ts.eraseDups.filterMap s.targetCause
  let vaOf (t : Nat) : Nat := (s.me.base + t) % 2 ^ 64
  check (!cs.contains .illi) .illi
  check (!cs.contains .pois) .pois
  checkAccess ts vaOf (fun _ => .fetch) (fun t => s.targetCause t != some .xlat) .xlat
  checkAccess ts vaOf (fun _ => .fetch) (fun t => s.targetCause t != some .perm) .perm
  check (!cs.contains .home) .home

/-! ## Moving lanes -/

/-- Lanes with one target, by distinct target in lane order (R406). -/
def targetPairs (m : LaneMask) (t : Lanes Word) : List (Word × LaneMask) :=
  (((LaneMask.lanes m).map fun l => t[l]).eraseDups).map fun x => (x, maskOf fun l => m.has l && t[l] == x)

/-- A FLOW record of the branch word at the issuing port, once the party has written a SYNC (R406, R408). -/
def State.traceFlow (s : State) (m : LaneMask) (t : Lanes Word) (pairs : Bool) : State :=
  if m == 0 || !s.me.synced then s
  else
    let body := if pairs then (targetPairs m t).flatMap fun x => le8 (x.1.toNat + x.2.toNat * 2 ^ 32) else []
    s.trace 0x05 (le8 (s.me.port.wordOffset + m.toNat * 2 ^ 32) ++ le8 s.me.ident.toNat ++ body ++
      List.replicate (body.length % 16) 0)

/-- Move lanes to their targets. -/
def Party.moveLanes (p : Party) (m : LaneMask) (t : Lanes Word) : Party :=
  { p with
    pcv := lanes fun l => if m.has l then t[l] else p.pcv[l]
    retFrom := lanes fun l => if m.has l then 0xFFFFFFFF else p.retFrom[l]
    port := { p.port with moved := p.port.moved ||| m } }

/-- Offset of the branch word plus four times a signed word count, modulo 2^32 (R82, R110). -/
def Port.target (q : Port) (k : Int) : Word := BitVec.ofInt 32 (q.wordOffset + 4 * k)

/-- Lanes whose CALL spills: four entries on chip already (R34). -/
def Party.spills (p : Party) (m : LaneMask) : List (Fin 32) := (LaneMask.lanes m).filter fun l => (p.rstack[l]).length == 4

/-- A spill address lies in the lane's region (R34). -/
def Party.inRegion (p : Party) (l : Fin 32) (va : DWord) : Bool :=
  decide (p.psp + 1024 * l.val ≤ va.toNat) && decide (va.toNat + 4 ≤ p.psp + 1024 * (l.val + 1))

/-- Push return offsets in the lanes of a mask; the oldest of four on-chip entries goes to memory at RSP - 4 as a relaxed
store (R34, R345). -/
def pushReturns (m : LaneMask) (ret : Word) : Act Unit := do
  let s ← get
  let p := s.me
  let sp := p.spills m
  check (sp.all fun l => p.inRegion l (p.rsp[l] - 4)) .rsov
  if sp.isEmpty then pure ()
  else
    checkerRoom
    storeRoom
    let accs ← accessLanes .store .gang 4 (sp.map fun l => (l, (p.rsp[l] - 4).toNat, bytesLE 4 ((p.rstack[l]).getLastD 0).toNat))
    changeMe fun p => p.addPend (.store true true) (maskOf fun l => sp.contains l) accs false .gang none []
  changeMe fun p => { p with
    rsp := lanes fun l => if sp.contains l then p.rsp[l] - 4 else p.rsp[l]
    rstack := lanes fun l => if m.has l then (ret :: p.rstack[l]).take 4 else p.rstack[l]
    rsdepth := lanes fun l => if m.has l then p.rsdepth[l] + 1 else p.rsdepth[l] }

/-- A branch or call whose targets are known (R82, R83). -/
def branchTo (taken : LaneMask) (t : Lanes Word) (call pairs : Bool) : Act Unit := do
  checkTargets ((LaneMask.lanes taken).map fun l => (t[l]).toNat)
  let s ← get
  if call then pushReturns taken (BitVec.ofNat 32 s.me.port.fallThrough) else pure ()
  changeMe fun p => p.moveLanes taken t
  change fun s => s.traceFlow taken t pairs

/-- BRA (R82). -/
def execBra (f : FB) : State → Out :=
  word f.w 1 do
    let s ← get
    let p := s.me
    let taken := p.active &&& (p.pred f.p ^^^ (if f.n then 0xFFFFFFFF else 0))
    branchTo taken (Vector.replicate 32 (p.port.target f.off.toInt)) false false

/-- CALL (R82). -/
def execCall (f : FB) : State → Out :=
  word f.w 1 do
    let s ← get
    let p := s.me
    let taken := p.active &&& (p.pred f.p ^^^ (if f.n then 0xFFFFFFFF else 0))
    branchTo taken (Vector.replicate 32 (p.port.target f.off.toInt)) true false

/-- A branch through a vector register (R82, R83). -/
def branchVia (a : VOp) (last call : Bool) : Act Unit := do
  let vs ← readVs [a] []
  let v := vs.getD 0 .zero
  let s ← get
  check (v.poison &&& s.me.active == 0) .pois
  changeMe fun p => p.freeAll (marked [(a, last)])
  branchTo s.me.active v.val call true

/-- BRX (R82). -/
def execBrx (w : Bool) (a : VOp) (last : Bool) : State → Out := word w 1 (branchVia a last false)

/-- CALLX (R82). -/
def execCallx (w : Bool) (a : VOp) (last : Bool) : State → Out := word w 1 (branchVia a last true)

/-- SBRA: a taken one moves every active lane; in a thread lane 0 stands for its PC (R110). -/
def execSbra (w z : Bool) (a : SOp) (i : BitVec 13) : State → Out :=
  word w 1 do
    let x ← readS a
    let s ← get
    let p := s.me
    if (x == 0) == z then branchTo p.active (Vector.replicate 32 (p.port.target i.toInt)) false false else pure ()

/-- Lanes whose pop refills from memory: none of their entries is on chip (R34). -/
def Party.refills (p : Party) (m : LaneMask) : LaneMask := m &&& maskOf fun l => (p.rstack[l]).isEmpty

/-- Pop the return stacks of the lanes of a mask and move the lanes, those that refill to the offsets that returned (R34, R84). -/
def Party.popReturns (p : Party) (m : LaneMask) (back : Lanes Word) : Party :=
  let t : Lanes Word := lanes fun l => (p.rstack[l]).headD back[l]
  { p.moveLanes m t with
    rsp := lanes fun l => if (p.refills m).has l then p.rsp[l] + 4 else p.rsp[l]
    rstack := lanes fun l => if m.has l then (p.rstack[l]).tail else p.rstack[l]
    rsdepth := lanes fun l => if m.has l then p.rsdepth[l] - 1 else p.rsdepth[l]
    retFrom := lanes fun l => if m.has l then BitVec.ofNat 32 p.port.wordOffset else p.retFrom[l] }

/-- RET is performed: every active lane pops, with what its refills returned, and the FLOW record is written (R84, R406). -/
def State.return (s : State) (back : Lanes Word) : State :=
  let p := s.me
  (s.setMe (p.popReturns p.active back)).traceFlow p.active (lanes fun l => (p.rstack[l]).headD back[l]) true

/-- RET: pops a return offset per active lane. Lanes whose on-chip stack is empty refill from memory at RSP, read as the word issues and counted
on the load counter; the word is performed when every refill has returned (R34, R84, R345). -/
def execRet (w : Bool) : State → Out :=
  word w 1 do
    let s ← get
    let p := s.me
    let act := p.active
    check ((LaneMask.lanes act).all fun l => p.rsdepth[l] != 0) .illi
    let m := p.refills act
    if m == 0 then change fun s => s.return (Vector.replicate 32 0)
    else
      checkerRoom
      loadRoom
      let accs ← accessLanes .load .gang 4 ((LaneMask.lanes m).map fun l => (l, (p.rsp[l]).toNat, []))
      changeMe fun p => p.addPend .refill m accs false .gang none []
      enterWait (.refill p.nextId)

/-- The refills of a party's RET have returned: it is performed, or stopped where one of them is poisoned (R84, R345). -/
def State.endRefill (s : State) (i : Ident) (n : Nat) : State :=
  match s.pendOf i n with
  | some (q, e) =>
    let waits (x : Port) : Bool := x.wait == some (.refill n)
    if e.kind != .refill || !e.performed then s
    else if !(waits q.port || waits q.mate) then s.dropPend i n
    else
      let t := { s.focus i with fresh := s.fresh + 1 }.dropPend i n
      let p := if waits t.me.port then t.me else t.me.swapPorts
      let u := t.setMe { p with port := { p.port with wait := none } }
      let r := ((e.bound.getD [])[0]?).getD .zero
      if r.poison &&& e.active == 0 then (u.return r.val).retire 1 else u.stopWord (.cause .pois)
  | none => s

/-- EXIT: the active lanes exit; a thread ends (R85). -/
def execExit (w : Bool) : State → Out :=
  word w 1 do
    let s ← get
    change fun s => s.traceFlow s.me.active (Vector.replicate 32 0xFFFFFFFF) false
    changeMe fun p => p.exitLanes s.me.active

/-- NOP (R87). -/
def execNop (w : Bool) : State → Out := word w 1 (pure ())

/-! ## MCALL -/

/-- Counters are within the limits of a header (R45, R47). -/
def Party.waitsMet (p : Party) (h : Header) : Bool :=
  decide (p.loads ≤ h.ldw || h.ldw == 31) && decide (p.stores ≤ h.stw || h.stw == 31) && decide (p.engines ≤ h.enw || h.enw == 7)

/-- Words of a slot of a core's control store (R67, R70). -/
def State.slotWord (s : State) (core slot k : Nat) : Word := Tbl.getD (s.core core).cstore (64 * slot + k) 0

/-- The header and substituted body of a slot: none where MCALL rejects it (R67-R69). -/
def State.slotBody (s : State) (core slot p q t : Nat) : Option (Header × List Word) :=
  match decodeSlotHeader (s.slotWord core slot 0).toNat with
  | .error _ => none
  | .ok h =>
    let ws := substituteAll h.cls p q t false ((List.range h.n).map fun k => s.slotWord core slot (k + 1))
    match decodeWords .gang h.cls 0 false ws with
    | .error _ => none
    | .ok is => if is.any (·.2.isBranch) then none else some (h, ws)

/-- MCALL: the slot is read when the MCALL issues, once its header's waits are met, and its body words follow at this word's
place (R67-R71, R86). The word itself is performed with the last body word. -/
def execMcall (w : Bool) (n : Fin 64) (p q : VOp) (t : Fin 32) (s : State) : Out :=
  let m := s.me
  if (w && m.hasLong) || m.blocked then .next (s.stopWord .hold)
  else if m.pastEnd 1 then .next (s.stopWord (.cause .illi))
  else match s.slotBody m.core n.val p.code q.code t.val with
    | none => .next (s.stopWord (.cause .illi))
    | some (h, ws) =>
      if !m.waitsMet h then .next (s.stopWord .hold)
      else
        let guard := m.pred h.gp ^^^ (if h.gi then 0xFFFFFFFF else 0)
        let x : Micro := { slot := n.val, hdr := h, words := ws, idx := 0, active := m.port.active &&& guard }
        .next { s.setMe { m with port := { m.port with micro := some x } } with fresh := s.fresh + 1 }

/-! ## ICINV and TMARK -/

/-- ICINV: issues once every store of the gang has been performed, those no counter counts among them, and every atomic (R91), and removes a range
of the party's address space from the instruction cache of its core, or of every core of the partition. R91 does not say that it waits for atomics,
nor how long it takes to complete: here it waits for them, and completes as it issues (log 103). -/
def execIcinv (w : Bool) (a b : SOp) (all : Bool) : State → Out :=
  word w 1 do
    let s ← get
    waitFor (s.me.stores == 0 && s.me.pend.all fun e => e.performed || !e.writes)
    let vs ← readClean [a, b]
    let va := (vs.getD 0 0).toNat
    let len := (vs.getD 1 0).toNat
    let p := s.me
    let gone (e : IWord) : Bool :=
      e.asid == p.asid && len != 0 && decide (va / 128 ≤ e.va / 128) && decide (e.va < rangeEnd va len + 127) &&
        decide (e.va / 128 ≤ (rangeEnd va len - 1) / 128)
    let clean (c : Core) : Core := { c with icache := c.icache.filter fun e => !gone e }
    if all then
      change fun s => { s with cores := s.cores.map fun x =>
        (x.1, if (s.partOf p).dies.getLsbD (x.1 / 128) then clean x.2 else x.2) }
    else change fun s => s.changeCore p.core clean

/-- TMARK: a MARK record when instruction trace is on (R93, R406). -/
def execTmark (w : Bool) (i : BitVec 18) : State → Out :=
  word w 1 (change fun s => s.traceMark (le8 (i.toNat + s.me.port.wordOffset * 2 ^ 32) ++ le8 s.me.ident.toNat))

end Sys2Proof.Machine
end

