-- ==== Sys2Proof/Machine/Job.lean ====
section
/-! DEFINITION. Engine jobs: footprints and their translation (R191, R192, R240, R262, R263), receipt, start and completion
(R212, R241, R280), the bytes a job reads and writes with their poison (R195, R262). -/

namespace Sys2Proof.Machine

open Sys2Proof

/-! ## Footprints -/

/-- A range of bytes cut at 4 KiB pages; `fuel` is the number of pages. -/
def pagePieces : Nat → Nat → Nat → List (Nat × Nat)
  | 0, _, _ => []
  | k + 1, va, len =>
    if len == 0 then []
    else
      let n := Nat.min len (4096 - va % 4096)
      (va, n) :: pagePieces k (va + n) (len - n)

/-- The pieces of a list of ranges. -/
def piecesOf (rs : List (Nat × Nat)) : List (Nat × Nat) :=
  rs.flatMap fun r => pagePieces (r.2 / 4096 + 2) r.1 r.2

/-- What else a job asks of a page: memory types and peers (R191, R263). -/
def jobPage (matrix : Bool) (t : Trans) : Bool :=
  regionOf t.pa != .window && (if matrix then t.mt == 0 || t.mt == 3 else true)

/-- A piece lies on a page in the tentative range of a draft window, of any crew of the address space (R263). -/
def State.draftHit (s : State) (p : Party) (va len : Nat) : Bool :=
  let down (x : Nat) : Nat := x / 4096 * 4096
  let up (x : Nat) : Nat := (x + 4095) / 4096 * 4096
  s.crews.any fun c => (s.bundle c.bundle).any (·.asid == p.asid) && c.draft.any fun d =>
    let first := down (d.base + d.c * d.slotsz)
    overlaps va len first (up (d.base + Nat.min (d.c + 16) d.nslot * d.slotsz) - first)

/-- Translate a footprint: a missing translation anywhere raises XLAT, then a missing permission PERM, then HOME (R118, R192, R395). The
tentative range of a draft window is forbidden to copy jobs; a matrix job sees the memory below it (R136, R191, R263). -/
def footprint (matrix : Bool) (reads writes : List (Nat × Nat)) : Act (List Extent × List Extent) := do
  let s ← get
  let p := s.me
  let look (k : Acc) (rs : List (Nat × Nat)) := (piecesOf rs).map fun r => (r, k, s.translate p k r.1)
  let rd := look .load reads
  let wr := look .store writes
  let all := rd ++ wr
  checkAccess all (·.1.1) (·.2.1) (fun x => match x.2.2 with | .error .xlat => false | _ => true) .xlat
  checkAccess all (·.1.1) (·.2.1) (fun x => match x.2.2 with
    | .ok t => jobPage matrix t && (matrix || !s.draftHit p x.1.1 x.1.2)
    | .error _ => false) .perm
  check (all.all fun x => match x.2.2 with | .ok t => !s.homeLost p x.2.1 t.pa t.kid | .error _ => true) .home
  change fun s => all.foldl (fun st x => match x.2.2 with
    | .ok t => st.noteAccess p x.2.1 x.1.1 t
    | .error _ => st) s
  let ext (xs : List ((Nat × Nat) × Acc × Except Cause Trans)) : List Extent := xs.filterMap fun x => match x.2.2 with
    | .ok t => some { va := x.1.1, pa := t.pa, len := x.1.2, kid := t.kid, mt := t.mt }
    | .error _ => none
  pure (ext rd, ext wr)

/-- Lines of an extent. -/
def Extent.lines (x : Extent) : List Nat :=
  if x.len == 0 then [] else rangeFrom (x.pa / 128) 1 ((x.pa + x.len - 1) / 128 - x.pa / 128 + 1)

/-- Lines of a footprint, without repeats. -/
def linesOfExtents (xs : List Extent) : List Nat := (xs.flatMap (·.lines)).eraseDups

/-- Two footprints share a line. -/
def extentsMeet (xs ys : List Extent) : Bool :=
  xs.any fun x => x.len != 0 && ys.any fun y => y.len != 0 &&
    decide (x.pa / 128 ≤ (y.pa + y.len - 1) / 128) && decide (y.pa / 128 ≤ (x.pa + x.len - 1) / 128)

/-! ## Receipt -/

/-- Change a job. -/
def State.changeJob (s : State) (j : Nat) (f : Job → Job) : State :=
  { s with jobs := s.jobs.map fun x => if x.id == j then f x else x }

/-- A job by its number. -/
def State.job (s : State) (j : Nat) : Option Job := s.jobs.find? (·.id == j)

/-! ## Start -/

/-- A party's outstanding accesses to the footprint of a job. -/
def Job.meetsPend (j : Job) (e : Pend) : Bool :=
  e.accs.any fun a => (j.reads ++ j.writes).any fun x => x.covers a.pa

/-- Lines a job pins while it runs: those of its read footprint that the tile fetch unit holds, at most 512. Of a longer footprint, which lines
these are when a store comes is open (R193, log 5). -/
def Job.pins (j : Job) : List Nat :=
  let ls := linesOfExtents j.reads
  if j.copy then []
  else if ls.length ≤ 512 then ls
  else (ls.filter fun n => Config.freeBit [6, j.id, n]).take 512

/-- Every live job received before j whose footprint overlaps it has completed (R192). -/
def State.jobOrder (s : State) (j : Job) : Bool :=
  s.jobs.all fun k => k.id ≥ j.id || k.complete ||
    !(extentsMeet k.writes (j.reads ++ j.writes) || extentsMeet k.reads j.writes)

/-- The engine takes a line for reading or writing: as a holder at the line's home (R280). Host memory has none (R292). -/
def State.engineTake (s : State) (j : Job) (write : Bool) (x : Extent) : State :=
  x.lines.foldl (fun t n =>
    if regionOf x.pa != .device then t else t.holdBy j.unit none (j.cluster / 32) (n * 128) 128 x.kid write false) s

/-- The engine's accesses to host memory, under the host's home agent (R223, R250). -/
def State.engineReach (s : State) (j : Job) : State :=
  let take (write : Bool) (t : State) (x : Extent) : State :=
    if regionOf x.pa != .host then t
    else x.lines.foldl (fun u n => (u.atHome j.unit (n * 128) 128 x.kid write false id).1) t
  j.writes.foldl (take true) (j.reads.foldl (take false) s)

/-- A line of the footprint is homed on a die in a relock, which serves no request, or a copy of it that the job recalls stands on one; or the
clock of a unit that serves one has run too far (R269, R308). -/
def State.homesBusy (s : State) (j : Job) : Bool :=
  let stuck (write : Bool) (x : Extent) : Bool := x.lines.any fun n => s.notServed j.unit (n * 128) write || s.lineAhead j.cluster (n * 128)
  j.reads.any (stuck false) || j.writes.any (stuck true)

/-- A CLAIM that issued before the job was received has a leaf of its footprint still to move (R258, R302). -/
def State.jobClaimed (s : State) (j : Job) : Bool :=
  (j.reads ++ j.writes).any fun x => x.lines.any fun n => s.claimedBefore none (some j.id) (n * 128)

/-- No outstanding access touches the footprint. -/
def State.untouched (s : State) (j : Job) : Bool := s.parties.all fun p => p.pend.all fun e => e.performed || !j.meetsPend e

/-- The engine holds its intervals over the footprint (R280). -/
def State.takeLines (s : State) (j : Job) : State :=
  let s1 := j.reads.foldl (fun t x => t.engineTake j false x) (s.tick j.unit)
  (j.writes.foldl (fun t x => t.engineTake j true x) s1).changeJob j.id fun x => { x with opened := true }

/-- The engines take the lines of live jobs: at a job's receipt, or once what must come first is done, which are earlier jobs over its lines,
accesses to them that were issued before it, relocks of their homes, and CLAIMs of their leaves (R192, R241, R280, R302, R308, log 59). -/
def State.openJobs (s : State) : State :=
  s.jobs.foldl (fun t j =>
    if j.opened || j.complete || !t.jobOrder j || !t.untouched j || t.homesBusy j || t.jobClaimed j then t else t.takeLines j) s

/-- The scheduler of the issuer's cluster receives a job (R192, R262): it counts on the engine counter (R47), and its engine takes the lines of
its footprint as soon as it can (R280). -/
def submit (kind : JobKind) (copy : Bool) (reads writes : List Extent) (promise : DWord) (total : Nat) : Act Unit :=
  change fun s => State.openJobs <|
    let p := s.me
    let j : Job :=
      { id := s.nextJob, kind, issuer := p.ident, bundle := p.bundle, cluster := p.cluster, pend := p.nextId,
        opened := false, started := false, complete := false, reported := false, promise, missed := false, reads, writes, err := 0,
        faulty := none, total, copy, row := 0, buf := [], buf2 := [] }
    ({ s with jobs := s.jobs ++ [j], nextJob := s.nextJob + 1 }).setMe
      (p.addPend (.job s.nextJob) 0 [] false .none none [])

/-- Accesses that were issued before the job was received are performed before it (R241); a party that has exited keeps
none. -/
def State.clearFor (s : State) (j : Job) : State :=
  s.parties.foldl (fun t p => (p.pend.filter fun e => !e.performed && j.meetsPend e).foldl
    (fun u e => u.perform p.ident e.id false) t) s

/-- The issuer's earlier accesses to the footprint have been performed (R241). -/
def State.issuerClear (s : State) (j : Job) : Bool :=
  match s.party j.issuer with
  | some p => (p.pend.filter fun e => e.id < j.pend).all fun e => e.performed || !j.meetsPend e
  | none => true

/-- Start a job: earlier accesses are performed, its lines are taken and pinned (R193, R212, R241). -/
def State.startJob (s : State) (j : Job) : State :=
  let s1 := s.clearFor j
  if !s1.issuerClear j then s1
  else
    let s2 := if j.opened then s1 else s1.takeLines j
    let s3 := j.pins.foldl (fun t n => t.changeLine n fun l => { l with pinned := j.id :: l.pinned }) s2
    s3.changeJob j.id fun x => { x with started := true }

/-! ## Bytes -/

/-- Physical place of a byte of a footprint. -/
def findExtent (xs : List Extent) (va : Nat) : Option (Extent × Nat) :=
  (xs.find? fun x => decide (x.va ≤ va) && decide (va < x.va + x.len)).map fun x => (x, x.pa + (va - x.va))

/-- Bytes a copy job reads, each with the poison of its element (R262). -/
def State.jobRead (s : State) (xs : List Extent) (va n : Nat) : List (Byte × Bool) :=
  (rangeFrom va 1 n).map fun a => match findExtent xs a with
    | some (x, pa) => (s.keyedByte x.kid pa, s.poisonedAt pa 1)
    | none => (0, false)

/-- Operand bytes of a matrix job, each poisoned where its line is ECC-uncorrectable (R195). -/
def State.operandRead (s : State) (xs : List Extent) (va n : Nat) : List (Byte × Bool) :=
  (rangeFrom va 1 n).map fun a => match findExtent xs a with
    | some (x, pa) => (s.keyedByte x.kid pa, s.poisonedAt (pa / 128 * 128) 128)
    | none => (0, false)

/-- Lines that a range of bytes touches have been written (R310). -/
def State.noteWrites (s : State) (pa len : Nat) : State :=
  (rangeFrom (pa / 128) 1 ((pa + len + 127) / 128 - pa / 128)).foldl (fun t n => t.noteWrite n) s

/-- Write bytes of a job, in runs within a page; elements wholly written lose their poison (R378). -/
def State.jobWrite (s : State) (xs : List Extent) (va : Nat) (bs : List Byte) : State :=
  (pagePieces (bs.length / 4096 + 2) va bs.length).foldl (fun t r => match findExtent xs r.1 with
    | some (x, pa) => (t.writeBytes x.kid pa ((bs.drop (r.1 - va)).take r.2)).noteWrites pa r.2
    | none => t) s

/-- Lines that hold the bytes of a VA list: they are marked poisoned whole (R195, R262, log 25). -/
def State.poisonLines (s : State) (xs : List Extent) (vas : List Nat) : State :=
  ((vas.filterMap fun a => (findExtent xs a).map fun y => y.2 / 128).eraseDups).foldl (fun t n => t.markPoison (n * 128) 128) s

/-! ## Completion -/

/-- What a job that has done its writes has read: every read comes before any write, so a line that it wrote itself had last been written before
(R262, R310). -/
def State.readBy (s : State) (j : Job) (n : Nat) : Reached :=
  let r := s.reached j.unit n
  if r.last == r.ival && (linesOfExtents j.writes).contains n then { r with last := (s.line n).prior } else r

/-- The faulty interval that a job's reading draws from (R281, R310). -/
def State.jobDraws (s : State) (j : Job) : Option Drawn :=
  j.reads.findSome? fun x => x.lines.findSome? fun n =>
    ((s.line n).drawsFrom n x.kid j.unit (s.readBy j n)).map fun y => { line := n, kid := x.kid, interval := y.1 }

/-- The engine lets go of its lines with records of kind engine (R280); the intervals a drawing job wrote are faulty (R281). -/
def State.engineLeave (s : State) (j : Job) (bad : Option Verdict) : State :=
  let mark (t : State) (n : Nat) : State :=
    match bad with
    | some v => t.changeLine n fun l => l.markFault l.kid l.interval { v with only := none }
    | none => t
  let s1 := (linesOfExtents j.writes).foldl (fun t n => (mark t n).release j.unit n .engine) (s.tick j.unit)
  let s2 := (linesOfExtents j.reads).foldl (fun t n => t.release j.unit n .engine) s1
  j.pins.foldl (fun t n => t.changeLine n fun l => { l with pinned := l.pinned.filter (· != j.id) }) s2

/-- A job leaves the list once it has been reported (R266, R281); a job whose issuer is gone is reported to no one (R265, R281). -/
def State.dropJobs (s : State) : State :=
  { s with jobs := s.jobs.filter fun j => !(j.complete && (j.reported || (s.party j.issuer).isNone)) }

/-- The verdict on a faulty interval. -/
def State.verdict (s : State) (d : Drawn) : Verdict :=
  ((s.line d.line).faultAt d.kid d.interval).getD { kind := 3, scope := 0, other := 0, detector := 0, time := 0, found := s.rtime.toNat, only := none }

/-- A job's accesses are reported to its issuer at a logical time. -/
def State.tellUses (s : State) (j t : Nat) : State :=
  { s with uses := s.uses.map fun u => if u.job == some j && u.told.isNone then { u with told := some t } else u }

/-- Reports complete jobs to their issuer (R241, R266, R267): it draws from the faults its jobs drew from (R281). -/
def State.report (s : State) (i : Ident) (pick : Job → Bool) : State :=
  s.keepPort fun s => (s.jobs.filter fun j => j.issuer == i && j.complete && !j.reported && pick j).foldl (fun t j =>
    let now := (((t.party i).map fun p => t.clock p.clockUnit).getD 0).toNat
    let t1 := (t.changeJob j.id fun x => { x with reported := true }).tellUses j.id now
    match j.faulty with
    | some d => t1.contain i true d (t1.verdict d) now
    | none => t1) s

/-- Complete a job: its engine leaves its lines, the engine counter falls (R47), and a job whose issuer has gone leaves what it
would have reported to the bundle (R265, R281, R396). -/
def State.finishJob (s : State) (j : Job) (err : Nat) : State :=
  let drew := s.jobDraws j
  let bad := drew.isSome
  let keyed (xs : List Extent) : List (Nat × Nat × Reached) :=
    (xs.flatMap fun x => x.lines.map fun n => (n, x.kid)).eraseDups.map fun k => (k.1, k.2, s.readBy j k.1)
  let noted (t : State) (write : Bool) (xs : List Extent) : State := match t.party j.issuer with
    | some p => t.noteUses j.issuer p.part (some j.id) j.unit write (keyed xs)
    | none => match t.bundle j.bundle with
      | some b => t.noteUses j.issuer b.part (some j.id) j.unit write (keyed xs)
      | none => t
  let s1 := ((((noted (noted s false j.reads) true j.writes)).engineLeave j (drew.map s.verdict)).changeJob j.id fun x =>
    { x with complete := true, err, faulty := drew }).openJobs
  match s1.party j.issuer with
  | some p =>
    let s2 := s1.changeParty j.issuer fun p =>
      { p with pend := p.pend.filter (fun e => e.id != j.pend)
               copyErr := if err != 0 && p.copyErr == 0 then err else p.copyErr }
    let gone := p.live == 0 || p.stopped
    if gone then
      let s3 := if bad then s2.recordStatus j.bundle 4 else if err != 0 then s2.recordStatus j.bundle 6 else s2
      (s3.changeJob j.id fun x => { x with reported := true }).dropJobs
    else (if err != 0 then s2.raiseAsync j.issuer .qerr else s2).dropJobs
  | none =>
    ((if bad then s1.recordStatus j.bundle 4 else if err != 0 then s1.recordStatus j.bundle 6 else s1).changeJob j.id fun x =>
      { x with reported := true }).dropJobs

end Sys2Proof.Machine
end

