-- ==== Sys2Proof/Machine/Tile.lean ====
section
/-! DEFINITION. The arithmetic of the matrix engine: M8 and E8 (R147-R151), the dot step (R152, R153), affine composition and
the scan (R154-R156), the twin drain (R157) and conversions of drained rows (R146, R207, R208). -/

namespace Sys2Proof.Machine

open Sys2Proof

/-! ## M8 and E8 -/

/-- Leading zeros of a nonzero 7-bit number. -/
def clz7 (m : Nat) : Nat := 6 - Nat.log2 m

/-- Value of an M8 byte (R147). -/
def m8Value (code : Nat) : FVal :=
  let m := code % 128
  let neg := code / 128 % 2 == 1
  if m == 0 then (if neg then .nan else .fin false 0 0)
  else
    let k := clz7 m
    let r := 6 - k
    let w := Nat.min 2 r
    let fw := r - w
    let e := m / 2 ^ fw % 2 ^ w
    let f := m % 2 ^ fw
    let top : Int := 4 * (3 - Int.ofNat k) + Int.ofNat (e * 2 ^ (2 - w))
    .fin neg (2 ^ fw + f) (top - Int.ofNat fw)

/-- Magnitude of an M8 code below 0x80 in units of 2^-12. -/
def m8Units (m : Nat) : Nat :=
  match m8Value m with
  | .fin _ f e => f * 2 ^ (e + 12).toNat
  | _ => 0

/-- Compare m * 2^e with n * 2^-12. -/
def cmpUnits (m : Nat) (e : Int) (n : Nat) : Ordering :=
  let sh := e + 12
  if 0 ≤ sh then compare (m * 2 ^ sh.toNat) n else compare m (n * 2 ^ (-sh).toNat)

/-- The largest M8 code whose magnitude is at most m * 2^e. -/
def m8Floor (m : Nat) (e : Int) : Nat :=
  (List.range 128).foldl (fun best c => if cmpUnits m e (m8Units c) != .lt then c else best) 0

/-- Conversion into M8 with its flags (R149, R150). -/
def toM8 (v : FVal) : Nat × BitVec 32 :=
  match v with
  | .nan => (0x80, 0)
  | .inf n => (if n then 0xFF else 0x7F, flagOVF ||| flagINX)
  | .fin n m e =>
    let sign := if n then 0x80 else 0
    let lo := m8Floor m e
    if m == 0 then (0, 0)
    else if lo == 0x7F then (sign + 0x7F, flagIf (cmpUnits m e (m8Units 0x7F) == .gt) (flagOVF ||| flagINX))
    else if cmpUnits m e (m8Units lo) == .eq then (sign + lo, 0)
    else
      let mid := cmpUnits (2 * m) e (m8Units lo + m8Units (lo + 1))
      let c := match mid with
        | .lt => lo
        | .gt => lo + 1
        | .eq => if lo % 2 == 0 then lo else lo + 1
      if c == 0 then (0, flagUNF ||| flagINX) else (sign + c, flagINX)

/-- A value times 2^k. -/
def FVal.scale (v : FVal) (k : Int) : FVal :=
  match v with
  | .fin n m e => .fin n m (e + k)
  | x => x

/-! ## Rows of operands -/

/-- Element bytes of weights and activations (R189). -/
def actBytes (fmt : Nat) : Nat := if fmt < 2 then 2 else 1

/-- Element bytes of gains. -/
def gainBytes (fmt : Nat) : Nat := if fmt < 2 then 2 else 4

/-- Element bytes of drained results. -/
def outBytes (fmt : Nat) : Nat :=
  match fmt with
  | 0 => 4 | 3 => 1 | _ => 2

/-- Value of an element code of a weight or an activation. -/
def actValue (fmt code : Nat) : FVal :=
  match fmt with
  | 0 => bf16.decode code
  | 1 => f16.decode code
  | _ => m8Value code

/-- FP32 of a gain: exact (R146, R204). -/
def gainValue (fmt code : Nat) : Word :=
  match fmt with
  | 0 => BitVec.ofNat 32 (f32.finish .rne (bf16.decode code)).1
  | 1 => BitVec.ofNat 32 (f32.finish .rne (f16.decode code)).1
  | _ => BitVec.ofNat 32 code

/-- Elements of b bytes from bytes with poison; `n` bounds their number. -/
def elemsOf (b : Nat) : Nat → List (Byte × Bool) → List Elem
  | 0, _ => []
  | n + 1, bs =>
    if bs.isEmpty then []
    else { bits := BitVec.ofNat 32 (natLE ((bs.take b).map (·.1))), poison := (bs.take b).any (·.2) } :: elemsOf b n (bs.drop b)

/-- An activation row: its elements and its scales, one for each 32 of them; absent scales are 1. -/
structure Row where
  fmt : Nat
  elems : List Elem
  scales : List Elem
  deriving DecidableEq, Repr

/-- Blocks of 32 along n elements. -/
def blocksOf (n : Nat) : Nat := (n + 31) / 32

/-! ## The dot step (R152, R153) -/

/-- The products of a group, none for an infinity times zero. -/
def groupSum (ps : List (Option FVal)) (bad : Bool) : FVal × Bool :=
  let pos := ps.any fun p => p == some (.inf false)
  let neg := ps.any fun p => p == some (.inf true)
  let inv := ps.any (·.isNone) || (pos && neg)
  let nan := bad || inv || ps.any fun p => p == some .nan
  if nan then (.nan, inv)
  else if pos then (.inf false, false)
  else if neg then (.inf true, false)
  else match ps.filterMap id with
    | [] => (.fin false 0 0, false)
    | p :: rest => (rest.foldl (fun x y => match x, y with
        | .fin a m e, .fin b k g => exactAdd .rne a m e b k g
        | _, _ => .nan) p, false)

/-- One group into an accumulator element: t rounded, then the sum rounded. -/
def dotGroup (acc : Elem) (a b : List (Elem × FVal)) (sa sb : Elem) : Elem × BitVec 32 :=
  let (p, inv) := groupSum (a.zipWith (fun x y => x.2.mul y.2) b) (sa.bits == 255 || sb.bits == 255)
  let q := p.scale (Int.ofNat sa.bits.toNat - 127 + (Int.ofNat sb.bits.toNat - 127))
  let (t, f1) := f32.finish .rne q
  let (r, f2) := f32.add .rne (dec32 acc.bits) (f32.decode t)
  ({ bits := BitVec.ofNat 32 r
     poison := acc.poison || sa.poison || sb.poison || a.any (·.1.poison) || b.any (·.1.poison) },
   f1 ||| f2 ||| flagIf inv flagINV)

/-- The scale 1 (R151). -/
def unitScale : Elem := { bits := 127, poison := false }

/-- The dot step of a row and a column over groups g, g + 1, ...; `k` groups are still to come. -/
def dotStep (x : Row) (col : List (Elem × FVal)) (colScale : Nat → Elem) : Nat → Nat → Elem → Elem × BitVec 32
  | 0, _, acc => (acc, 0)
  | k + 1, g, acc =>
    let a := (((x.elems.drop (32 * g)).take 32)).map fun e => (e, actValue x.fmt e.bits.toNat)
    let (acc1, f1) := dotGroup acc a ((col.drop (32 * g)).take 32) (x.scales.getD g unitScale) (colScale g)
    let (acc2, f2) := dotStep x col colScale k (g + 1) acc1
    (acc2, f1 ||| f2)

/-- Index of an element (row, column) of a plane of 128 columns. -/
def at128 (r n : Nat) : Nat := 128 * r + n

/-- An accumulator, gain or carry entry. -/
def elemAt (t : Tbl Elem) (k : Nat) : Elem := Tbl.getD t k { bits := 0, poison := false }

/-- Add a row's dot products with the columns of a bank into accumulator row r (R202). `fmt`, `kk` and `nn` are the format, depth
and columns latched when the word issued. -/
def macRow (w : WBank) (fmt kk nn : Nat) (acc : Tbl Elem) (r : Nat) (x : Row) : Tbl Elem × BitVec 32 :=
  (List.range nn).foldl (fun (st : Tbl Elem × BitVec 32) n =>
    let col := (List.range kk).map fun k => let e := elemAt w.w (at128 k n); (e, actValue fmt e.bits.toNat)
    let (e, f) := dotStep x col (fun g => { bits := BitVec.ofNat 32 (Tbl.getD w.scale (at128 g n) 127), poison := false })
      (blocksOf kk) 0 (elemAt st.1 (at128 r n))
    (Tbl.set st.1 (at128 r n) e, st.2 ||| f)) (acc, 0)

/-! ## Affine maps (R154-R156) -/

/-- guf of R155: the gain and whether GUF is set instead of other flags. -/
def gainMul (g2 g1 : Word) : Word × BitVec 32 :=
  match (dec32 g2).mul (dec32 g1) with
  | none => asWord f32.invalid
  | some v =>
    let (r, f) := asWord (f32.finish .rne v)
    match v with
    | .fin neg m _ =>
      if m != 0 && (r &&& 0x7FFFFFFF).ult 0x00800000 then (if neg then 0x80000000 else 0, flagGUF) else (r, f)
    | _ => (r, f)

/-- compose of R154 on a gain and an offset. -/
def compose (x2 x1 : Elem × Elem) : (Elem × Elem) × BitVec 32 :=
  let (g, f1) := gainMul x2.1.bits x1.1.bits
  let (o, f2) := ffma32 .rne x2.1.bits x1.2.bits x2.2.bits
  (({ bits := g, poison := x2.1.poison || x1.1.poison },
    { bits := o, poison := x2.1.poison || x1.2.poison || x2.2.poison }), f1 ||| f2)

/-- Levels of the scan of R156: distance d, 2d, ...; `k` levels are still to come. -/
def scanLevels : Nat → Nat → List (Elem × Elem) → List (Elem × Elem) × BitVec 32
  | 0, _, p => (p, 0)
  | k + 1, d, q =>
    let pairs := q.zipIdx.map fun x => if x.2 < d then (x.1, (0 : BitVec 32)) else
      match q[x.2 - d]? with
      | some y => compose x.1 y
      | none => (x.1, 0)
    let (p, f) := scanLevels k (2 * d) (pairs.map (·.1))
    (p, f ||| pairs.foldl (fun m x => m ||| x.2) 0)

/-- Least n with 2^n at least m. -/
def clog2 (m : Nat) : Nat := if m ≤ 1 then 0 else Nat.log2 (m - 1) + 1

/-- One column of ASCAN: gains, offsets and the carry give h and the composed gains (R156). -/
def scanColumn (p : List (Elem × Elem)) (carry : Elem) : List (Elem × Elem) × BitVec 32 :=
  let (q, f) := scanLevels (clog2 p.length) 1 p
  let hs := q.map fun x =>
    let (h, fl) := ffma32 .rne x.1.bits carry.bits x.2.bits
    (({ bits := h, poison := x.1.poison || carry.poison || x.2.poison } : Elem), fl)
  ((q.zip hs).map fun x => (x.1.1, x.2.1), f ||| hs.foldl (fun m x => m ||| x.2) 0)

/-! ## Drained rows -/

/-- The twin drain of R157. -/
def guided (g : Word) (c u : Elem) : Elem × BitVec 32 :=
  let (d, f1) := fsub32 .rne c.bits u.bits
  let (o, f2) := ffma32 .rne g d u.bits
  ({ bits := o, poison := c.poison || u.poison }, f1 ||| f2)

/-- Finite nonzero magnitude of a result, for the choice of its block's scale. -/
def finiteMag (e : Elem) : Option (Nat × Int) :=
  if e.poison then none
  else match dec32 e.bits with
    | .fin _ m x => if m == 0 then none else some (m, x)
    | _ => none

/-- The E8 scale of a block (R208): the least under which every finite element fits, within 0 to 254. -/
def blockScale (vs : List Elem) : Nat :=
  let ms := vs.filterMap finiteMag
  if ms.isEmpty then 127
  else ((List.range 255).find? fun x =>
    ms.all fun y => decide (y.1 * 2 ^ (y.2 + 400).toNat ≤ 63488 * 2 ^ (x + 273))).getD 254

/-- A drained row: its bytes with poison, its scales with poison, and flags (R207, R208, R195). In memory a poisoned element is
the canonical NaN. -/
def drainRow (fmt : Nat) (memory : Bool) (vs : List Elem) : List (Byte × Bool) × List (Byte × Bool) × BitVec 32 :=
  let out (e : Elem) (x : Nat) : Nat × BitVec 32 :=
    match fmt with
    | 0 => (if e.poison && memory then f32.nanBits else e.bits.toNat, 0)
    | 1 => if e.poison && memory then (bf16.nanBits, 0) else bf16.finish .rne (dec32 e.bits)
    | 2 => if e.poison && memory then (f16.nanBits, 0) else f16.finish .rne (dec32 e.bits)
    | _ => if e.poison then (0x80, 0) else toM8 ((dec32 e.bits).scale (127 - Int.ofNat x))
  let scales := (List.range (blocksOf vs.length)).map fun j => blockScale ((vs.drop (32 * j)).take 32)
  let res := vs.zipIdx.map fun e => (out e.1 (scales.getD (e.2 / 32) 127), e.1.poison)
  (res.flatMap fun r => (bytesLE (outBytes fmt) r.1.1).map fun b => (b, r.2),
   if fmt == 3 then scales.map fun x => (BitVec.ofNat 8 x, false) else [],
   res.foldl (fun m r => m ||| r.1.2) 0)

/-! ## Rows in queues (R190) -/

/-- Bytes of a queue entry with the poison of their lanes. -/
def entryBytes (v : VReg) : List (Byte × Bool) :=
  (List.finRange 32).flatMap fun l => (bytesLE 4 v.val[l].toNat).map fun b => (b, v.poison.has l)

/-- Queue entries of a byte list, the last one filled with zeros; `n` entries. -/
def entriesOf : Nat → List (Byte × Bool) → List VReg
  | 0, _ => []
  | n + 1, bs =>
    let piece (l : Fin 32) : List (Byte × Bool) := (bs.drop (4 * l.val)).take 4
    { val := lanes fun l => BitVec.ofNat 32 (natLE ((piece l).map (·.1))), poison := maskOf fun l => (piece l).any (·.2) } ::
      entriesOf n (bs.drop 128)

/-- Entries a row of L elements of b bytes takes, without its scale entry. -/
def rowEntries (len b : Nat) : Nat := (len * b + 127) / 128

/-- An activation row from its entries. -/
def rowOfEntries (fmt k : Nat) (es : List VReg) : Row :=
  let n := rowEntries k (actBytes fmt)
  { fmt
    elems := elemsOf (actBytes fmt) k (((es.take n).flatMap entryBytes).take (k * actBytes fmt))
    scales := if fmt == 3 then elemsOf 1 (blocksOf k) (((es.drop n).flatMap entryBytes).take (blocksOf k)) else [] }

end Sys2Proof.Machine
end

