-- ==== Sys2Proof/Machine/Matrix.lean ====
section
/-! DEFINITION. The MX words (R185-R213): their checks and what they latch at issue, and the performance of the jobs they
hand over, row by row where queues are concerned. -/

namespace Sys2Proof.Machine

open Sys2Proof

/-! ## Descriptors (R188, R189) -/

/-- STRIDE. -/
def dStride (d : Nat) : Nat := natBits d 63 32
/-- FMT. -/
def dFmt (d : Nat) : Nat := natBits d 31 30
/-- ROW0. -/
def dRow (d : Nat) : Nat := natBits d 29 23
/-- M. -/
def dM (d : Nat) : Nat := natBits d 22 16 + 1
/-- N. -/
def dN (d : Nat) : Nat := natBits d 15 9 + 1
/-- K. -/
def dK (d : Nat) : Nat := natBits d 8 0 + 1

/-- Rows run past the accumulator (R189). -/
def rowsOut (d : Nat) : Bool := decide (dRow d + dM d > 128)

/-- Raise MXF with the first reason that holds, in the order 1, 2, 5, 4, 3, 6 in which they are given (R194). -/
def mxCheck : List (Nat × Bool) → Act Unit
  | [] => pure ()
  | (c, b) :: rest => if b then (fun _ => .error (.mxf c)) else mxCheck rest

/-- A bank of an engine. -/
def Engine.bank (e : Engine) (b : Bool) : WBank := if b then e.w1 else e.w0

/-- Change a bank. -/
def Engine.setBank (e : Engine) (b : Bool) (w : WBank) : Engine := if b then { e with w1 := w } else { e with w0 := w }

/-- An accumulator bank. -/
def Engine.acc (e : Engine) (b : Bool) : Tbl Elem := if b then e.acc1 else e.acc0

/-- Change an accumulator bank. -/
def Engine.setAcc (e : Engine) (b : Bool) (a : Tbl Elem) : Engine := if b then { e with acc1 := a } else { e with acc0 := a }

/-- Rows of a bank whose absent flag is set. -/
def Engine.absent (e : Engine) (b : Bool) : List Nat := if b then e.absent1 else e.absent0

/-- Change the absent flags of a bank. -/
def Engine.setAbsent (e : Engine) (b : Bool) (a : List Nat) : Engine := if b then { e with absent1 := a } else { e with absent0 := a }

/-- Set flags of MSTAT. -/
def Engine.orFlags (e : Engine) (f : BitVec 32) : Engine := { e with flags := e.flags ||| f.truncate 6 }

/-- Change a cluster's engine. -/
def State.changeEngine (s : State) (c : Nat) (f : Engine → Engine) : State :=
  s.changeCluster c fun x => { x with engine := f x.engine }

/-- The engine of the party at the issue slot. -/
def State.engine (s : State) : Engine := (s.cluster s.me.cluster).engine

/-- A queue number bound to a vector queue that runs into the stage, or out of it (R194, R202). -/
def queueFor (q : Fin 8) (input : Bool) : Act Nat := do
  let s ← get
  match s.me.qports[q], s.bundle s.me.bundle with
  | some j, some b => match b.desc.queues[j]? with
    | some r =>
      check ((if input then r.dst else r.src) == s.me.stage && !r.scalar) .qerr
      pure j
    | none => raise .qerr
  | _, _ => raise .qerr

/-- An MX word that becomes a job: room on the engine counter (R47), then its checks. -/
def mxWord (w : Bool) (body : Act Unit) : State → Out :=
  word w 1 do
    let s ← get
    waitFor (decide (s.me.engines < 6))
    body

/-- Hand over an MX job with its footprint (R192). -/
def mxSubmit (op : MxOp) (args : List Nat) (desc : Nat) (bank bit : Bool) (reads writes : List (Nat × Nat)) : Act Unit := do
  let (r, w) ← footprint true reads writes
  submit (.mx op args desc bank bit) false r w 0xFFFFFFFFFFFFFFFF 0

/-- Rows of bytes n apart: M rows of a length at a stride (R190). -/
def rowRanges (va stride m len : Nat) : List (Nat × Nat) := (List.range m).map fun i => ((va + i * stride) % 2 ^ 64, len)

/-! ## Weights -/

/-- WLOAD: the shadow bank's shape is latched at issue and its elements with the job (R199, log 27). -/
def execWload (w : Bool) (a b c : SOp) : State → Out :=
  mxWord w do
    let vs ← readClean [a, b, c]
    let va := (vs.getD 0 0).toNat
    let d := (vs.getD 1 0).toNat
    let sc := (vs.getD 2 0).toNat
    let es := actBytes (dFmt d)
    mxCheck [(1, natBits d 29 16 != 0), (2, decide (dFmt d < 2) && decide (dK d > 256)),
      (5, va % es != 0 || dStride d % es != 0)]
    let s ← get
    let bank := !s.engine.wact
    let cols := rowRanges va (dStride d) (dN d) (dK d * es)
    mxSubmit .wload [va, sc] d bank false
      (cols ++ if dFmt d == 3 then [(sc, dN d * blocksOf (dK d))] else []) []
    change fun s => s.changeEngine s.me.cluster fun e =>
      e.setBank bank { e.bank bank with valid := true, fmt := dFmt d, k := dK d, n := dN d }

/-- WSWAP (R200). -/
def execWswap (w : Bool) : State → Out :=
  mxWord w (change fun s => s.changeEngine s.me.cluster fun e => { e with wact := !e.wact })

/-! ## Accumulation -/

/-- AZERO (R201). -/
def execAzero (w g b : Bool) : State → Out := mxWord w (mxSubmit .azero [] 0 b g [] [])

/-- Checks that MMA, MMAQ and MMAG share (R189, R194); `extra` are further reasons of code 1 and 5. -/
def mmaCheck (d : Nat) (one five : Bool) (e : Engine) (six : Bool) : Act Unit :=
  let w := e.bank e.wact
  mxCheck [(1, natBits d 15 9 != 0 || one), (2, rowsOut d), (5, five), (4, !w.valid), (3, dK d != w.k), (6, six)]

/-- MMA (R202). -/
def execMma (w : Bool) (a b c : SOp) (m : Bool) : State → Out :=
  mxWord w do
    let vs ← readClean [a, b, c]
    let va := (vs.getD 0 0).toNat
    let d := (vs.getD 1 0).toNat
    let sc := (vs.getD 2 0).toNat
    let es := actBytes (dFmt d)
    let s ← get
    let e := s.engine
    mmaCheck d false (va % es != 0 || dStride d % es != 0) e false
    let wb := e.bank e.wact
    mxSubmit .mma [va, sc, wb.fmt, wb.k, wb.n] d e.wact m
      (rowRanges va (dStride d) (dM d) (dK d * es) ++ if dFmt d == 3 then [(sc, dM d * blocksOf (dK d))] else []) []

/-- MMAQ (R202). -/
def execMmaq (w : Bool) (q : Fin 8) (b : SOp) (m : Bool) : State → Out :=
  mxWord w do
    let x ← readS b
    let d := x.toNat
    let j ← queueFor q true
    let s ← get
    let e := s.engine
    mmaCheck d (dStride d != 0) false e false
    let wb := e.bank e.wact
    mxSubmit .mmaq [j, wb.fmt, wb.k, wb.n] d e.wact m [] []

/-- Queues c and u are the feeds of the bundle's twin pair, c of the conditioned stream and u of the unconditioned one. A word that names the two
in the other order gets code 6 as well: R194 speaks of queues that are not the two feeds, and leaves their order open (log 86). -/
def State.twinFeeds (s : State) (c u : Nat) : Bool :=
  match s.bundle s.me.bundle with
  | some b => match b.desc.queues[c]?, b.desc.queues[u]? with
    | some x, some y => x.twin == 1 && y.twin == 2 && x.src == y.src
    | _, _ => false
  | none => false

/-- MMAG (R203). -/
def execMmag (w : Bool) (c : Fin 8) (b : SOp) (u : Fin 8) : State → Out :=
  mxWord w do
    let x ← readS b
    let d := x.toNat
    let jc ← queueFor c true
    let ju ← queueFor u true
    let s ← get
    let e := s.engine
    mmaCheck d (dStride d != 0) false e (!s.twinFeeds jc ju)
    let wb := e.bank e.wact
    mxSubmit .mmag [jc, ju, wb.fmt, wb.k, wb.n] d e.wact false [] []

/-! ## Affine mode -/

/-- AGAIN (R204). -/
def execAgain (w : Bool) (a b : SOp) : State → Out :=
  mxWord w do
    let vs ← readClean [a, b]
    let va := (vs.getD 0 0).toNat
    let d := (vs.getD 1 0).toNat
    let es := gainBytes (dFmt d)
    mxCheck [(1, natBits d 8 0 != 0 || dFmt d == 3), (2, rowsOut d), (5, va % es != 0 || dStride d % es != 0)]
    mxSubmit .again [va] d false false (rowRanges va (dStride d) (dM d) (dN d * es)) []

/-- ASCAN (R205). -/
def execAscan (w : Bool) (a : SOp) (k b : Bool) : State → Out :=
  mxWord w do
    let x ← readS a
    let d := x.toNat
    mxCheck [(1, dStride d != 0 || dFmt d != 0 || natBits d 8 0 != 0), (2, rowsOut d)]
    mxSubmit .ascan [] d b k [] []

/-- The count of CARRYLD and CARRYST (R194, R206). -/
def carryCheck (va n : Nat) : Act Unit :=
  mxCheck [(1, decide (n ≥ 256)), (2, n == 0 || decide (n > 128)), (5, va % 4 != 0)]

/-- CARRYLD (R206). -/
def execCarryld (w : Bool) (a b : SOp) (z : Bool) : State → Out :=
  mxWord w do
    if z then mxSubmit .carryld [] 0 false true [] []
    else
      let vs ← readClean [a, b]
      let va := (vs.getD 0 0).toNat
      let n := (vs.getD 1 0).toNat
      carryCheck va n
      mxSubmit .carryld [va, n] 0 false false [(va, 4 * n)] []

/-- CARRYST (R206). -/
def execCarryst (w : Bool) (a b : SOp) : State → Out :=
  mxWord w do
    let vs ← readClean [a, b]
    let va := (vs.getD 0 0).toNat
    let n := (vs.getD 1 0).toNat
    carryCheck va n
    mxSubmit .carryst [va, n] 0 false false [] [(va, 4 * n)]

/-! ## Draining -/

/-- Write footprint of a drain to memory (R192). -/
def drainRanges (va sc d : Nat) : List (Nat × Nat) :=
  rowRanges va (dStride d) (dM d) (dN d * outBytes (dFmt d)) ++
    if dFmt d == 3 then [(sc, dM d * blocksOf (dN d))] else []

/-- Checks of a drain to memory; `one` is a further reason of code 1. -/
def drainCheck (va d : Nat) (one : Bool) : Act Unit :=
  let es := outBytes (dFmt d)
  mxCheck [(1, natBits d 8 0 != 0 || one), (2, rowsOut d), (5, va % es != 0 || dStride d % es != 0)]

/-- DRAIN (R207). -/
def execDrain (w : Bool) (a b c : SOp) (m : Bool) : State → Out :=
  mxWord w do
    let vs ← readClean [a, b, c]
    let va := (vs.getD 0 0).toNat
    let d := (vs.getD 1 0).toNat
    let sc := (vs.getD 2 0).toNat
    drainCheck va d false
    mxSubmit .drain [va, sc] d false m [] (drainRanges va sc d)

/-- DRAINQ (R207). -/
def execDrainq (w : Bool) (q : Fin 8) (b : SOp) (m : Bool) : State → Out :=
  mxWord w do
    let x ← readS b
    let d := x.toNat
    let j ← queueFor q false
    mxCheck [(1, natBits d 8 0 != 0 || dStride d != 0), (2, rowsOut d)]
    mxSubmit .drainq [j] d false m [] []

/-- DRAING to memory (R209). -/
def execDraing (w : Bool) (d0 a b c : SOp) : State → Out :=
  mxWord w do
    let vs ← readClean [a, b, c, d0]
    let va := (vs.getD 0 0).toNat
    let d := (vs.getD 1 0).toNat
    let g := (vs.getD 2 0).toNat
    let sc := (vs.getD 3 0).toNat
    drainCheck va d (decide (g ≥ 2 ^ 32))
    mxSubmit .draing [va, sc, g] d false false [] (drainRanges va sc d)

/-- DRAING.Q (R209). -/
def execDraingQ (w : Bool) (d0 : SOp) (q : Fin 8) (b c : SOp) : State → Out :=
  mxWord w do
    let vs ← readClean [b, c, d0]
    let d := (vs.getD 0 0).toNat
    let g := (vs.getD 1 0).toNat
    let j ← queueFor q false
    mxCheck [(1, natBits d 8 0 != 0 || dStride d != 0 || decide (g ≥ 2 ^ 32)), (2, rowsOut d)]
    mxSubmit .draingQ [j, g] d false false [] []

/-! ## MSYNC and MSTAT -/

/-- Outstanding MX instructions of a party. -/
def State.mxJobs (s : State) (p : Party) : Nat :=
  (p.pend.filter fun e => match e.kind with
    | .job n => (s.job n).any fun j => !j.copy
    | _ => false).length

/-- MSYNC: waits for every earlier MX instruction; then acts by its kind. The release of .REL and .AR stands as a FENCE.FULL, since
no later word issues until MSYNC has completed (R210, R213). -/
def execMsync (w pp : Bool) (k : SyncKind) (o : Scope) : State → Out :=
  mxWord w do
    let s ← get
    waitFor (s.mxJobs s.me == 0)
    if k == .rel || k == .ar || k == .acq then checkerRoom else pure ()
    if k == .acq || k == .ar then waitFor (s.me.pend.all fun e => !e.reads || e.performed) else pure ()
    change fun s => (s.report s.me.ident fun j => !j.copy).dropJobs
    if k == .acq then change fun s => s.logAcquire s.me.ident o [] else pure ()
    changeMe fun p => { (if k == .rel || k == .ar then p.addPend (.fence .full) 0 [] true o none [] else p) with atPoint := pp }

/-- The value of MSTAT (R196). -/
def State.mstat (s : State) : DWord :=
  let e := s.engine
  BitVec.ofNat 64 (e.fcode * 2 ^ 56 + s.mxJobs s.me * 2 ^ 32 + e.w1.valid.toNat * 2 ^ 11 + e.w0.valid.toNat * 2 ^ 10 +
    e.wact.toNat * 2 ^ 9 + e.flags.toNat)

/-- MSTAT (R211); its value is journaled (R411). -/
def execMstat (w : Bool) (d : SOp) (c : Bool) : State → Out :=
  mxWord w do
    let s ← get
    let v ← recordValue 0x20E s.mstat
    writeS d v
    if c then change fun s => s.changeEngine s.me.cluster fun e => { e with flags := 0 } else pure ()

/-! ## When a job may start (R186, R192, R212) -/

/-- Parts of engine state. -/
inductive Part where
  | w (b : Bool) | acc (b : Bool) | gain | carry
  deriving DecidableEq, Repr

/-- What an MX job reads and what it writes of the engine's state. -/
def MxOp.parts (op : MxOp) (bank bit : Bool) : List Part × List Part :=
  match op with
  | .wload => ([], [.w bank])
  | .azero => ([], .acc bank :: if bit then [.gain] else [])
  | .mma | .mmaq => ([.w bank, .acc bit], [.acc bit])
  | .mmag => ([.w bank, .acc false, .acc true], [.acc false, .acc true])
  | .again => ([], [.gain])
  | .ascan => ([.acc bank, .gain, .carry], [.acc bank, .gain, .carry])
  | .carryld => ([], [.carry])
  | .carryst => ([.carry], [])
  | .drain | .drainq => ([.acc bit], [])
  | .draing | .draingQ => ([.acc false, .acc true], [])

/-- Unit that performs a job (R212). -/
def MxOp.station (op : MxOp) : Nat :=
  match op with
  | .wload => 0
  | .mma | .mmaq | .mmag => 1
  | .again | .ascan | .carryld | .carryst => 2
  | .drain | .drainq | .draing | .draingQ => 3
  | .azero => 4

/-- Job k, earlier than j on one engine, must complete before j starts. -/
def mxBefore (k j : JobKind) : Bool :=
  match k, j with
  | .mx a _ _ b1 t1, .mx c _ _ b2 t2 =>
    let (r1, w1) := a.parts b1 t1
    let (r2, w2) := c.parts b2 t2
    w1.any (fun x => r2.contains x || w2.contains x) || r1.any (fun x => w2.contains x) ||
      (a.station == c.station && a.station != 4)
  | _, _ => false

/-- The conditions under which a job starts. -/
def State.mayStart (s : State) (j : Job) : Bool :=
  !j.started && s.jobOrder j && s.issuerClear j && !s.homesBusy j &&
    !((j.reads ++ j.writes).any fun x => s.claimedBefore none (some j.id) x.pa) &&
    (s.jobs.all fun k => k.id ≥ j.id || k.complete || k.cluster != j.cluster || k.copy || j.copy || !mxBefore k.kind j.kind) &&
    decide ((s.jobs.filter fun k => k.started && !k.complete && k.cluster == j.cluster && k.id != j.id).foldl
      (fun n k => n + k.pins.length) 0 + j.pins.length ≤ 512)

/-! ## Queues of a job -/

/-- The producer of a feed has gone and the feed holds nothing: its queue is closed (R202, R330), or, for the twin consumption of MMAG, the gangs
it was bound to have exited and no crew of their stage is still to start (R203). -/
def State.feedClosed (s : State) (b : Bundle) (j : Nat) (mmag : Bool) : Bool :=
  match b.queues[j]?, b.desc.queues[j]? with
  | some q, some r =>
    q.entries.isEmpty && (q.closed ||
      ((s.parties.all fun p => p.bundle != b.id || p.stage != r.src || !p.qports.toList.contains (some j) || p.live == 0) &&
        (b.stages[r.src]?).all (fun st => st.pending.isEmpty) && !(b.saved.any (·.stage == r.src)) &&
        decide (r.twin ≠ 0) && mmag))
  | _, _ => true

/-- Pop up to n entries of queue j for a job. -/
def State.jobPop (s : State) (bid j : Nat) : Nat → State × List VReg
  | 0 => (s, [])
  | n + 1 =>
    match (s.bundle bid).bind (·.queues[j]?) with
    | some q => match q.entries with
      | .vec v :: rest =>
        let s1 := s.changeBundle bid fun b => { b with queues := updateAt (fun q => { q with entries := rest, fullSince := none }) j b.queues }
        let (s2, vs) := s1.jobPop bid j n
        (s2, v :: vs)
      | _ => (s, [])
    | none => (s, [])

/-- Push entries of a job while there is room: what is left. -/
def State.jobPush (s : State) (bid j : Nat) : List VReg → State × List VReg
  | [] => (s, [])
  | v :: rest =>
    match (s.bundle bid).bind (·.queues[j]?), (s.bundle bid).bind (·.desc.queues[j]?) with
    | some q, some r =>
      if q.entries.length < r.depth then
        (s.changeBundle bid fun b => { b with queues := updateAt (fun q =>
          { q with entries := q.entries ++ [.vec v]
                   fullSince := if q.entries.length + 1 == r.depth then some s.rtime.toNat else none }) j b.queues }).jobPush bid j rest
      else (s, v :: rest)
    | _, _ => (s, [])

/-! ## Performing -/

/-- Set several entries of a table. -/
def setAll {α : Type} (t : Tbl α) (xs : List (Nat × α)) : Tbl α := xs.foldl (fun u x => Tbl.set u x.1 x.2) t

/-- An activation row from memory. -/
def State.memRow (s : State) (j : Job) (va sc d i : Nat) : Row :=
  let es := actBytes (dFmt d)
  { fmt := dFmt d
    elems := elemsOf es (dK d) (s.operandRead j.reads ((va + i * dStride d) % 2 ^ 64) (dK d * es))
    scales := if dFmt d == 3 then elemsOf 1 (blocksOf (dK d)) (s.operandRead j.reads ((sc + i * blocksOf (dK d)) % 2 ^ 64) (blocksOf (dK d))) else [] }

/-- The tile of WLOAD: codes with the poison of their scales, and scales. -/
def State.tile (s : State) (j : Job) (va sc d : Nat) : Tbl Elem × Tbl Nat :=
  let es := actBytes (dFmt d)
  let g := blocksOf (dK d)
  (List.range (dN d)).foldl (fun (acc : Tbl Elem × Tbl Nat) n =>
    let ss := if dFmt d == 3 then elemsOf 1 g (s.operandRead j.reads ((sc + n * g) % 2 ^ 64) g) else []
    let xs := elemsOf es (dK d) (s.operandRead j.reads ((va + n * dStride d) % 2 ^ 64) (dK d * es))
    (setAll acc.1 (xs.zipIdx.map fun x =>
        (at128 x.2 n, { x.1 with poison := x.1.poison || (ss[x.2 / 32]?).any (·.poison) })),
     setAll acc.2 (ss.zipIdx.map fun x => (at128 x.2 n, x.1.bits.toNat)))) ([], [])

/-- Elements 0 to N - 1 of a row of a plane. -/
def rowOf (t : Tbl Elem) (r n : Nat) : List Elem := (List.range n).map fun k => elemAt t (at128 r k)

/-- +1.0, the start value of a gain (R185). -/
def oneElem : Elem := { bits := 0x3F800000, poison := false }

/-- The gain of an element. -/
def Engine.gainAt (e : Engine) (k : Nat) : Elem := Tbl.getD e.gain k oneElem

/-- ASCAN on an engine (R205). -/
def Engine.scan (e : Engine) (d : Nat) (b keep : Bool) : Engine :=
  (List.range (dN d)).foldl (fun e n =>
    let rows := (List.range (dM d)).map fun i => at128 (dRow d + i) n
    let (out, f) := scanColumn (rows.map fun k => (e.gainAt k, elemAt (e.acc b) k)) (elemAt e.carry n)
    let e1 := ((e.setAcc b (setAll (e.acc b) (rows.zip (out.map (·.2))))).orFlags f)
    { e1 with
      gain := setAll e.gain (rows.zip (out.map (·.1)))
      carry := if keep then e.carry else Tbl.set e.carry n ((out.getLast?.map (·.2)).getD (elemAt e.carry n)) }) e

/-- The values a drain writes for a row, none where DRAING writes nothing, and whether TWA is set (R207, R209). -/
def Engine.drained (e : Engine) (op : MxOp) (g : Word) (bit : Bool) (r n : Nat) : Option (List Elem) × BitVec 32 :=
  match op with
  | .draing | .draingQ =>
    let ca := e.absent0.contains r
    let ua := e.absent1.contains r
    let cs := rowOf e.acc0 r n
    let us := rowOf e.acc1 r n
    match ca, ua with
    | false, false =>
      let xs := cs.zipWith (guided g) us
      (some (xs.map (·.1)), xs.foldl (fun m x => m ||| x.2) 0)
    | true, false => (some us, 0x20)
    | false, true => (some cs, 0x20)
    | true, true => (none, 0x20)
  | _ => (some (rowOf (e.acc bit) r n), 0)

/-- DRAIN, DRAING or CARRYST to memory: rows from 0 on (R195, R207, R209). -/
def State.drainMem (s : State) (j : Job) (op : MxOp) (va sc d : Nat) (g : Word) (bit : Bool) : State :=
  let c := j.cluster
  let e := (s.cluster c).engine
  let es := outBytes (dFmt d)
  let (t, bad) := (List.range (dM d)).foldl (fun (acc : State × List Nat) i =>
    let (vs, f) := e.drained op g bit (dRow d + i) (dN d)
    let t0 := acc.1.changeEngine c (·.orFlags f)
    match vs with
    | none => (t0, acc.2)
    | some xs =>
      let (bytes, scales, f2) := drainRow (dFmt d) true xs
      let at0 := (va + i * dStride d) % 2 ^ 64
      let t1 := (t0.jobWrite j.writes at0 (bytes.map (·.1))).changeEngine c (·.orFlags f2)
      let t2 := if scales.isEmpty then t1
        else t1.jobWrite j.writes ((sc + i * blocksOf (dN d)) % 2 ^ 64) (scales.map (·.1))
      (t2, acc.2 ++ (bytes.zipIdx.filter (·.1.2)).map fun x => at0 + x.2 / es * es)) (s, [])
  t.poisonLines j.writes bad

/-- Entries that DRAINQ or DRAING.Q pushes, and its flags (R190, R207, R209). -/
def Engine.drainEntries (e : Engine) (op : MxOp) (d : Nat) (g : Word) (bit : Bool) : List VReg × BitVec 32 :=
  (List.range (dM d)).foldl (fun (acc : List VReg × BitVec 32) i =>
    let (vs, f) := e.drained op g bit (dRow d + i) (dN d)
    let n := rowEntries (dN d) (outBytes (dFmt d))
    match vs with
    | none => (acc.1 ++ entriesOf (n + if dFmt d == 3 then 1 else 0) [], acc.2 ||| f)
    | some xs =>
      let (bytes, scales, f2) := drainRow (dFmt d) false xs
      (acc.1 ++ entriesOf n bytes ++ (if dFmt d == 3 then entriesOf 1 scales else []), acc.2 ||| f ||| f2)) ([], 0)

/-- A queue fault of a job: its issuer takes QERR, or where the issuer has gone the bundle records status 6 (R202, R207, R322, R396). -/
def State.jobFault (s : State) (j : Job) : State :=
  match s.party j.issuer with
  | some p => if p.live == 0 || p.stopped then s.recordStatus j.bundle 6 else s.raiseAsync j.issuer .qerr
  | none => s.recordStatus j.bundle 6

/-- MMAQ and MMAG: consume the rows whose entries have come; `fuel` bounds the rows. A row that its feed closed before is absent
(R202, R203); entries of a row that had come only in part are popped and counted for nothing, which the spec leaves open (log 87). Answers the
state and whether every row has been consumed. -/
def State.consume (s : State) (jid : Nat) : Nat → State × Bool
  | 0 => (s, true)
  | k + 1 =>
    match s.job jid with
    | none => (s, true)
    | some j =>
      match j.kind, s.bundle j.bundle with
      | .mx op args d bank bit, some b =>
        let twin := op == .mmag
        let qs := if twin then args.take 2 else args.take 1
        let lat := if twin then args.drop 2 else args.drop 1
        let (fmt, kk, nn) := (lat.getD 0 0, lat.getD 1 1, lat.getD 2 1)
        let need := rowEntries kk (actBytes (dFmt d)) + (if dFmt d == 3 then 1 else 0)
        let (s1, v1) := s.jobPop j.bundle (qs.getD 0 0) (need - j.buf.length)
        let (s2, v2) := if twin then s1.jobPop j.bundle (qs.getD 1 0) (need - j.buf2.length) else (s1, [])
        let b1 := j.buf ++ v1
        let b2 := j.buf2 ++ v2
        let bnow := (s2.bundle j.bundle).getD b
        let have1 := decide (b1.length = need)
        let have2 := !twin || decide (b2.length = need)
        let gone1 := !have1 && s2.feedClosed bnow (qs.getD 0 0) twin
        let gone2 := !have2 && s2.feedClosed bnow (qs.getD 1 0) twin
        if !(have1 || gone1) || !(have2 || gone2) then
          (s2.changeJob jid fun x => { x with buf := b1, buf2 := b2 }, false)
        else
          let r := dRow d + j.row
          let feed (e : Engine) (acc have0 : Bool) (es : List VReg) : Engine :=
            if have0 then
              let (a, f) := macRow (e.bank bank) fmt kk nn (e.acc acc) r (rowOfEntries (dFmt d) kk es)
              (e.setAcc acc a).orFlags f
            else e.setAbsent acc (insertNat r (e.absent acc))
          let s3 := s2.changeEngine j.cluster fun e =>
            let e1 := feed e (if twin then false else bit) have1 b1
            if twin then feed e1 true have2 b2 else e1
          let s4 := if gone1 && !twin && b1.length < need then s3.jobFault j else s3
          (s4.changeJob jid fun x => { x with buf := [], buf2 := [], row := j.row + 1 }).consume jid k
      | _, _ => (s, true)

/-- Perform what a started MX job can do now: the state, and whether the job is done. -/
def State.runMx (s : State) (j : Job) : State × Bool :=
  let c := j.cluster
  match j.kind with
  | .mx op args d bank bit =>
    let arg (n : Nat) : Nat := args.getD n 0
    match op with
    | .wload =>
      let (w, sc) := s.tile j (arg 0) (arg 1) d
      (s.changeEngine c fun e => e.setBank bank { e.bank bank with w := w, scale := sc }, true)
    | .azero =>
      (s.changeEngine c fun e =>
        let e1 := (e.setAcc bank []).setAbsent bank []
        if bit then { e1 with gain := [] } else e1, true)
    | .mma =>
      ((List.range (dM d)).foldl (fun t i => t.changeEngine c fun e =>
        let (a, f) := macRow (e.bank bank) (arg 2) (arg 3) (arg 4) (e.acc bit) (dRow d + i) (s.memRow j (arg 0) (arg 1) d i)
        (e.setAcc bit a).orFlags f) s, true)
    | .mmaq | .mmag => s.consume j.id (dM d - j.row)
    | .again =>
      let es := gainBytes (dFmt d)
      (s.changeEngine c fun e => { e with
        gain := (List.range (dM d)).foldl (fun t i =>
          let xs := elemsOf es (dN d) (s.operandRead j.reads ((arg 0 + i * dStride d) % 2 ^ 64) (dN d * es))
          setAll t (xs.zipIdx.map fun x => (at128 (dRow d + i) x.2, { x.1 with bits := gainValue (dFmt d) x.1.bits.toNat }))) e.gain },
       true)
    | .ascan => (s.changeEngine c fun e => e.scan d bank bit, true)
    | .carryld =>
      (s.changeEngine c fun e => { e with
        carry := if bit then [] else setAll e.carry ((elemsOf 4 (arg 1) (s.operandRead j.reads (arg 0) (4 * arg 1))).zipIdx.map fun x => (x.2, x.1)) },
       true)
    | .carryst =>
      let e := (s.cluster c).engine
      let xs := (List.range (arg 1)).map (elemAt e.carry)
      let t := s.jobWrite j.writes (arg 0) (xs.flatMap fun x => bytesLE 4 (if x.poison then f32.nanBits else x.bits.toNat))
      (t.poisonLines j.writes ((xs.zipIdx.filter (·.1.poison)).map fun x => arg 0 + 4 * x.2), true)
    | .drain => (s.drainMem j op (arg 0) (arg 1) d 0 bit, true)
    | .draing => (s.drainMem j op (arg 0) (arg 1) d (BitVec.ofNat 32 (arg 2)) bit, true)
    | .drainq | .draingQ =>
      let g : Word := if op == .drainq then 0 else BitVec.ofNat 32 (arg 1)
      let (es, s1) :=
        if j.row == 0 then
          let (es, f) := (s.cluster c).engine.drainEntries op d g bit
          (es, s.changeEngine c (·.orFlags f))
        else (j.buf, s)
      let ended : Bool := match s1.bundle j.bundle with
        | some b => match b.desc.queues[arg 0]? with
          | some r => (b.stages[r.dst]?).any (·.finished)
          | none => true
        | none => true
      if ended then (if es.isEmpty then s1 else s1.jobFault j, true)
      else
        let (s2, rest) := s1.jobPush j.bundle (arg 0) es
        (s2.changeJob j.id fun x => { x with row := 1, buf := rest }, rest.isEmpty)
  | _ => (s, true)

end Sys2Proof.Machine
end

