-- ==== Sys2Proof/Machine/Copy.lean ====
section
/-! DEFINITION. The CP words: copy jobs and their cards (R261-R265), JWAIT and JSTAT (R266, R267), ENQ (R344), and the moves a copy
job performs (R262). -/

namespace Sys2Proof.Machine

open Sys2Proof

/-! ## Job cards -/

/-- Shapes of copy words. -/
inductive CopyOp where
  | cpy | cpyr | gath | scat
  deriving DecidableEq, Repr

/-- A 64-bit field of a card. -/
def field64 (bs : List Byte) (o : Nat) : Nat := natLE ((bs.drop o).take 8)

/-- A power of two from 1 to 4096 (R261). -/
def elemLegal (e : Nat) : Bool := (List.range 13).any fun k => e == 2 ^ k

/-- The fields of a card keep R261. -/
def cardLegal (op : CopyOp) (bs : List Byte) : Bool :=
  let zero (os : List Nat) : Bool := os.all fun o => field32 bs o == 0
  let e := field32 bs 24
  let listed := field64 bs 16 % 4 == 0 && elemLegal e && field64 bs 0 % e == 0 && field64 bs 8 % e == 0 && field64 bs 48 % e == 0
  match op with
  | .cpy => zero [16, 20, 24, 32, 36, 40, 44, 48, 52, 56, 60] && field32 bs 28 != 0
  | .cpyr => zero [16, 20, 24, 44, 48, 52, 56, 60] && field32 bs 32 != 0
  | .gath | .scat => zero [32, 36, 40, 44, 56, 60] && listed

/-- The job a card describes. -/
def cardKind (op : CopyOp) (bs : List Byte) : JobKind :=
  let dst := field64 bs 0
  let src := field64 bs 8
  let len := field32 bs 28
  match op with
  | .cpy => .cpy dst src len
  | .cpyr => .cpyr dst src len (field32 bs 32) (field32 bs 36) (field32 bs 40)
  | .gath => .gath dst src (field64 bs 16) (field32 bs 24) len (field64 bs 48)
  | .scat => .scat dst src (field64 bs 16) (field32 bs 24) len (field64 bs 48)

/-- Footprint of a copy job, and the bytes it reads and writes (R262, R264). -/
def copyRanges (k : JobKind) : List (Nat × Nat) × List (Nat × Nat) × Nat × Nat :=
  match k with
  | .cpy dst src len => ([(src, len)], [(dst, len)], len, len)
  | .cpyr dst src len nrow ss ds =>
    ((List.range nrow).map fun r => ((src + r * ss) % 2 ^ 64, len),
     (List.range nrow).map fun r => ((dst + r * ds) % 2 ^ 64, len), nrow * len, nrow * len)
  | .gath dst src idx e len span => ([(idx, 4 * len), (src, span)], [(dst, len * e)], 4 * len + len * e, len * e)
  | .scat dst src idx e len span => ([(idx, 4 * len), (src, len * e)], [(dst, span)], 4 * len + len * e, len * e)
  | .mx .. => ([], [], 0, 0)

/-- An extent lies outside device memory. -/
def Extent.foreign (x : Extent) : Bool := regionOf x.pa == .host || regionOf x.pa == .peer

/-- The promise of R264. -/
def promiseOf (rtime live bytes : Nat) (foreign : Bool) : Nat :=
  rtime + 1000 * (1 + live) + (bytes + 99) / 100 + (if foreign then 4000 else 0)

/-- A copy word: the card is read and checked, the footprint translated, the job handed over and its promise written (R263,
R264). -/
def copyWord (w : Bool) (op : CopyOp) (d a : SOp) : State → Out :=
  word w 1 do
    checkerRoom
    let s ← get
    waitFor (decide (s.me.engines < 6))
    let va ← readS a
    check (va.toNat % 64 == 0) .algn
    let accs ← accessWhole .load (wordParts va.toNat 16)
    let parts ← readNow accs
    let bs := parts.flatMap (·.1)
    check (cardLegal op bs) .illi
    check (parts.all (!·.2)) .pois
    let kind := cardKind op bs
    let (rd, wr, nr, nw) := copyRanges kind
    let (re, we) ← footprint false rd wr
    let s ← get
    let live := (s.jobs.filter fun j => j.issuer == s.me.ident && j.copy && !j.complete).length
    let p := promiseOf s.rtime.toNat live (nr + nw) ((re ++ we).any (·.foreign))
    let code := match op with | .cpy => 0x200 | .cpyr => 0x201 | .gath => 0x202 | .scat => 0x203
    let v ← recordValue code (BitVec.ofNat 64 p)
    submit kind true re we v nw
    writeS d v

/-- CPY (R262). -/
def execCpy (w : Bool) (d a : SOp) : State → Out := copyWord w .cpy d a
/-- CPYR (R262). -/
def execCpyr (w : Bool) (d a : SOp) : State → Out := copyWord w .cpyr d a
/-- GATH (R262). -/
def execGath (w : Bool) (d a : SOp) : State → Out := copyWord w .gath d a
/-- SCAT (R262). -/
def execScat (w : Bool) (d a : SOp) : State → Out := copyWord w .scat d a

/-! ## Moving bytes -/

/-- Moves of a copy job, destination, source and length, in order; or the ERR code of its index list (R262, R265). -/
def State.copyMoves (s : State) (j : Job) : Except Nat (List (Nat × Nat × Nat)) :=
  let listed (idx e len span : Nat) (f : Nat → Nat → Nat × Nat × Nat) : Except Nat (List (Nat × Nat × Nat)) :=
    (List.range len).foldlM (fun acc i =>
      let b := s.jobRead j.reads (idx + 4 * i) 4
      let k := natLE (b.map (·.1))
      if b.any (·.2) then .error 3
      else if (k + 1) * e > span then .error 1
      else .ok (acc ++ [f i k])) []
  match j.kind with
  | .cpy dst src len => .ok [(dst, src, len)]
  | .cpyr dst src len nrow ss ds => .ok ((List.range nrow).map fun r => ((dst + r * ds) % 2 ^ 64, (src + r * ss) % 2 ^ 64, len))
  | .gath dst src idx e len span => listed idx e len span fun i k => (dst + i * e, src + k * e, e)
  | .scat dst src idx e len span => listed idx e len span fun i k => (dst + k * e, src + i * e, e)
  | .mx .. => .ok []

/-- Source bytes on a line that holds poison (R262). -/
def State.lineBad (s : State) (xs : List Extent) (va : Nat) : Bool :=
  match findExtent xs va with
  | some (_, pa) => s.poisonedAt (pa / 128 * 128) 128
  | none => false

/-- Cut moves to their first n bytes, where a refusal ends them (R265). -/
def cutMoves : List (Nat × Nat × Nat) → Nat → List (Nat × Nat × Nat)
  | [], _ => []
  | (d, v, l) :: rest, n => if n == 0 then [] else (d, v, Nat.min l n) :: cutMoves rest (n - l)

/-- Perform a copy job: every read before any write; destination lines that a poisoned source line reaches are poisoned. -/
def State.runCopy (s0 : State) (j : Job) (refused : Option Nat) : State × Nat :=
  let s := s0.engineReach j
  match s.copyMoves j with
  | .error e => (s, e)
  | .ok moves =>
    let ms := match refused with | some n => cutMoves moves n | none => moves
    let got := ms.map fun m => (m.1, (s.jobRead j.reads m.2.1 m.2.2).map (·.1),
      if s.poison.isEmpty then [] else ((List.range m.2.2).filter fun k => s.lineBad j.reads (m.2.1 + k)).map fun k => m.1 + k)
    let t := got.foldl (fun t m => t.jobWrite j.writes m.1 m.2.1) s
    (t.poisonLines j.writes (got.flatMap (·.2.2)), if refused.isSome then 2 else 0)

/-! ## JWAIT and JSTAT -/

/-- The issuer's unreported copy jobs: from the first that has not completed on (R266). -/
def State.unreported (s : State) (i : Ident) : List Job :=
  (s.jobs.filter fun j => j.issuer == i && j.copy && !j.reported).dropWhile (·.complete)

/-- Report the issuer's copy jobs that have completed in issue order (R266). -/
def State.reportCopies (s : State) (i : Ident) : State :=
  let still := (s.unreported i).map (·.id)
  (s.report i fun j => j.copy && !still.contains j.id).dropJobs

/-- JWAIT ends: the completed jobs are reported, and it is an acquire from them (R266, R280). -/
def State.endJwait (s : State) (i : Ident) : State := (s.reportCopies i).logAcquire i .none []

/-- JWAIT (R266). -/
def execJwait (w : Bool) (n : Fin 6) : State → Out :=
  word w 1 do
    checkerRoom
    let s ← get
    if (s.unreported s.me.ident).length ≤ n.val then change fun s => s.endJwait s.me.ident
    else enterWait (.jwait n.val)

/-- The value of JSTAT (R267). -/
def State.jstat (s : State) : DWord :=
  let u := s.unreported s.me.ident
  let rem := match u with | j :: _ => Nat.min j.total 0xFFFFFFFF | [] => 0
  BitVec.ofNat 64 (s.me.copyErr * 2 ^ 40 + u.length * 2 ^ 32 + rem)

/-- JSTAT: an acquire from the jobs it reports (R267, R280). -/
def execJstat (w : Bool) (d : SOp) (c : Bool) : State → Out :=
  word w 1 do
    checkerRoom
    let s ← get
    let v ← recordValue 0x205 s.jstat
    change fun s => s.endJwait s.me.ident
    writeS d v
    if c then changeMe fun p => { p with copyErr := 0 } else pure ()

/-! ## ENQ -/

/-- A command queue takes commands from bundles of a partition (R344). -/
def Qcb.accepts (q : Qcb) (part : Fin 4) : Bool := q.enable && q.devenq && q.part == part

/-- ENQ: the sequence number is reserved at issue; slot and event follow as a release at device scope (R344). -/
def execEnq (f : FS) : State → Out :=
  word f.w 1 do
    checkerRoomFor 2
    let vs ← readClean [f.a, f.b]
    let va := (vs.getD 0 0).toNat
    let q := (vs.getD 1 0).toNat
    check (va % 64 == 0) .algn
    let accs ← accessWhole .load (wordParts va 16)
    let s ← get
    let c := Tbl.getD s.queues q .initial
    check (decide (q ≤ 1023) && c.accepts s.me.part) .perm
    let full := (c.tail - c.head).toNat == 2 ^ c.log2n
    let v ← recordValue 0x206 (if full then 0xFFFFFFFFFFFFFFFF else zext64 c.tail)
    if full then writeS f.d v
    else
      waitFor (decide (s.me.engines < 6))
      let parts ← readNow accs
      let bytes := ((parts.flatMap (·.1)).take 56) ++ List.replicate 8 (0 : Byte)
      let bad := (parts.zipIdx.filter (·.1.2)).map (·.2)
      let user := if s.me.sup then c.userSeqs else c.tail.toNat :: c.userSeqs
      change fun s => { s with queues := Tbl.set s.queues q { c with tail := c.tail + 1, userSeqs := user } }
      changeMe fun p => { p.addPend (.enq q c.tail.toNat bytes bad) 0 [] true .dev none [] with noFlush := true }
      writeS f.d v

end Sys2Proof.Machine
end

