-- ==== Sys2Proof/Machine/Check.lean ====
section
/-! DEFINITION. What completes outstanding words: stores, releases, reads, write-backs, claims (R56, R223, R258, R279); and the
checkers: reorder, intervals, horizon (R275-R279), evictions (R289). Each event does nothing where it is not enabled. -/

namespace Sys2Proof.Machine

open Sys2Proof

/-! ## Completion of outstanding words -/

/-- A word has nothing left to do once it is performed: no register waits for it. -/
def Pend.finished (e : Pend) : Bool :=
  e.performed && match e.kind with
    | .store .. | .cmo .. | .sunmap .. | .arrive | .mon | .fence _ => true
    | .load .. | .atomic .. => e.active == 0
    | _ => false

/-- Drop word n once it is finished. -/
def State.dropFinished (s : State) (i : Ident) (n : Nat) : State :=
  match s.pendOf i n with
  | some (_, e) => if e.finished then s.dropPend i n else s
  | none => s

/-- A relaxed store of a gang may be written into the core's L1, where its crew sees it, before it is performed (R225): what must
precede it is performed or as early. None behind a release is, since a containment may still drop it (R227, R282). -/
def Party.mayBeEarly (p : Party) (e : Pend) : Bool :=
  !p.isThread && e.early == 0 && !e.performed && e.past.isEmpty && e.writes && !e.ord &&
    e.accs.all (fun a => !a.tent && (a.mt == 0 || a.mt == 3)) &&
    (p.pend.takeWhile fun x => x.id != e.id).all fun x => x.performed || (!x.isRelease && (x.early != 0 || !mustPrecede x e))

/-- The crew sees a store from now on, in its core's L1 at the time its core's clock has; the time of a store to host memory is the bridge's, at
acceptance (R225, R270). -/
def State.seenEarly (s : State) (p : Party) (n : Nat) : State :=
  let t := s.tick p.clockUnit
  let mark (a : LaneAcc) : LaneAcc := if regionOf a.pa == .host then a else { a with early := (t.clock p.clockUnit).toNat }
  { t.changePend p.ident n fun x => { x with early := s.fresh + 1, accs := x.accs.map mark } with fresh := s.fresh + 1 }

/-- STORE_PERFORMED: a store word that is not a release, a CMO or an SUNMAP is performed, after what must precede it (R223,
R226). Whether the crew sees it first is open (R225, log 5), and so is which of its lanes other parties see first (R119, R234, log 5). -/
def execStorePerformed (p : Ident) (n : Portion) (s : State) : Out :=
  match s.pendOf p n.word with
  | some (q, e) =>
    match e.kind with
    | .store .. | .cmo .. | .sunmap .. =>
      if e.isRelease then .next s
      else if q.mayBeEarly e && !s.obstructed q e && !q.drops e && Config.freeBit [2, s.fresh, n.word] then .next (s.seenEarly q n.word)
      else .next ((s.performIn p n.word false n.lanes).dropFinished p n.word).openJobs
    | _ => .next s
  | none => .next s

/-- What a release does when it completes, in the lanes of a mask (R228, R279). -/
def State.finishRelease (s : State) (i : Ident) (n : Nat) (m : LaneMask) : State :=
  match s.pendOf i n with
  | none => s
  | some (_, e) =>
    let s2 := match e.kind with
      | .store .. | .atomic .. | .arrive => s.performIn i n true m
      | _ => s.changePend i n fun x => { x with performed := true }
    if (s2.pendOf i n).any (·.2.performed) then
      (s2.changeParty i fun q => { q with lastRel := e.tp }).dropFinished i n
    else s2

/-- RELEASE_COMPLETE: an ordered store or atomic, a fence, a BAR arrival, an ordered MQPUT or an ENQ moves on: its earlier accesses
are performed, it takes its time, and once checking has caught up it is performed, lane by lane where the event says so (R119, R223, R279).
FENCE.ACQ needs no checking. A release store that EARLYREL is to send ahead, and that could not be served when it issued, goes first (R287). -/
def execReleaseComplete (p : Ident) (n : Portion) (s : State) : Out :=
  match s.pendOf p n.word with
  | some (q, e) =>
    if e.performed then .next s
    else if q.injects e then .next (s.injEarly p n.word).openJobs
    else if e.isRelease then .next (s.completeRelease p n.word fun t => t.finishRelease p n.word n.lanes).openJobs
    else match e.kind with
      | .fence _ => .next ((s.perform p n.word false).dropFinished p n.word).openJobs
      | _ => .next s
  | none => .next s

/-- READ_RETURNED: a read that is no release binds its value, lane by lane where the event says so (R56, R119, R225, R253); with the last of its
refills a RET is performed (R345). -/
def execReadReturned (p : Ident) (n : Portion) (s : State) : Out :=
  match s.pendOf p n.word with
  | some (_, e) =>
    if !e.reads || e.isRelease then .next s
    else .next (((s.performIn p n.word false n.lanes).endRefill p n.word).dropFinished p n.word).openJobs
  | none => .next s

/-- Old values of an atomic's lanes, lane 0 first. -/
def oldValues (e : Pend) (r : VReg) : List Nat := (LaneMask.lanes e.active).map fun l => (r.val[l]).toNat

/-- In replay mode an atomic returns the recorded old values; a differing live value, or a missing entry, is reported (R412,
R413). -/
def State.replayAtom (s : State) (p : Party) (e : Pend) : State :=
  match e.kind, e.bound with
  | .atomic .., some (r :: rest) =>
    let s1 := s.journalEntry p.part p.source
      { kind := 0x14, ident := p.ident, pos := e.pos, key := e.active.toNat, vals := oldValues e r }
    if !s1.debugBit p.part 7 || s1.debug[p.part].diverged.contains p.ident then s1
    else match s1.recorded p 0x14 e.pos with
      | none =>
        (s1.emit p.part p.source 0x08 (le8 2 ++ le8 p.ident.toNat ++ le8 e.pos ++ le8 0)).changeDebug p.part fun d =>
          { d with diverged := p.ident :: d.diverged }
      | some j =>
        let ls := LaneMask.lanes e.active
        let val : Lanes Word := lanes fun l => match ls.idxOf? l with
          | some k => BitVec.ofNat 32 (j.vals.getD k 0)
          | none => r.val[l]
        let s2 := if samePrefix (oldValues e r) j.vals then s1
          else s1.emit p.part p.source 0x08 (le8 3 ++ le8 p.ident.toNat ++ le8 e.pos ++
            le8 ((e.accs.head?.map fun a => a.pa / 128 * 128).getD 0))
        s2.changePend p.ident e.id fun x => { x with bound := some ({ r with val } :: rest) }
  | _, _ => s

/-- LONG_RESULT_WRITEBACK: a long result is written into its registers (R56). Of two that are pending to one name either may be written
last (R57): which one is the order of the events (log 3). An atomic waits while the journal has no room for its entry (R405). -/
def execLongResultWriteback (p : Ident) (n : Nat) (s : State) : Out :=
  match s.pendOf p n with
  | some (_, e) =>
    if !e.isLong then .next s
    else
      let s1 := if e.reads && !e.performed && !e.isRelease then s.perform p n false
        else match e.kind with
          | .mqget .. => s.perform p n false
          | _ => s
      match s1.pendOf p n with
      | some (q1, e1) =>
        let room := match e1.kind with
          | .atomic .. => s1.journalRoom q1.part (journalBytes (3 + (LaneMask.lanes e1.active).length))
          | _ => true
        if (e1.reads && !e1.performed) || e1.bound.isNone || !room then .next s1.openJobs
        else .next ((s1.replayAtom q1 e1).writeBack p n).openJobs
      | none => .next s1
  | none => .next s

/-- Dies that home the pages of a leaf: the one it names, or every die of the partition (R297). -/
def State.leafHomes (s : State) (part : Fin 4) (pte : BitVec 64) : List Nat :=
  if ptePl pte == 1 then [pteHd pte] else diesOf s.parts[part].dies

/-- CLAIM_MOVE: one leaf moves once every access to it that was issued before the CLAIM has been performed and no engine job received before it,
and no pin, holds it; neither home may be in a relock (R258, R302, R308). -/
def execClaimMove (p : Ident) (n : Nat) (s : State) : Out :=
  match s.pendOf p n with
  | some (q, e) =>
    match e.kind with
    | .claim [] _ _ => .next (s.dropPend p n)
    | .claim (va :: rest) before jobs =>
      let left (t : State) : State := if rest.isEmpty then t.dropPend p n else t.changePend p n fun x => { x with kind := .claim rest before jobs }
      match s.walk q.asid va with
      | .error _ => .next (left s)
      | .ok (level, pte) =>
        let base := ptePa pte
        let size := 2 ^ leafShift level
        let inLeaf (pa : Nat) : Bool := decide (base ≤ pa) && decide (pa < base + size)
        let busy (i : Ident) (x : Pend) : Bool :=
          !x.performed && (before.lookup i).any (fun k => decide (x.id < k)) && x.accs.any fun a => inLeaf a.pa
        let s1 := s.parties.foldl (fun t r => (r.pend.filter (busy r.ident)).foldl (fun u x => u.perform r.ident x.id false) t) s
        let drained := s1.parties.all fun r => !r.pend.any (busy r.ident)
        let worked := s1.jobs.any fun j => j.id < jobs && !j.complete && (j.reads ++ j.writes).any fun x => overlaps x.pa x.len base size
        let pinned := s1.lines.any fun x => inLeaf (x.1 * 128) && !x.2.pinned.isEmpty
        let stopped := (q.die :: s1.leafHomes q.part pte).any fun d => (s1.die d).busy
        if !drained || worked || pinned || stopped then .next s1 else .next (left (s1.moveLeaf q.part q.asid va q.die))
    | _ => .next s
  | none => .next s

/-- LINE_EVICTION: a cache lets go of a line, dirty data going home (R289). -/
def execLineEviction (u l : Nat) (s : State) : Out :=
  if u < 1024 && s.evictable u l then .next (s.release u l .close) else .next s

/-! ## The reorder checker (R276) -/

/-- The latest time of an earlier word at a scope (R270). -/
def REntry.last (r : REntry) (o : Scope) : BitVec 48 := BitVec.ofNat 48 (if Scope.wide o then r.tp else r.tc)

/-- The earliest time of a later word at a scope. -/
def REntry.first (r : REntry) (o : Scope) : BitVec 48 := BitVec.ofNat 48 (if Scope.wide o then r.tp0 else r.tc0)

/-- Strictly earlier logical time (R269). -/
def earlier (a b : BitVec 48) : Bool := a != b && laterOrSame b a

/-- The required order fails for x earlier and y later in program order: the rows of R276. T is the Tc of a word without Tp of its own. Stores to
write-combined pages keep no order among themselves (R226), and a release of crew scope or narrower is behind an earlier store for its scope only
(R245, log 101). -/
def reorderFails (x y : REntry) : Bool :=
  let same := x.spans.any fun a => y.spans.any fun b => overlaps a.1 a.2 b.1 b.2
  let late (a b : BitVec 48) : Bool := !earlier a b
  let t (r : REntry) : BitVec 48 := BitVec.ofNat 48 r.tc
  let t0 (r : REntry) : BitVec 48 := BitVec.ofNat 48 r.tc0
  let fy (k : FenceKind) : Bool := y.fence == some k
  let fx (k : FenceKind) : Bool := x.fence == some k
  (x.access && y.rel && y.fence.isNone && late (x.last y.scope) (y.first y.scope)) ||
  (x.acq && x.fence.isNone && y.access && late (t x) (y.first x.scope)) ||
  (x.covered && y.covered && !(x.combined && y.combined) && !(y.rel && !Scope.wide y.scope) && !same && (late (t x) (t0 y) || late (BitVec.ofNat 48 x.tp) (BitVec.ofNat 48 y.tp0))) ||
  (x.access && (fy .rel || fy .ar || fy .full) && late (x.last y.scope) (t0 y)) ||
  ((fx .rel || fx .ar) && y.store && late (t x) (y.first x.scope)) ||
  (x.load && (fy .acq || fy .ar) && late (t x) (t0 y)) ||
  ((fx .acq || fx .ar || fx .full) && y.access && late (t x) (y.first x.scope)) ||
  (same && x.access && y.access && late (t x) (t0 y))

/-- Mark intervals first to last of a line's chain faulty (R281). -/
def State.markFaulty (s : State) (n kid first last : Nat) (v : Verdict) : State :=
  s.changeLine n fun l => (rangeFrom first 1 (last + 1 - first)).foldl (fun t k => t.markFault kid k v) l

/-- A party has read from a unit's copy of a line since that copy's last clean seal, as the copy's close record or the copy itself says (R281).
-/
def State.readSince (s : State) (u : Use) : Bool :=
  let seen (rs : List (Ident × Nat)) : Bool := rs.any fun r => r.1 == u.who && laterOrSame (BitVec.ofNat 48 u.time) (BitVec.ofNat 48 r.2)
  (s.records.any fun r => r.line == u.line && r.kid == u.kid && r.unit == u.unit && seen r.readers) ||
    (s.line u.line).holders.any fun h => h.unit == u.unit && seen h.readers

/-- The faulty interval, of those from first to last of a line, that a reading drew from: the latest from which the data it found came; where
only some copies are faulty, from one of them, or from one beneath it, since its last clean seal (R281, R310). -/
def State.drewFrom (s : State) (n kid first last : Nat) (v : Verdict) (u : Use) : Option Nat :=
  let k := Nat.min last u.interval
  if u.write || u.line != n || u.kid != kid || k < first || k < u.last then none
  else if v.only.all fun us => us.any (fun x => copyUnits u.unit n x) && (u.job.isSome || s.readSince u) then some k else none

/-- A read of a faulty interval is a draw: of the party, or of a job, whose issuer draws once the job has been reported to it (R281). -/
def State.drawBy (s : State) (u : Use) (k : Nat) (v : Verdict) : State :=
  let d : Drawn := { line := u.line, kid := u.kid, interval := k }
  match u.job, u.told with
  | none, _ => s.contain u.who true d v u.time
  | some _, some t => s.contain u.who true d v t
  | some j, none =>
    if (s.job j).isSome then s.changeJob j fun x => { x with faulty := some (x.faulty.getD d) }
    else s.contain u.who true d v u.time

/-- What a drawer wrote in other lines after it drew: a job's own writes, and those of the party that drew. -/
def State.wroteAfter (s : State) (u : Use) : List Use :=
  s.uses.filter fun w => w.write && w.who == u.who && w.line != u.line &&
    ((u.job.isSome && w.job == u.job) ||
      (w.job.isNone && match u.job with
        | none => !laterOrSame (BitVec.ofNat 48 u.time) (BitVec.ofNat 48 w.time)
        | some _ => u.told.any fun t => !laterOrSame (BitVec.ofNat 48 t) (BitVec.ofNat 48 w.time)))

/-- Intervals first to last of a line are faulty: what reads their data draws, and each interval of another line that a drawer wrote is faulty
in turn (R281, R310); `fuel` bounds the chain. -/
def State.faultFrom : Nat → State → Nat → Nat → Nat → Nat → Verdict → State
  | 0, s, _, _, _, _, _ => s
  | f + 1, s, n, kid, first, last, v =>
    let s1 := s.markFaulty n kid first last v
    s1.uses.foldl (fun t u =>
      match s1.drewFrom n kid first last v u with
      | none => t
      | some k =>
        let t1 := t.drawBy u k v
        (t1.wroteAfter u).foldl (fun r w =>
          if ((r.line w.line).faultAt w.kid w.interval).isSome then r
          else State.faultFrom f r w.line w.kid w.interval w.interval { v with only := none }) t1) s1

/-- A reorder violation on the later word y of core c (R276, R281, R282): the intervals in which it wrote are faulty. A release that is still
held has written nothing. -/
def State.reorderViolation (s : State) (c : Nat) (y : REntry) : State :=
  let v : Verdict := { kind := 1, scope := y.scope.code, other := 0, detector := 2048 + c, time := y.tc, found := s.rtime.toNat, only := none }
  let wrote := if (s.pendOf y.party y.seq).all (·.2.performed) then y.lines else []
  let n0 := (y.spans.headD (0, 0)).1 / 128
  let (n, k, i) := wrote.headD (n0, (s.line n0).kid, (s.line n0).interval)
  let s1 := s.contain y.party false { line := n, kid := k, interval := i } v y.tc
  wrote.foldl (fun t x => State.faultFrom (t.uses.length + 1) t x.1 x.2.1 x.2.2 x.2.2 v) s1

/-- Every word before an entry in program order has its entry already (R276); a release of crew scope or narrower does not wait for the entry of
a store that its crew sees (R245, log 101). -/
def State.entryReady (s : State) (r : REntry) : Bool :=
  match s.party r.party with
  | some p => p.pend.all fun e => e.id ≥ r.seq || e.performed || e.tp != 0 || !(e.accesses || e.isRelease || e.isAcquire) ||
      (r.rel && !Scope.wide r.scope && e.early != 0) ||
      (match e.kind with | .claim .. => true | _ => false)
  | none => true

/-- REORDER_CHECK: every entry of core c whose earlier words have their entries is checked against them; the entries of a party
leave once all of them have been checked (R276). -/
def execReorderCheck (c : Nat) (s : State) : Out :=
  let es := (s.core c).reorder
  let ready := es.filter fun r => !r.checked && s.entryReady r
  let bad := ready.filter fun y => es.any fun x => x.party == y.party && x.seq < y.seq && reorderFails x y
  let mark (r : REntry) : REntry := if ready.contains r then { r with checked := true } else r
  let s1 := s.changeCore c fun k => { k with reorder := es.map mark }
  let s2 := bad.foldl (fun t y => t.reorderViolation c y) s1
  .next (s2.changeCore c fun k =>
    { k with reorder := k.reorder.filter fun r => k.reorder.any fun x => x.party == r.party && !x.checked })

/-! ## The coherence checker (R275) -/

/-- Records of one group of holders: an interval, or a sub-interval beneath a remote copy (R290). -/
def Sinter.inGroup (r : Sinter) (n k i : Nat) (beneath : Option Nat) (sub : Nat) : Bool :=
  r.line == n && r.kid == k && r.interval == i && r.beneath == beneath && r.sub == sub

/-- Two records account for bytes in common (R292). -/
def Sinter.sameBytes (r : Sinter) (half : Nat) : Bool := r.half == 0 || half == 0 || r.half == half

/-- Bytes that a record of one half and one of another have in common, from bytes of the first. -/
def common (mine other : Nat) (bs : List Byte) : List Byte := if mine == 0 then halfBytes other bs else bs

/-- A close record of any kind but a seal. -/
def Sinter.closes (r : Sinter) : Bool := r.kind != .opened && r.kind != .seal

/-- Hashes of a record (R273). -/
def Sinter.hstart (r : Sinter) : BitVec 32 := crc32c r.first
/-- HEND. -/
def Sinter.hend (r : Sinter) : BitVec 32 := crc32c r.last

/-- The violation of a group whose records are all there: its kind, its OTHER, and which copies are faulty, none for all of them (R275, R281,
R283): a W holder's copy is not verified clean where the next holders did not get what it ended with. What a discarded line is compared with is what the next interval starts from; `home` are the bytes the home holds where none does. -/
def groupFails (closes seals nexts : List Sinter) (home : List Byte) : Option (Nat × Nat × Option (List Nat)) :=
  let writer : Option Sinter := closes.find? (·.write)
  let swmr : Option (Nat × Nat × Option (List Nat)) := match writer with
    | some w => (closes.find? fun r => r.unit != w.unit).map fun r => (2, r.unit, none)
    | none => none
  let altered : List Sinter := (closes ++ seals).filter fun r => !r.write && r.hstart != r.hend
  let wrong : List Sinter := match closes with
    | [] => []
    | c :: _ =>
      let supply := match writer with | some w => w.last | none => c.first
      nexts.filter fun r => crc32c (common r.half c.half r.first) != crc32c (common c.half r.half supply)
  let value (r : Sinter) : Bool := match nexts with
    | x :: _ => crc32c (common x.half r.half x.first) != crc32c (common r.half x.half r.last)
    | [] => r.hend != crc32c (halfBytes r.half home)
  let dropped : List Sinter := closes.filter fun r => r.kind == .discard && value r
  let only : Option (List Nat) := if !wrong.isEmpty && (writer.isSome || wrong.any (·.write)) then none
    else some ((altered ++ wrong ++ dropped).map (·.unit)).eraseDups
  match swmr with
  | some x => some x
  | none => ((altered ++ wrong ++ dropped).head?).map fun r => (3, r.unit, only)

/-- INTERVAL_CHECK of interval i of line l under key k: seals are checked at once, a closed group once every holder has closed
and the next interval has been opened (R275). A violation marks the interval and the later ones faulty (R281). Open notices of an interval are
kept until the interval before it has been checked. -/
def execIntervalCheck (l k i : Nat) (s : State) : Out :=
  let mine := s.records.filter fun r => r.line == l && r.kid == k && r.interval == i
  let groups := (mine.map fun r => (r.beneath, r.sub, r.half)).eraseDups
  let x := s.line l
  .next (groups.foldl (fun t g =>
    let grp := t.records.filter fun r => r.inGroup l k i g.1 g.2.1 && r.half == g.2.2
    let opens := grp.filter (·.kind == .opened)
    let closes := grp.filter (·.closes)
    let seals := grp.filter (·.kind == .seal)
    let follows (a b : Sinter) : Bool := a.sameBytes b.half && a.beneath == b.beneath && a.line == b.line && a.kid == b.kid &&
      if b.beneath.isSome then a.interval == b.interval && a.sub == b.sub + 1 else a.interval == (b.interval + 1) % 2 ^ 32
    let nexts := t.records.filter fun r => r.kind == .opened && closes.any fun c => follows r c
    let whole := !closes.isEmpty && opens.all fun o => closes.any fun c => c.unit == o.unit
    let failing := seals.filter fun r => r.hstart != r.hend
    let home := t.keyedBytes k (l * 128) 128
    let fail := if whole then groupFails closes seals nexts home
      else (failing.head?).map fun r => (3, r.unit, some (failing.map (·.unit)))
    let used (r : Sinter) : Bool := r.inGroup l k i g.1 g.2.1 && r.half == g.2.2 && r.kind != .opened && (whole || r.kind == .seal)
    let rest := t.records.filter fun r => !used r
    let past (r : Sinter) : Bool :=
      !(x.kid == k && r.interval == x.interval && (r.beneath.all fun b => Tbl.getD x.subs b 0 == r.sub)) &&
        !(rest.any fun c => c.closes && (follows r c || (c.inGroup l k r.interval r.beneath r.sub && c.half == r.half)))
    let kept := rest.filter fun r => !(r.line == l && r.kid == k && r.kind == .opened && past r)
    let u : State := { t with records := kept }
    match fail with
    | none => u
    | some (kind, other, only) =>
      let v : Verdict :=
        { kind, scope := 0, other, detector := g.1.getD (t.homeUnit (l * 128)), time := ((grp.head?.map (·.tstart)).getD 0), found := t.rtime.toNat, only }
      let old := ((t.uses.filter fun y => y.line == l && y.kid == k).map (·.interval)).foldl Nat.max i
      { State.faultFrom (t.uses.length + 1) t l k i (if x.kid == k then Nat.max i x.interval else old) v with records := kept }) s)

/-! ## The horizon (R278) -/

/-- A unit's die belongs to a partition and its checkers count (R294, R295). -/
def State.counts (s : State) (p : Fin 4) (u : Nat) : Bool :=
  match unitDie u with
  | some d => s.parts[p].dies.getLsbD d && !(s.die d).failed && !(u < 512 && (s.core u).gated)
  | none => false

/-- The checkers of a partition by unit: those of its cores, slices and HBM4 controllers that count (R13, R278). -/
def State.checkers (s : State) (p : Fin 4) : List Nat :=
  ((diesOf s.parts[p].dies).flatMap fun d => rangeFrom (128 * d) 1 128 ++ rangeFrom (512 + 128 * d) 1 128 ++ [1024 + 2 * d, 1025 + 2 * d]).filter (s.counts p)

/-- Times of what is still to be checked, each with its checker: entries of reorder checkers, and records by the checkers that verify them, which
are those of the homes and of remote slices (R278, R290). -/
def State.unchecked (s : State) : List (Nat × BitVec 48) :=
  (s.cores.flatMap fun c => (c.2.reorder.filter (!·.checked)).map fun r => (c.1, BitVec.ofNat 48 r.tc0)) ++
    (s.records.filter (·.kind != .opened)).map fun r => (r.beneath.getD (s.homeUnit (r.line * 128)), BitVec.ofNat 48 r.tend)

/-- The done time of a checker: just before the earliest of what it must still check, of a list, or its own clock (R278). -/
def State.doneTime (s : State) (todo : List (Nat × BitVec 48)) (u : Nat) : BitVec 48 :=
  match todo.filter (·.1 == u) with
  | [] => s.clock u
  | x :: rest => rest.foldl (fun m y => minTime m (y.2 - 1)) (x.2 - 1)

/-- What a reading found may still turn out faulty: it is not older than the horizon, an interval that it may have drawn from is open or has
records that are not verified, or it is a job's that has not been reported (R281, R286). -/
def State.mayDraw (s : State) (hz : BitVec 48) (u : Use) : Bool :=
  let l := s.line u.line
  laterOrSame (BitVec.ofNat 48 u.time) hz || (l.kid == u.kid && l.interval == u.interval) ||
    (s.records.any fun r => r.line == u.line && r.kid == u.kid && decide (u.last ≤ r.interval) && decide (r.interval ≤ u.interval) &&
      r.kind != .opened) ||
    u.job.any fun j => u.told.isNone && (s.job j).isSome

/-- HORIZON_BROADCAST of partition t: CHKHZ rises to the least done time of its checkers, and the broadcast carries its largest clock; CHKHZ stands
while a die of the partition is in a relock (R269, R278). Readings that can no longer turn out faulty are forgotten, with the writes of parties of which none is left. -/
def execHorizonBroadcast (t : Nat) (s : State) : Out :=
  if h : t < 4 then
    let p : Fin 4 := ⟨t, h⟩
    let x := s.parts[p]
    if (diesOf x.dies).any fun d => (s.die d).busy then .next s
    else
      let low := match (s.checkers p).map (s.doneTime s.unchecked) with
        | [] => x.chkhz
        | d :: ds => ds.foldl minTime d
      let units := (s.clocks.map (·.1)).filter (s.counts p)
      let high := units.foldl (fun m u => maxTime m (s.clock u)) x.maxClock
      let hz := maxTime x.chkhz low
      let reads := s.uses.filter fun u => !u.write && u.part == p && s.mayDraw hz u
      let live (u : Use) : Bool := u.part != p || reads.any fun r => r.who == u.who && (r == u || u.write)
      .next { s.changePart p fun x => { x with chkhz := hz, maxClock := high } with uses := s.uses.filter live }
  else .next s

/-! ## Engine jobs -/

/-- ENGINE_JOB_START (R192, R212, R241). -/
def execEngineJobStart (j : Nat) (s : State) : Out :=
  match s.job j with
  | some x =>
    if x.started || (s.die (x.cluster / 32)).busy || s.homesBusy x then .next s
    else
      let t := s.clearFor x
      if t.mayStart x then .next (t.startJob x) else .next t
  | none => .next s

/-- COPY_JOB_COMPLETE; `r` is the number of bytes after which the host or a peer refuses an access, where one does (R241,
R265). -/
def execCopyJobComplete (j : Nat) (r : Option Nat) (s : State) : Out :=
  match s.job j with
  | some x =>
    if !x.started || x.complete || !x.copy || (s.die (x.cluster / 32)).busy || s.homesBusy x then .next s
    else
      let outside := (x.reads ++ x.writes).any (·.foreign)
      let down := (x.reads ++ x.writes).any fun e => regionOf e.pa == .peer && !((s.ports[natBits e.pa 47 44]?).any (·.up))
      let (t, err) := s.runCopy x (if down then some 0 else if outside then r else none)
      .next (t.finishJob x err)
  | none => .next s

/-- MATRIX_JOB_COMPLETE: the job does what its queues allow, and completes when nothing is left (R202, R203, R207, R212). -/
def execMatrixJobComplete (j : Nat) (s : State) : Out :=
  match s.job j with
  | some x =>
    if !x.started || x.complete || x.copy || (s.die (x.cluster / 32)).busy || s.homesBusy x then .next s
    else
      let (t, whole) := (s.engineReach x).runMx x
      .next (if whole then t.finishJob x 0 else t)
  | none => .next s

/-- PROMISE_MISSED: RTIME has reached the promise of a live copy job (R243). -/
def execPromiseMissed (j : Nat) (s : State) : Out :=
  match s.job j with
  | some x =>
    if x.copy && !x.complete && !x.missed && x.promise.ule s.rtime then
      .next ((s.changeJob j fun y => { y with missed := true }).raiseAsync x.issuer .prom)
    else .next s
  | none => .next s

end Sys2Proof.Machine
end

