-- ==== Sys2Proof/Machine/System.lean ====
section
/-! DEFINITION. System words: SREAD and SWRITE of every special register (R36-R42, R88-R90, R285, R287, R306), RDV, SLEEPT,
YIELD and WDOG (R340-R343), TRAP, BKPT, RTE, CCLR and HALT (R383-R387). -/

namespace Sys2Proof.Machine

open Sys2Proof

/-! ## Special registers -/

/-- Privilege and sequencer access of a special register (R36): none for a number that is not listed. -/
def sregAccess (n : Nat) : Option (Bool × Bool) :=
  if n ≤ 0x002 || n == 0x005 || n == 0x006 || n == 0x009 then some (false, false)
  else if n == 0x003 || n == 0x004 || n == 0x007 || n == 0x008 then some (false, true)
  else if 0x010 ≤ n && n ≤ 0x013 then some (false, true)
  else if 0x014 ≤ n && n ≤ 0x017 then some (true, true)
  else if n == 0x018 then some (false, false)
  else if n == 0x019 then some (true, false)
  else if 0x01A ≤ n && n ≤ 0x01C then some (false, false)
  else if n == 0x01D then some (true, false)
  else if 0x020 ≤ n && n ≤ 0x026 then some (false, true)
  else if 0x030 ≤ n && n ≤ 0x032 then some (true, true)
  else none

/-- The checks of R37. -/
def checkSreg (n : Nat) : Act Unit := do
  let s ← get
  match sregAccess n with
  | none => raise .illi
  | some (sup, seq) => check ((!sup || s.me.sup) && (seq || !s.me.isThread)) .illi

/-- Registers with one value per lane (R36). -/
def perLane (n : Nat) : Bool := n == 0x000 || n == 0x010 || n == 0x011 || n == 0x019 || n == 0x01A

/-- A lane's value of a per-lane register (R36). -/
def Party.laneReg (p : Party) (n : Nat) (l : Fin 32) : DWord :=
  match n with
  | 0x000 => BitVec.ofNat 64 l.val
  | 0x010 => zext64 p.pcv[l]
  | 0x011 => zext64 p.epcv[l]
  | 0x019 => p.rsp[l]
  | _ => zext64 p.rsdepth[l]

/-- DVFSREQ as it reads (R306). -/
def Die.dvfs (d : Die) : Nat := d.busy.toNat * 2 ^ 31 + d.cur * 2 ^ 16 + d.req

/-- Value of a uniform register (R36). -/
def State.uniformReg (s : State) (n : Nat) : DWord :=
  let p := s.me
  let d := s.die p.die
  match n with
  | 0x001 => BitVec.ofNat 64 p.gang
  | 0x002 => BitVec.ofNat 64 p.crew
  | 0x003 => BitVec.ofNat 64 (p.cluster % 32)
  | 0x004 => BitVec.ofNat 64 p.die
  | 0x005 => BitVec.ofNat 64 p.crewN
  | 0x006 => BitVec.ofNat 64 p.gridN
  | 0x007 => BitVec.ofNat 64 p.stage
  | 0x008 => BitVec.ofNat 64 p.codebase
  | 0x009 => BitVec.ofNat 64 (p.core % 4)
  | 0x012 => zext64 p.cause
  | 0x013 => zext64 p.causem
  | 0x014 => p.contrec[0]
  | 0x015 => p.contrec[1]
  | 0x016 => p.contrec[2]
  | 0x017 => p.contrec[3]
  | 0x018 => zext64 p.flags
  | 0x01B => BitVec.ofNat 64 p.psp
  | 0x01C => zext64 p.wdogv
  | 0x020 => s.rtime
  | 0x021 => d.cycr
  | 0x022 => BitVec.ofNat 64 (d.acc.toNat / 2 ^ 16)
  | 0x023 => p.grun
  | 0x024 => p.tdead
  | 0x025 => (s.partOf p).chkhz.zeroExtend 64
  | 0x026 => (s.clock p.clockUnit).zeroExtend 64
  | 0x030 => p.inj
  | 0x031 => zext64 (s.partOf p).chkmode
  | 0x032 => BitVec.ofNat 64 d.dvfs
  | _ => 0

/-- Registers whose reads record mode journals (R411). -/
def journaled (n : Nat) : Bool :=
  n == 0x020 || n == 0x021 || n == 0x022 || n == 0x023 || n == 0x025 || n == 0x026 || n == 0x01C || n == 0x032

/-- Read a uniform special register. -/
def readUniform (n : Nat) : Act DWord := do
  let s ← get
  if journaled n then recordValue n (s.uniformReg n) else pure (s.uniformReg n)

/-- SREAD (R88). -/
def execSread (w : Bool) (d : Dest) (num : BitVec 9) : State → Out :=
  let n := num.toNat
  word w 1 do
    checkSreg n
    let s ← get
    let p := s.me
    match d with
    | .v dst =>
      checkVreg [] (namesOf dst)
      if perLane n then writeDest dst (.clean fun l => (p.laneReg n l).truncate 32)
      else
        let v ← readUniform n
        writeDest dst (.clean fun _ => v.truncate 32)
    | .s dst =>
      if n == 0x011 then writeS dst (BitVec.ofNat 64 (p.inmac.toNat * 32 + p.midx))
      else if perLane n then
        match p.isThread, LaneMask.lanes p.active with
        | true, _ => writeS dst (p.laneReg n 0)
        | false, l :: _ => writeS dst (p.laneReg n l)
        | false, [] => match dst with
          | .s _ => pure ()
          | .sq k => pushS k { val := 0, poison := false }
      else
        let v ← readUniform n
        writeS dst v

/-- REQ of a die is written at RTIME t (R306, R307). -/
def Die.request (d : Die) (t r : Nat) : Die :=
  { d with req := r, busy := d.busy || r != d.cur, since := if d.busy then d.since else t }

/-- Write a uniform special register; writes to read-only registers are ignored (R5, R36-R42, R285, R287, R306, R307). -/
def writeUniform (n : Nat) (v : DWord) : Act Unit := do
  let s ← get
  let p := s.me
  match n with
  | 0x013 => changeMe fun p => { p with causem := (p.causem &&& ~~~0xAC0) ||| (v.truncate 32 &&& 0xAC0) }
  | 0x018 => changeMe fun p => { p with flags := p.flags &&& ~~~(v.truncate 32) }
  | 0x024 => changeMe fun p => { p with tdead := v }
  | 0x01D => changeMe fun p =>
    { p with cause := p.cause ||| (v.truncate 32 &&& userMask), causeset := p.causeset ||| (v.truncate 32 &&& userMask) }
  | 0x030 =>
    check (decide (natBits v.toNat 3 0 ≤ 3)) .illi
    changeMe fun p => { p with inj := v &&& 0x3FF0F }
  | 0x031 =>
    check (decide (natBits v.toNat 1 0 ≤ 1)) .illi
    change fun s => s.changePart p.part fun x => { x with chkmode := v.truncate 32 &&& 0xF3 }
  | 0x032 =>
    check (decide (natBits v.toNat 3 0 ≤ 11)) .illi
    change fun s => s.changeDie p.die fun x =>
      let r := natBits v.toNat 3 0
      { x.request s.rtime.toNat r with lastSup := r }
  | _ => pure ()

/-- Write a per-lane special register in one lane. -/
def Party.setLaneReg (p : Party) (n : Nat) (l : Fin 32) (v : DWord) : Party :=
  match n with
  | 0x011 => { p with epcv := p.epcv.set l (v.truncate 32) }
  | 0x019 => { p with rsp := p.rsp.set l v }
  | _ => p

/-- SWRITE of register n (R89, R90). INJ, CHKMODE and DVFSREQ wait for every access before them, those no counter counts among them, so that
the old value governs it. -/
def swriteWord (w : Bool) (src : Source) (n : Nat) : State → Out :=
  word w 1 do
    let s ← get
    let p := s.me
    if n == 0x030 || n == 0x031 || n == 0x032 then
      waitFor (p.loads == 0 && p.stores == 0 && p.engines == 0 && p.pend.all fun e => e.performed || !e.accesses)
    else pure ()
    checkSreg n
    match src with
    | .v a last =>
      let vs ← readVs [a] []
      let v := vs.getD 0 .zero
      let used := if perLane n then p.active
        else match LaneMask.lanes p.active with | l :: _ => maskOf fun k => k == l | [] => 0
      check (v.poison &&& used == 0) .pois
      changeMe fun p => p.freeAll (marked [(a, last)])
      if perLane n then
        changeMe fun p => (LaneMask.lanes p.active).foldl (fun q l => q.setLaneReg n l (zext64 v.val[l])) p
      else match LaneMask.lanes p.active with
        | l :: _ => writeUniform n (zext64 v.val[l])
        | [] => pure ()
    | .s a =>
      let x ← readS a
      if perLane n then
        if n == 0x011 then pure ()
        else changeMe fun p => (LaneMask.lanes p.active).foldl (fun q l => q.setLaneReg n l x) p
      else writeUniform n x

/-- SWRITE (R89). -/
def execSwrite (w : Bool) (a : Source) (n : BitVec 9) : State → Out := swriteWord w a n.toNat
/-- SWRITE TDEAD (R41). -/
def execSwriteTdead (w : Bool) (a : Source) : State → Out := swriteWord w a 0x024
/-- SWRITE CHKMODE (R285). -/
def execSwriteChkmode (w : Bool) (a : Source) : State → Out := swriteWord w a 0x031
/-- SWRITE INJ (R287). -/
def execSwriteInj (w : Bool) (a : Source) : State → Out := swriteWord w a 0x030
/-- SWRITE DVFSREQ (R306, R307). -/
def execSwriteDvfsreq (w : Bool) (a : Source) : State → Out := swriteWord w a 0x032
/-- SWRITE CAUSESET (R42). -/
def execSwriteCauseset (w : Bool) (a : Source) : State → Out := swriteWord w a 0x01D

/-! ## RDV, SLEEPT, YIELD, WDOG -/

/-- Readiness of the queue bound to a port (R340): ready, and closed and empty under the input test. -/
def State.portReady (s : State) (p : Party) (j : Nat) : Bool × Bool :=
  match s.bundle p.bundle with
  | none => (false, false)
  | some b =>
    match b.queues[j]?, b.desc.queues[j]? with
    | some q, some r =>
      let input := r.dst == p.stage
      let output := r.src == p.stage
      ((input && (!q.entries.isEmpty || q.closed)) || (output && decide (q.entries.length < r.depth)),
       input && q.closed && q.entries.isEmpty)
    | _, _ => (false, false)

/-- The ports a mask pair names, with their result bits: vector ports at 0-7, scalar ports at 8-15 (R340). -/
def Party.named (p : Party) (v s : BitVec 8) : List (Nat × Option Nat) :=
  ((List.finRange 8).filter fun k => v.getLsbD k.val).map (fun k => (k.val, p.qports[k])) ++
  ((List.finRange 8).filter fun k => s.getLsbD k.val).map (fun k => (8 + k.val, p.sqports[k]))

/-- What RDV would write: 0 while no named port is ready (R340). -/
def State.rdvValue (s : State) (p : Party) (v q : BitVec 8) : Nat :=
  (p.named v q).foldl (fun acc x => match x.2 with
    | some j =>
      let (r, c) := s.portReady p j
      acc + r.toNat * 2 ^ x.1 + c.toNat * 2 ^ (16 + x.1)
    | none => acc) 0

/-- Write RDV's result (R340, R411); its journal code is 0x200 plus its opcode (log 23). -/
def rdvDone (d : Fin 56) (v : Nat) : Act Unit := do
  let x ← recordValue 0x210 (BitVec.ofNat 64 v)
  changeMe fun p => p.setS d { val := x, poison := false }

/-- RDV (R340). -/
def execRdv (w : Bool) (d : Fin 56) (v q : BitVec 8) : State → Out :=
  word w 1 do
    let s ← get
    check ((s.me.named v q).all fun x => x.2.isSome) .qerr
    let r := s.rdvValue s.me v q
    if r % 2 ^ 16 != 0 then rdvDone d r else enterWait (.rdv d v q)

/-- SLEEPT (R341). -/
def execSleept (w : Bool) (a : SOp) (i : BitVec 13) : State → Out :=
  word w 1 do
    let s0 ← get
    let x ← readS a
    let s ← get
    let t := x + sext64 i
    if t.ule s.rtime then pure () else enterWaitPopped (.sleept t) s0.me (s0.me.poppedBy a x)

/-- YIELD: a gang yields once its clause has completed; a thread gives the sequencer's next slot to the other thread. A request is taken once
the clause has completed, before the next vote (R342, R388). -/
def execYield (w : Bool) : State → Out :=
  word w 1 (changeMe fun p =>
    if p.isThread then { p with yielding := some 0 } else { p with port := { p.port with yields := true } })

/-- WDOG (R343). Lanes that an expiry found stalled stay so until its WDOG has been taken (R337). -/
def execWdog (w : Bool) (a : SOp) : State → Out :=
  word w 1 do
    let b ← readS a
    changeMe fun p =>
      if b == 0 then { p with wdogv := 0 }
      else if p.wdogv == 0 then
        let kept := if p.cause &&& Cause.mask .wdog != 0 then p.stalled else 0
        { p with wdogv := BitVec.ofNat 32 (Nat.min b.toNat 0xFFFFFFFF), issued := 0, stalled := kept }
      else p

/-! ## TRAP, BKPT, CCLR, HALT -/

/-- TRAP or BKPT with its cause; a thread that it stops keeps imm18 for its status (R385). -/
def trapWord (w : Bool) (c : Cause) (i : BitVec 18) : State → Out :=
  word w 1 do
    let s ← get
    if s.me.active == 0 then pure ()
    else
      changeMe fun p =>
        let q := p.setCause c
        let stops := c.mask &&& q.causem != 0
        { q with port := { q.port with trapped := stops }, trapImm := if q.isThread && stops then i.toNat else q.trapImm }

/-- TRAP (R385). -/
def execTrap (w : Bool) (i : BitVec 18) : State → Out := trapWord w .swtr i

/-- BKPT (R385). -/
def execBkpt (w : Bool) (i : BitVec 18) : State → Out := trapWord w .brkp i

/-- CCLR (R386). -/
def execCclr (w : Bool) (i : BitVec 18) : State → Out :=
  word w 1 (changeMe fun p =>
    let m : BitVec 32 := i.zeroExtend 32 &&& (if p.sup then 0xFFFFFFFF else userMask)
    let c := p.cause &&& ~~~m
    { p with
      cause := c
      causeset := p.causeset &&& ~~~m
      stalled := if c &&& Cause.mask .wdog == 0 then 0 else p.stalled
      contDue := p.contDue && c &&& Cause.mask .cont != 0
      dropFrom := if c &&& Cause.mask .cont != 0 then p.dropFrom else none
      contrec := if c &&& (Cause.mask .cont ||| Cause.mask .fprt) == 0 then Vector.replicate 4 0 else p.contrec })

/-- HALT: at supervisor privilege only; the gang halts once the clause has completed (R387). -/
def execHalt (w : Bool) : State → Out :=
  word w 1 do
    let s ← get
    check s.me.sup .illi
    changeMe fun p => if p.active == 0 then p else p.setCause .halt

/-! ## RTE -/

/-- A stop record resumes in the lanes whose EPCV still names its word (R383). -/
def Party.resumed (p : Party) (r : Port) : Option Port :=
  let m := maskOf fun l => r.lanes.has l && p.pcv[l] != 0xFFFFFFFF && p.epcv[l] != 0xFFFFFFFF &&
    p.epcv[l] &&& ~~~3 == r.stopOffset
  if m == 0 then none
  else some { r with
    lanes := m, active := r.active &&& m, moved := 0, started := false, halted := false, retry := none
    micro := r.micro.map fun x => { x with active := x.active &&& m } }

/-- Leave handler state (R383): privilege and code base return, lanes resume a stop record, exit, or stand at EPCV. Where a handler was entered
between a RET and the fetch of a bad offset it popped, the RET word is forgotten: the fetch's ILLI is that of an EPCV (R383), and EPCV then
holds the bad offset (DESIGN CHOICE, log 99). -/
def Party.leave (p : Party) (h : Handler) : Party :=
  let q := p.exitLanes (maskOf fun l => h.live.has l && p.pcv[l] != 0xFFFFFFFF && p.epcv[l] == 0xFFFFFFFF)
  let ports := h.stops.filterMap q.resumed
  let inStop := ports.foldl (fun (m : LaneMask) r => m ||| r.lanes) 0
  let head (l : Fin 32) : Word := match ports.find? (·.lanes.has l) with
    | some r => BitVec.ofNat 32 r.head
    | none => q.epcv[l] &&& ~~~3
  { q with
    sup := h.privBefore
    handler := none
    pcv := lanes fun l => if h.live.has l && q.pcv[l] != 0xFFFFFFFF then head l else q.pcv[l]
    retFrom := lanes fun l => if inStop.has l then q.retFrom[l] else 0xFFFFFFFF
    port := ports.getD 0 .free
    mate := ports.getD 1 .free
    sync := none }

/-- The causes that enter a handler (R379). -/
def handlerMask : BitVec 32 := supMask ||| userMask

/-- What is taken at once after RTE: any enabled cause of a handler that is still set, at the word where a stop record resumes (R380); the user
handler for a CAUSESET bit after a supervisor handler, with EPCV and the stop records as they stand (R42). HALT comes before a handler, and
alone it waits for the vote boundary (R380, R410, log 98). -/
def State.afterRte (s0 : State) (h : Handler) : State :=
  let s := s0.replayCauses
  let p := s.me
  let pc := p.pendingCauses
  let stopped := s.setMe { p with port := { p.port with halted := p.port.held }, mate := { p.mate with halted := p.mate.held } }
  if p.live == 0 || p.halted || p.switchedOut then s
  else if pc &&& Cause.mask .halt != 0 then if pc &&& handlerMask != 0 || !p.port.held then stopped.deliver else s
  else if pc &&& supMask == 0 && h.sup && pc &&& p.causeset != 0 then
    if p.userh == 0xFFFFFFFF then s.killMe
    else (s.traceEvent 1 (lowestCause (pc &&& p.causeset))).setMe (p.enterAgain { h with privBefore := p.sup })
  else if pc &&& handlerMask != 0 then stopped.deliver
  else s

/-- RTE: waits for every long result, as SW = 1; outside a handler ILLI (R383), and at the end of a clause whose fall-through is out of range
(R80). -/
def execRte (_w : Bool) (s : State) : Out :=
  if s.me.hasLong || s.me.blocked then .next (s.stopWord .hold)
  else if s.me.pastEnd 1 then .next (s.stopWord (.cause .illi))
  else match s.me.handler with
    | none => .next (s.stopWord (.cause .illi))
    | some h =>
      let p := s.me
      let back := maskOf fun l => h.live.has l && p.pcv[l] != 0xFFFFFFFF && p.epcv[l] != 0xFFFFFFFF
      let s1 := (s.traceFlow back (lanes fun l => p.epcv[l] &&& ~~~3) true).traceEvent 2 0
      .next (({ s1 with fresh := s.fresh + 1 }.setMe (p.leave h)).afterRte h)

end Sys2Proof.Machine
end

