-- ==== Sys2Proof/Machine/Waits.lean ====
section
/-! DEFINITION. Ends of waits (R254, R255, R260, R266, R340, R341), timers and watchdogs (R41, R337), delivery of causes and retries
(R380, R381), SYNC records (R408) and the retirement of gangs (R85). Each event does nothing where it is not enabled. -/

namespace Sys2Proof.Machine

open Sys2Proof

/-- A party's wait is one that a test accepts, at either port. -/
def Party.waits (p : Party) (pick : Wait → Bool) : Bool := p.port.wait.any pick || p.mate.wait.any pick

/-- Bring a party to the issue slot and end its wait, when it waits so and is not stopped or switched out. -/
def State.endWaitOf (s : State) (i : Ident) (pick : Party → Wait → Bool) (eff : Wait → State → State) : State :=
  match s.party i with
  | some p =>
    if p.waits (pick p) && !p.halted && !p.stopped && !p.switchedOut && !(s.die p.die).busy then
      { s.focus i with fresh := s.fresh + 1 }.endWait (pick p) eff
    else s
  | none => s

/-! ## MWAIT -/

/-- MWAIT_WAKE: the watched line's interval has changed; the monitor is disarmed (R254). -/
def execMwaitWake (p : Ident) (s : State) : Out :=
  .next <| s.endWaitOf p
    (fun q w => match w with
      | .mwait _ => q.monitor.any (s.monitorFired q) && s.wakeRecorded q != some 1 && s.journalRoom q.part (journalBytes 3)
      | _ => false)
    (fun _ t => (t.journalWake 0).setMe { (t.journalWake 0).me with monitor := none })

/-- MWAIT_TIMEOUT: RTIME has reached the deadline; the monitor stays armed (R254). -/
def execMwaitTimeout (p : Ident) (s : State) : Out :=
  .next <| s.endWaitOf p
    (fun q w => match w with
      | .mwait d => (s.wakeRecorded q == some 1 || (d.any (fun t => decide (t ≤ s.rtime.toNat)) && (s.wakeRecorded q).isNone)) &&
        s.journalRoom q.part (journalBytes 3)
      | _ => false)
    (fun _ t => t.journalWake 1)

/-! ## Other waits -/

/-- SLEEPT_END (R341). -/
def execSleeptEnd (p : Ident) (s : State) : Out :=
  .next <| s.endWaitOf p (fun _ w => match w with | .sleept d => d.ule s.rtime | _ => false) (fun _ t => t)

/-- A barrier's phase has left the one waited for, the wait's own arrival having been performed, and a load of it can be performed (R225, R228,
R260). -/
def State.phaseLeft (s : State) (p : Party) (w : Wait) : Bool :=
  match w with
  | .bar acc ph o n =>
    (n.all fun k => p.pend.all fun e => e.id != k || e.performed) && s.phaseReady p acc o && (s.phaseOf p acc o).2.2 != ph
  | _ => false

/-- BAR_WAIT_END: the load of PHASE that ends the wait is an acquire at the barrier's scope (R260). -/
def execBarWaitEnd (p : Ident) (s : State) : Out :=
  .next <| s.endWaitOf p (fun q w => s.phaseLeft q w) (fun w t => match w with
    | .bar acc _ o _ =>
      let (u, bs, _) := t.phaseOf t.me acc o
      u.logAcquire p o bs
    | _ => t)

/-- JWAIT_END: no more than n of the party's copy jobs are unreported, and its core's clock may run on (R266, R269). -/
def execJwaitEnd (p : Ident) (s : State) : Out :=
  .next <| s.endWaitOf p (fun q w => match w with | .jwait n => decide ((s.unreported p).length ≤ n) && !s.clockAhead q.clockUnit | _ => false)
    (fun _ t => t.endJwait p)

/-- RDV_READY: a named port is ready; its word writes the ready ports (R340). -/
def execRdvReady (p : Ident) (s : State) : Out :=
  .next <| s.endWaitOf p (fun q w => match w with | .rdv _ v k => s.rdvValue q v k % 2 ^ 16 != 0 && s.journalRoom q.part (journalBytes 4) | _ => false)
    (fun w t => match w with
      | .rdv d v k => match rdvDone d (t.rdvValue t.me v k) t with
        | .ok (_, u) => u
        | .error _ => t
      | _ => t)

/-! ## Timers -/

/-- TIMR stops the wait of a port: it is enabled, the wait can be stopped, and the party is in no handler (R255, R384). -/
def Party.timedWait (p : Party) (q : Port) : Bool := p.stoppable q && p.handler.isNone && p.causem &&& Cause.mask .timr != 0

/-- The party stands at a clause boundary: no port is inside a clause whose first word has issued, but for one in a wait that TIMR would
stop (R41, R255, log 82). -/
def Party.atClauseBoundary (p : Party) : Bool :=
  [p.port, p.mate].all fun q => q.quiet || q.unissued || p.timedWait q

/-- TIMER_EXPIRY: RTIME has reached an armed TDEAD; at the next clause boundary TIMR is raised and TDEAD disarmed (R41). -/
def execTimerExpiry (p : Ident) (s : State) : Out :=
  match s.party p with
  | some q =>
    if q.tdead != 0xFFFFFFFFFFFFFFFF && q.tdead.ule s.rtime && q.live != 0 && !q.switchedOut && q.atClauseBoundary then
      .next ((s.changeParty p fun x => { x with tdead := 0xFFFFFFFFFFFFFFFF }).raiseAsync p .timr)
    else .next s
  | none => .next s

/-- WDOGV of a gang falls from 1 to 0; WDOG is raised unless every live lane has issued (R337). -/
def State.watchdog (s : State) (p : Ident) : State :=
  match s.party p with
  | some q =>
    if q.wdogv == 1 && !q.switchedOut && !q.isThread && !(s.die q.die).busy then
      let late := q.live &&& ~~~q.issued
      let s1 := s.changeParty p fun x => { x with wdogv := 0, stalled := late }
      if late == 0 then s1 else s1.raiseAsync p .wdog
    else s
  | none => s

/-- WATCHDOG_EXPIRY: WDOGV falls to 0 with this cycle (R337). -/
def execWatchdogExpiry (p : Ident) (s : State) : Out := .next (s.watchdog p)

/-! ## Causes -/

/-- CAUSE_DELIVERY: pending causes of a party are taken where it stands, at a vote boundary, a thread's word boundary or in a
stoppable wait (R255, R379, R380). -/
def execCauseDelivery (p : Ident) (s : State) : Out :=
  match s.party p with
  | some q =>
    let t := s.focus p
    if q.pendingCauses == 0 || (s.die q.die).busy || t.deliverAsync == t then .next s else .next t.deliverAsync
  | none => .next s

/-- A replayable party is retried after a MAP: its word, or its fetch, is tried again, and a wait of its other port that the stop ended goes on
unless a cause is still to be delivered. XLAT and PERM stay set until what is retried passes (R381, R386). -/
def Party.retried (p : Party) : Party :=
  let again (q : Port) : Port := { q with halted := q.halted && q.retry.isNone, started := q.started && q.retry.isNone }
  let q := { p with replayable := false, remapped := false, port := again p.port, mate := again p.mate }
  if q.due == 0 then q.goOn else q

/-- REPLAY_RETRY (R381). -/
def execReplayRetry (p : Ident) (s : State) : Out :=
  match s.party p with
  | some q => if q.replayable && q.remapped then .next (s.changeParty p (·.retried)) else .next s
  | none => .next s

/-- SYNC_PERIODIC: a SYNC record is due at the party's next vote (R408). -/
def execSyncPeriodic (p : Ident) (s : State) : Out := .next (s.changeParty p fun x => { x with sync := none })

/-! ## Exits -/

/-- The lanes have exited, or a thread has stopped or exited, and nothing of the party is outstanding (R47, R85). -/
def Party.done (p : Party) : Bool :=
  (p.live == 0 || p.stopped) && p.pend.all fun e => match e.kind with | .value .. | .svalue .. => true | _ => false

/-- An instance of a stage has exited (R330). -/
def StageState.left (x : StageState) : StageState := { x with exited := x.exited + 1, resident := x.resident - 1 }

/-- What an exited crew leaves to its stage's progress: the clauses it has retired, and whether it was flushable (R388). -/
def StageState.credit (x : StageState) (clauses : Nat) (noFlush : Bool) : StageState :=
  { x with goneClauses := x.goneClauses + clauses, goneNoFlush := x.goneNoFlush || noFlush }

/-- Close the draft window a party holds, as DWOPEN.CLOSE does: the descriptor's C and T are written where its page can be written, and
the tentative bytes are forgotten (R135, R396). -/
def State.closeDraft (s : State) (p : Party) : State :=
  match (s.crewOf p).bind (·.draft) with
  | some d =>
    if d.holder != p.ident then s
    else
      let put (t : State) (va v : Nat) : State := match t.translate p .store va with
        | .ok x =>
          let a : LaneAcc := { lane := 0, va, pa := x.pa, kid := x.kid, mt := x.mt, len := 4, data := bytesLE 4 v }
          ((t.noteAccess p .store va x).storeLane p a).1
        | .error _ => t
      (put (put s (d.desc + 12) d.c) (d.desc + 16) 0).changeCrew p fun c => { c with draft := none }
  | none => s

/-- A party leaves: its jobs that completed and were never reported to it leave their bundle status 4 where they drew from a faulty interval (R281,
R396). -/
def State.leaveJobs (s : State) (p : Party) : State :=
  let mine (j : Job) : Bool := j.issuer == p.ident && j.complete && !j.reported
  let s1 := if s.jobs.any fun j => mine j && j.faulty.isSome then s.recordStatus p.bundle 4 else s
  { s1 with jobs := s1.jobs.filter fun j => !mine j }

/-- GANG_RETIRE: an exited party leaves; with the last gang of a crew the crew leaves its core, its windows having been written
home and its draft window closed (R85, R330, R396). -/
def execGangRetire (p : Ident) (s : State) : Out :=
  match s.party p with
  | none => .next s
  | some q =>
    if !q.done || q.bundle == 0 then .next s
    else
      let s0 := (s.leaveJobs q).closeDraft q
      let s1 := if q.contDue then s0.recordStatus q.bundle 4 else s0
      let s2 : State :=
        if s1.me.ident == p then { s1 with me := .vacant }
        else { s1 with others := eraseFirst (·.ident == p) s1.others }
      let mates := s2.parties.any fun x => x.bundle == q.bundle && x.stage == q.stage && x.crew == q.crew && x.isThread == q.isThread
      if mates then .next (s2.changeCrew q fun c => { c with noFlush := c.noFlush || q.noFlush })
      else
        let homed := match s2.crewOf q with
          | some c => (c.windows.toList.filterMap id).foldl (fun (t : State) (w : Window) => t.homeWindow q.unit w) s2
          | none => s2
        let s3 : State := { homed with crews := homed.crews.filter fun c => !c.isOf q }
        .next (s3.changeBundle q.bundle fun b =>
          let crew := s2.crewOf q
          let gone (x : StageState) : StageState :=
            (if q.switchedOut then { x with exited := x.exited + 1 } else x.left).credit ((crew.map (·.clauses)).getD 0)
              (q.noFlush || crew.any (·.noFlush))
          { b with stages := updateAt gone q.stage b.stages
                   saved := b.saved.filter fun x => x.stage != q.stage || x.crew != q.crew })

end Sys2Proof.Machine
end

