-- ==== Sys2Proof/Machine/Fed.lean ====
section
/-! DEFINITION. Command queues and the vent cores: control blocks, commands and their phases (R318-R324), launch descriptors and what
refuses them (R217, R314, R325-R328), the end of stages and bundles (R328, R330), and the queue words on their way (R128, R344). -/

namespace Sys2Proof.Machine

open Sys2Proof

/-! ## Memory of the vent cores -/

/-- Translate an access of a vent core: the walk, R or W, and the region; U is not asked, as R351 puts no page out of the firmware's
reach (R320, log 31). Peer memory takes an access of system scope, on a link that is up (R236, R370). -/
def State.ventTranslate (s : State) (part : Fin 4) (asid : Nat) (k : Acc) (sys : Bool) (va : Nat) : Except Cause Trans := do
  let (level, e) ← s.walk asid va
  let pa := ptePa e + va % 2 ^ leafShift level
  leafCheck s.parts[part].dies true k level e
  if regionOf pa == .peer && !(sys && (s.ports[natBits pa 47 44]?.any (·.up))) then throw .perm
  if regionOf pa == .device && (s.die (s.homeOfPa pa)).failed then throw .home
  pure { pa, kid := pteKid e, mt := pteMt e, pl := ptePl e, pte := e, level }

/-- An access of a vent core: it reads the tables, sets A and D (R356), and does what it does to the bytes, each at its home slice (R272, R280).
R242 makes an access to a live job's footprint a race and gives an outcome for gangs, threads and the host only: it is performed at once and
unchecked (log 68). -/
def State.ventTouch (s : State) (asid va len : Nat) (t : Trans) (write : Bool) (act : State → State) : State :=
  let s1 := ((s.walkPath asid va).foldl State.tableRead s).markUsed (ventUnit s.ventPick) asid t.level va write
  ((s1.tick (ventUnit s.ventPick)).atHome (ventUnit s.ventPick) t.pa len t.kid write false act).1

/-- A range of bytes cut at lines; `fuel` is the number of lines. -/
def linePieces : Nat → Nat → Nat → List (Nat × Nat)
  | 0, _, _ => []
  | k + 1, va, len =>
    if len == 0 then []
    else
      let n := Nat.min len (128 - va % 128)
      (va, n) :: linePieces k (va + n) (len - n)

/-- Bytes that a vent core reads, and whether an element of them is poisoned. -/
def State.ventRead (s : State) (part : Fin 4) (asid : Nat) (sys : Bool) (va n : Nat) : Except Cause (State × List Byte × Bool) :=
  (linePieces (n / 128 + 2) va n).foldlM (fun (acc : State × List Byte × Bool) r => do
    let t ← acc.1.ventTranslate part asid .load sys r.1
    let s1 := acc.1.ventTouch asid r.1 r.2 t false id
    let bs := if regionOf t.pa == .window then s1.windowRead t.pa r.2 else s1.keyedBytes t.kid t.pa r.2
    pure (s1, acc.2.1 ++ bs, acc.2.2 || s1.poisonedAt t.pa r.2)) (s, [], false)

/-- Store bytes for a vent core; `bad` are the poisoned elements of them by index. -/
def State.ventWrite (s : State) (part : Fin 4) (asid : Nat) (sys : Bool) (va : Nat) (bs : List Byte) (bad : List Nat) : Except Cause State := do
  let s1 ← (linePieces (bs.length / 128 + 2) va bs.length).foldlM (fun (t : State) (r : Nat × Nat) => do
    let x ← t.ventTranslate part asid .store sys r.1
    let now := (bs.drop (r.1 - va)).take r.2
    pure (t.ventTouch asid r.1 r.2 x true fun u =>
      if regionOf x.pa == .window then u.windowWrite x.pa now else (u.writeBytes x.kid x.pa now).noteWrite (x.pa / 128))) s
  let x ← s1.ventTranslate part asid .store sys va
  pure (bad.foldl (fun t k => t.markPoison (x.pa + 4 * k) 4) s1)

/-! ## Control blocks (R318) -/

/-- Control block of queue q. -/
def State.queue (s : State) (q : Nat) : Qcb := Tbl.getD s.queues q .initial

/-- Change the control block of queue q. -/
def State.changeQueue (s : State) (q : Nat) (f : Qcb → Qcb) : State := { s with queues := Tbl.set s.queues q (f (s.queue q)) }

/-- An event of queue q enters the vent queue (R323). -/
def State.ventPush (s : State) (q : Nat) (a : VentAsk) : State := { s with vent := s.vent ++ [{ queue := q, ask := a }] }

/-- An event leaves the vent queue. -/
def State.ventTake (s : State) (q : Nat) (a : VentAsk) : State :=
  { s with vent := eraseFirst (· == { queue := q, ask := a }) s.vent }

/-- An event of queue q that is in turn: events of one queue are handled in the order they entered (R323). While a command of the queue runs, a
doorbell asks for nothing, since the vent core looks at the queue again when the command retires (R320). -/
def State.ventTurn (s : State) (q : Nat) (a : VentAsk) : Bool :=
  (s.vent.find? fun e => e.queue == q && e.ask != .doorbell) == some { queue := q, ask := a }

/-- Record a queue error unless one stands (R318). -/
def State.queueError (s : State) (q e : Nat) : State := s.changeQueue q fun c => if c.qerr == 0 then { c with qerr := e } else c

/-- TAIL is written (R318): the doorbell. A distance beyond the ring is an error and is not served (log 29). In replay mode doorbells
are ignored by the vent cores (R412). -/
def State.ring (s : State) (q : Nat) (t : BitVec 32) : State :=
  let s1 := s.changeQueue q fun c => { c with tail := t }
  let c := s1.queue q
  if decide ((c.tail - c.head).toNat > 2 ^ c.log2n) then s1.queueError q 1 else s1.ventPush q .doorbell

/-- DOORBELL: the host writes TAIL of queue q (R318, R323). -/
def execDoorbell (q : Nat) (t : BitVec 32) (s : State) : Out := if q < 1024 then .next (s.ring q t) else .next s

/-- VA of the slot of a sequence number. -/
def Qcb.slot (c : Qcb) (seq : Word) : Nat := (c.base.toNat + 64 * (seq.toNat % 2 ^ c.log2n)) % 2 ^ 64

/-! ## Commands (R319) -/

/-- A command as the vent core takes it: its words, their poison, and whether its ENQ was dropped (R344). -/
structure Command where
  words : List Nat
  bad : List Bool
  dropped : Bool
  deriving DecidableEq, Repr

/-- Word i of a command. -/
def Command.word (c : Command) (i : Nat) : Nat := c.words.getD i 0

/-- OP. -/
def Command.op (c : Command) : Nat := c.word 0 % 256

/-- A command that breaks R319, or that is poisoned (R344). -/
def Command.malformed (c : Command) : Bool :=
  let w := c.word
  c.dropped || c.bad.any id || decide (natBits (w 0) 63 12 ≠ 0) || decide (natBits (w 0) 9 8 > 1) ||
    decide (natBits (w 0) 11 10 > 1) || decide (c.op > 3) || w 5 != 0 || w 6 != 0 ||
    match c.op with
    | 0 => w 1 != 0 || w 2 != 0 || w 3 != 0 || w 4 != 0
    | 1 => w 2 != 0
    | _ => w 1 % 8 != 0 || w 3 != 0 || w 4 != 0

/-- The command at a ring's slot, with the poison of each word. R17 gives peer memory to accesses of system scope, and no rule gives the vent cores'
reads of a ring and writes of STATUS a scope: they are taken as system scope (log 105). -/
def State.commandAt (s : State) (c : Qcb) (seq : Word) : Except Cause (State × Command) := do
  let (s1, bs, _) ← s.ventRead c.part c.asid true (c.slot seq) 64
  let t ← s1.ventTranslate c.part c.asid .load true (c.slot seq)
  pure (s1, { words := words8 8 bs, bad := (List.range 8).map fun i => s1.poisonedAt (t.pa + 8 * i) 8, dropped := false })

/-- The journal's next command, where it is one of queue q (R412). -/
def State.replayedCommand (s : State) (q : Nat) : Option JEntry :=
  match s.debug[(s.queue q).part].replay.find? (·.kind == 0x10) with
  | some e => if e.key == q then some e else none
  | none => none

/-- An ENQ whose slot is still to be written holds the command that its queue starts next (R344). -/
def State.slotUnwritten (s : State) (q : Nat) (seq : Word) : Bool :=
  s.parties.any fun p => p.pend.any fun e => match e.kind with
    | .enq k n _ _ => k == q && n == seq.toNat
    | _ => false

/-- A command of queue q can start (R318, R320, R323, R344); in replay mode, the journal's next command (R412). It waits while the
journal has no room for its entry (R405), and while the vent core's clock may not run on (R269). -/
def State.commandDue (s : State) (q : Nat) : Bool :=
  let c := s.queue q
  c.enable && !c.busy && s.parts[c.part].serving && s.journalRoom c.part (journalBytes 10) &&
    !s.clockAhead (ventUnit s.ventPick) &&
    if s.debugBit c.part 7 then (s.replayedCommand q).isSome
    else s.vent.contains { queue := q, ask := .doorbell } && c.head != c.tail && !s.slotUnwritten q c.head && decide ((c.tail - c.head).toNat ≤ 2 ^ c.log2n)

/-- The command that queue q starts next. -/
def State.nextCommand (s : State) (q : Nat) : Except Cause (State × Command) :=
  let c := s.queue q
  if s.debugBit c.part 7 then
    match s.replayedCommand q with
    | some e => pure (s.changeQueue q fun c => { c with head := BitVec.ofNat 32 e.pos },
        { words := e.vals, bad := [], dropped := false })
    | none => throw .xlat
  else if c.droppedSeqs.contains c.head.toNat then pure (s, { words := [], bad := [], dropped := true })
  else s.commandAt c c.head

/-- The command is being served: its event has been taken, and it is journaled (R411). -/
def State.takeCommand (s : State) (q : Nat) (w : Command) : State :=
  let c := s.queue q
  let s1 := (s.changeQueue q fun c => { c with busy := true, cmd := w.words }).ventTake q .doorbell
  let s2 := if s.debugBit c.part 7 then
      s1.changeDebug c.part fun d => { d with replay := eraseFirst (fun e => e.kind == 0x10) d.replay } else s1
  s2.journalEntry c.part (2816 + s.ventPick) { kind := 0x10, ident := 0, pos := c.head.toNat, key := q, vals := w.words }

/-- STATUS is written, at system scope (log 105), and HEAD passes the command; the queue's next command may start (R320, R322). -/
def State.retireCommand (s : State) (q st : Nat) : State :=
  let c := s.queue q
  let s1 := match s.ventWrite c.part c.asid true (c.slot c.head + 56) (bytesLE 8 st) [] with
    | .ok t => t
    | .error _ => s.queueError q 2
  let drop (l : List Nat) : List Nat := l.filter (· != c.head.toNat)
  let s2 := s1.changeQueue q fun c => { c with
    head := c.head + 1, busy := false, cmd := [], watch := none,
    droppedSeqs := drop c.droppedSeqs, userSeqs := drop c.userSeqs }
  if (s2.queue q).head == c.tail then s2 else s2.ventPush q .doorbell

/-- The phase of a command's first word is at system scope (R319). -/
def phaseSys (w k : Nat) : Bool := natBits w (k + 1) k != 0

/-- DONE is stored, where one is named, and the command retires (R320). -/
def State.endLaunch (s : State) (q st : Nat) : State :=
  let c := s.queue q
  let done := c.cmd.getD 3 0
  let s1 := if done == 0 then s
    else match s.ventWrite c.part c.asid (phaseSys (c.cmd.getD 0 0) 10) done (bytesLE 8 (c.cmd.getD 4 0)) [] with
      | .ok t => t
      | .error _ => s
  s1.retireCommand q st

/-- Start queue q's command when it is one that a test accepts. -/
def State.startCommand (s : State) (q : Nat) (pick : Command → Bool) (run : State → Command → State) : State :=
  if !s.commandDue q then s
  else match s.nextCommand q with
    | .error _ => s
    | .ok (t, w) => if pick w then run (t.takeCommand q w) w else s

/-- MALFORMED_COMMAND: status 1, or 4 for a dropped ENQ (R319, R344); with nothing of a bundle to wait for, its end phase is over at
once (R321). A malformed LAUNCH that is not poisoned still stores DONE (R320, log 32). A ring that cannot be read is a queue error
(R318). -/
def execMalformedCommand (q : Nat) (s : State) : Out :=
  if s.commandDue q && !(s.nextCommand q).isOk then
    .next ((s.queueError q 2).ventTake q .doorbell)
  else .next (s.startCommand q (·.malformed) fun t w =>
    let st := if w.dropped then 4 else 1
    if w.op == 1 && !w.dropped && !w.bad.any id then t.endLaunch q st else t.retireCommand q st)

/-- NOP_COMMAND (R320). -/
def execNopCommand (q : Nat) (s : State) : Out :=
  .next (s.startCommand q (fun w => !w.malformed && w.op == 0) fun t _ => t.retireCommand q 0)

/-- The store of a SIGNAL, none where its semaphore cannot be written or reads back uncorrectable (R320). -/
def State.signalStore (s : State) (c : Qcb) (w : Command) : Option State :=
  let sys := phaseSys (w.word 0) 10
  match s.ventTranslate c.part c.asid .store sys (w.word 1) with
  | .error _ => none
  | .ok x => if s.poisonedAt x.pa 8 then none
    else match s.ventWrite c.part c.asid sys (w.word 1) (bytesLE 8 (w.word 2)) [] with
      | .ok u => some u
      | .error _ => none

/-- SIGNAL: the end phase, of which the store is part; a fault gives status 6 and no store (R320, R321). -/
def execSignal (q : Nat) (s : State) : Out :=
  .next (s.startCommand q (fun w => !w.malformed && w.op == 3) fun t w =>
    match t.signalStore (t.queue q) w with
    | some u => u.retireCommand q 0
    | none => t.retireCommand q 6)

/-! ## WAITSEM (R320, R324) -/

/-- Read the semaphore: the command retires when the value is reached or the read fails; otherwise its line is watched. -/
def State.readSem (s : State) (q : Nat) : State :=
  let c := s.queue q
  let va := c.cmd.getD 1 0
  let sys := phaseSys (c.cmd.getD 0 0) 8
  match s.ventRead c.part c.asid sys va 8 with
  | .error _ => s.retireCommand q 6
  | .ok (t, bs, bad) =>
    if bad then t.retireCommand q 6
    else if natLE bs ≥ c.cmd.getD 2 0 then t.retireCommand q 0
    else match t.ventTranslate c.part c.asid .load sys va with
      | .ok x =>
        let n := x.pa / 128
        t.changeQueue q fun c => { c with
          watch := some { line := n, kid := (t.line n).kid, interval := (t.line n).interval, sub := none, touched := false }
          polled := t.rtime.toNat }
      | .error _ => t.retireCommand q 6

/-- WAITSEM starts: a first read, and a watch (R320, R324). -/
def execWaitsem (q : Nat) (s : State) : Out :=
  .next (s.startCommand q (fun w => !w.malformed && w.op == 2) fun t _ => t.readSem q)

/-- The line that a waiting command of queue q watches has changed its interval (R324). -/
def State.semChanged (s : State) (c : Qcb) : Bool :=
  c.watch.any fun m =>
    regionOf (m.line * 128) != .host && ((s.line m.line).interval != m.interval || (s.line m.line).kid != m.kid)

/-- SEMAPHORE_CHANGE: the event of a watched line whose interval has changed is in turn, and the semaphore is read again (R323, R324). -/
def execSemaphoreChange (q : Nat) (s : State) : Out :=
  if s.ventTurn q .semaphore then
    let t := s.ventTake q .semaphore
    .next (if t.semChanged (t.queue q) then t.readSem q else t)
  else .next s

/-- SEMAPHORE_POLL: a semaphore in host memory is read again every microsecond (R324). -/
def execSemaphorePoll (q : Nat) (s : State) : Out :=
  match (s.queue q).watch with
  | some m =>
    if regionOf (m.line * 128) == .host && decide (s.rtime.toNat ≥ (s.queue q).polled + 1000) then .next (s.readSem q) else .next s
  | none => .next s

/-! ## Launch descriptors (R325-R327) -/

/-- A port byte: 0xFF is unbound. -/
def portByte (bs : List Byte) (o : Nat) : Option Nat :=
  let b := natLE ((bs.drop o).take 1)
  if b == 0xFF then none else some b

/-- Stage record (R326). -/
def parseStage (bs : List Byte) : StageRec :=
  let w0 := field64 bs 0
  let w1 := field64 bs 8
  let w2 := field64 bs 16
  let bit (n : Nat) : Bool := natBits w0 n n == 1
  { entry := natBits w0 31 0, kind := natBits w0 33 32, coresident := bit 34, perdie := bit 35, twin := bit 36, priv := bit 37,
    idem := bit 38, gridN := natBits w1 15 0, crewN := natBits w1 21 16, vreg := natBits w1 30 24,
    mininst := natBits w1 47 32, maxinst := natBits w1 63 48, clauses := natBits w2 31 0, stash := natBits w2 34 32,
    mq := natBits w2 35 35 == 1, lanesN := natBits w2 41 36,
    q := Vector.ofFn fun j => portByte bs (24 + j.val), sq := Vector.ofFn fun j => portByte bs (32 + j.val),
    qu := Vector.ofFn fun j => portByte bs (40 + j.val),
    args := Vector.ofFn fun j => BitVec.ofNat 64 (field64 bs (128 + 8 * j.val)) }

/-- Bits of a stage record that must be 0 (R326). -/
def stageZeros (bs : List Byte) : Bool :=
  natBits (field64 bs 0) 63 39 == 0 && natBits (field64 bs 8) 23 22 == 0 && natBits (field64 bs 8) 31 31 == 0 &&
    natBits (field64 bs 16) 63 42 == 0 && ((bs.drop 48).take 80).all (· == 0)

/-- Queue record (R327). -/
def parseQueue (bs : List Byte) : QueueRec :=
  let w := field64 bs 0
  { depth := natBits w 10 0, scalar := natBits w 16 16 == 1, twin := natBits w 18 17, src := natBits w 26 24, dst := natBits w 30 28 }

/-- Bits of a queue record that must be 0 (log 33). -/
def queueZeros (bs : List Byte) : Bool :=
  let w := field64 bs 0
  natBits w 15 11 == 0 && natBits w 23 19 == 0 && natBits w 27 27 == 0 && natBits w 63 31 == 0 && field64 bs 8 == 0

/-- The descriptor of its bytes, none where a bit that must be 0 is not, or a count is out of range (R325-R327). -/
def parseDesc (bs : List Byte) : Option Desc :=
  let ns := natBits (field64 bs 8) 7 0
  let nq := natBits (field64 bs 8) 15 8
  let stage (i : Nat) : List Byte := (bs.drop (64 + 256 * i)).take 256
  let queue (j : Nat) : List Byte := (bs.drop (64 + 256 * ns + 16 * j)).take 16
  if decide (1 ≤ ns) && decide (ns ≤ 8) && decide (nq ≤ 32) && field64 bs 0 % 4096 == 0 &&
      natBits (field64 bs 8) 63 16 == 0 && natBits (field64 bs 24) 63 32 == 0 && ((bs.drop 32).take 32).all (· == 0) &&
      ((List.range ns).all fun i => stageZeros (stage i)) && ((List.range nq).all fun j => queueZeros (queue j)) then
    some { codebase := field64 bs 0, pspbase := field64 bs 16, userh := field32 bs 24,
           stages := (List.range ns).map fun i => parseStage (stage i),
           queues := (List.range nq).map fun j => parseQueue (queue j) }
  else none

/-- The rules of R326 for stage i of a descriptor, R314 for a partition of n dies, and R309 with `sup`. PERDIE in a matrix or copy stage, of which
R314 and R326 say nothing, is refused (log 106). -/
def stageLegal (d : Desc) (i n : Nat) (sup : Bool) (x : StageRec) : Bool :=
  let vec := x.kind == 0
  let port (p : Option Nat) : Bool := match p with
    | none => true
    | some j => (d.queues[j]?).any fun q => q.src == i || q.dst == i
  x.kind != 3 && decide (1 ≤ x.mininst) && decide (x.mininst ≤ x.maxinst) && decide (x.maxinst ≤ x.gridN) &&
    (!x.coresident || (x.mininst == x.gridN && x.maxinst == x.gridN)) && decide (x.stash ≤ 5) &&
    (if vec then decide (1 ≤ x.crewN) && decide (x.crewN ≤ 32) && decide (1 ≤ x.vreg) && decide (x.vreg ≤ 116) &&
        decide (x.crewN * x.vreg ≤ 4096) && decide (1 ≤ x.lanesN) && decide (x.lanesN ≤ 32)
      else x.crewN == 0 && x.vreg == 0 && x.lanesN == 0) &&
    (!x.mq || (vec && decide (1 ≤ x.stash))) && (!x.twin || (vec && x.crewN == 2)) &&
    (!x.perdie || (vec && x.coresident && x.crewN == 1 && x.gridN == n)) && (!x.priv || sup) &&
    (x.q.toList ++ x.sq.toList ++ x.qu.toList).all port

/-- The twin rules of R217. The keys q0 = a:b of the twin stage must be there: R217 says what they name, and a twin stage without them, whose ports
Q0 and QU0 stand unbound by R326's default, has no gang that feeds the pair, so it is refused too (log 86). -/
def twinLegal (d : Desc) : Bool :=
  let marked (t : Nat) : List Nat := (List.range d.queues.length).filter fun j => (d.queues[j]?).any (·.twin == t)
  let twins := (List.range d.stages.length).filter fun i => (d.stages[i]?).any (·.twin)
  match twins, marked 1, marked 2 with
  | [], [], [] => true
  | [t], [a], [b] =>
    (match d.stages[t]?, d.queues[a]?, d.queues[b]? with
    | some x, some c, some u =>
      c.src == t && u.src == t && c.dst == u.dst && ((d.stages[c.dst]?).any (·.kind == 1)) &&
        x.q[0] == some a && x.qu[0] == some b
    | _, _, _ => false)
  | _, _, _ => false

/-- A descriptor that is not refused with status 2 (R217, R309, R314, R326, R327). -/
def descLegal (d : Desc) (n : Nat) (sup : Bool) : Bool :=
  ((List.range d.stages.length).all fun i => match d.stages[i]? with
    | some x => stageLegal d i n sup x
    | none => true) &&
  (d.queues.all fun q => decide (1 ≤ q.depth) && decide (q.depth ≤ 1024) && q.twin != 3 && decide (q.src < d.stages.length) &&
    decide (q.dst < d.stages.length)) && twinLegal d

/-- Queue storage in halves of a vector entry (R328). -/
def Desc.storage (d : Desc) : Nat := (d.queues.map fun q => if q.scalar then q.depth else 2 * q.depth).sum

/-- Queue storage of the package in halves of a vector entry (R328). -/
def storageSize : Nat := 2 * 65536

/-- Storage that running bundles hold. -/
def State.storageUsed (s : State) : Nat := ((s.bundles.filter fun b => !b.retired).map fun b => b.desc.storage).sum

/-- Dies of a partition that work. -/
def State.liveDies (s : State) (part : Fin 4) : List Nat := (diesOf s.parts[part].dies).filter fun d => !(s.die d).failed

/-- No die of the partition works, or the stage is a CORESIDENT one that it could never hold at once: each die takes its crews, one to a core
(R322, R333, R334, R397). -/
def State.stageNeverFits (s : State) (part : Fin 4) (x : StageRec) : Bool :=
  let ds := diesOf s.parts[part].dies
  (s.liveDies part).isEmpty || (x.coresident &&
    if x.kind == 0 then decide (x.gridN > 128 * ds.length) || (ds.take x.gridN).any fun k => (s.die k).failed
    else decide (x.gridN > 32 * (s.liveDies part).length))

/-- A bundle that cannot be admitted anywhere in its partition (R322). -/
def State.neverFits (s : State) (part : Fin 4) (d : Desc) : Bool :=
  (s.liveDies part).isEmpty || d.stages.any (s.stageNeverFits part)

/-- A bundle starts: every instance pending, every queue empty and open (R328, R330). -/
def State.startBundle (s : State) (q : Nat) (d : Desc) : State :=
  let c := s.queue q
  let b : Bundle :=
    { id := s.nextBundle + 1, part := c.part, asid := c.asid, queue := q, cseq := c.head.toNat, desc := d,
      stages := d.stages.map fun x => { pending := List.range x.gridN, resident := 0, exited := 0, finished := false, goneClauses := 0, goneNoFlush := false },
      queues := d.queues.map fun _ => { entries := [], closed := false, fullSince := none },
      status := 0, record := none, trapImm := 0, saved := [], retired := false, endTime := 0 }
  { s with bundles := s.bundles ++ [b], nextBundle := s.nextBundle + 1 }

/-- What a LAUNCH finds at its descriptor: none for a refusal with status 2 (R322, R325). -/
def State.readDesc (s : State) (q : Nat) (sys : Bool) (va : Nat) (sup : Bool) : Option (State × Desc) :=
  let c := s.queue q
  match s.ventRead c.part c.asid sys va 64 with
  | .error _ => none
  | .ok (s1, h, _) =>
    let ns := natBits (field64 h 8) 7 0
    let nq := natBits (field64 h 8) 15 8
    if decide (ns > 8) || decide (nq > 32) then none
    else match s1.ventRead c.part c.asid sys va (64 + 256 * ns + 16 * nq) with
      | .error _ => none
      | .ok (s2, bs, bad) =>
        if bad then none
        else match parseDesc bs with
          | some d => if descLegal d (diesOf s.parts[c.part].dies).length sup then some (s2, d) else none
          | none => none

/-- A command of queue q may start supervisor stages: the queue has SUP, and no user party enqueued it (R309, R344). -/
def Qcb.mayStartSup (c : Qcb) (seq : Nat) : Bool := c.sup && !c.userSeqs.contains seq

/-- LAUNCH: the start phase, the descriptor and its refusals, and the bundle; one that is not refused waits while queue storage is short
(R320-R322, R325-R328). A refused command ends at once, its end phase having nothing to wait for (R321). -/
def execLaunch (q : Nat) (s : State) : Out :=
  let c := s.queue q
  let waits := match s.nextCommand q with
    | .ok (t, w) => match t.readDesc q (phaseSys (w.word 0) 8) (w.word 1) (c.mayStartSup (t.queue q).head.toNat) with
      | some (u, d) => decide (d.storage ≤ storageSize) && !u.neverFits c.part d && decide (t.storageUsed + d.storage > storageSize)
      | none => false
    | .error _ => false
  .next (if waits then s
    else s.startCommand q (fun w => !w.malformed && w.op == 1) fun t w =>
      match t.readDesc q (phaseSys (w.word 0) 8) (w.word 1) (c.mayStartSup (t.queue q).head.toNat) with
      | none => t.endLaunch q 2
      | some (u, d) =>
        if decide (d.storage > storageSize) || u.neverFits c.part d then u.endLaunch q 3 else u.startBundle q d)

/-! ## Ends of stages and bundles (R330) -/

/-- No instance of stage g of a bundle is still to start or to exit. -/
def Bundle.stageOver (b : Bundle) (g : Nat) : Bool :=
  match b.stages[g]?, b.desc.stages[g]? with
  | some x, some r => !x.finished && x.pending.isEmpty && x.resident == 0 && decide (x.exited ≥ r.gridN) && !b.saved.any (·.stage == g)
  | _, _ => false

/-- STAGE_FINISH: the event of a stage that is over is in turn, and the queues that the stage produced are closed (R323, R330). -/
def execStageFinish (b g : Nat) (s : State) : Out :=
  match s.bundle b with
  | some x =>
    if !x.stageOver g || !s.ventTurn x.queue (.stageOver b g) then .next s
    else .next ((s.ventTake x.queue (.stageOver b g)).changeBundle b fun y =>
      let shut (r : Queue × QueueRec) : Queue := if r.2.src == g then { r.1 with closed := true } else r.1
      { y with stages := updateAt (fun z => { z with finished := true }) g y.stages
               queues := (y.queues.zip y.desc.queues).map shut })
  | none => .next s

/-- Events enter the vent queue as they arise (R323, R324): a watched line that has changed, a stage that is over. -/
def State.noteVent (s : State) : State :=
  let sems := (s.queues.filter fun x => s.semChanged x.2).map fun x => ({ queue := x.1, ask := .semaphore } : VentEvent)
  let overs := s.bundles.flatMap fun b => ((List.range b.stages.length).filter b.stageOver).map fun g =>
    ({ queue := b.queue, ask := .stageOver b.id g } : VentEvent)
  { s with vent := s.vent ++ (sems ++ overs).filter fun e => !s.vent.contains e }

/-- Message queues of a bundle's cores are emptied and free, and every credit for them is returned (R127, R328). -/
def State.freeMessages (s : State) (b : Nat) : State :=
  let mine := (s.cores.filter fun c => c.2.mqOwner == some b).map (·.1)
  mine.foldl (fun t k =>
    let t1 := t.changeCore k fun c => { c with mqOwner := none, mq := Vector.replicate 4 [] }
    (rangeFrom (k / 4 * 4) 1 4).foldl (fun u j => u.changeCore j fun c =>
      { c with credits := Vector.ofFn fun (i : Fin 16) => if i.val / 4 == k % 4 then 16 else c.credits[i] }) t1) s

/-- The bundle retires as a whole (R330): its end phase waits, in FULL mode, for the times of its accesses (R321), taken as the
largest clock of its partition now (log 34). -/
def State.bundleOver (s : State) (b : Bundle) : State :=
  let high := ((s.clocks.map (·.1)).filter (s.counts b.part)).foldl (fun m u => maxTime m (s.clock u)) (s.parts[b.part].maxClock)
  (s.freeMessages b.id).changeBundle b.id fun x => { x with
    retired := true, endTime := high.toNat, queues := x.queues.map fun q => { q with entries := [], fullSince := none } }

/-- The end phase of a retired bundle is over (R321, R285). -/
def State.endPhaseOver (s : State) (b : Bundle) : Bool :=
  !s.parts[b.part].full || laterOrSame s.parts[b.part].chkhz (BitVec.ofNat 48 b.endTime)

/-- BUNDLE_RETIRE: every stage has finished, every engine job of the bundle is complete and every party has left; after the end phase
DONE and STATUS are written and HEAD passes the command (R320-R322, R328, R330, R396). -/
def execBundleRetire (b : Nat) (s : State) : Out :=
  match s.bundle b with
  | some x =>
    let whole := x.stages.all (·.finished) && (s.jobs.all fun j => j.bundle != b || j.complete) && s.parties.all fun p => p.bundle != b
    if !x.retired && !whole then .next s
    else
      let s1 := if x.retired then s else s.bundleOver x
      match s1.bundle b with
      | some y =>
        if s1.endPhaseOver y then
          .next ({ s1 with bundles := s1.bundles.filter (·.id != b) }.endLaunch y.queue y.status)
        else .next s1
      | none => .next s1
  | none => .next s

/-! ## Queue words on their way (R47) -/

/-- No earlier MQPUT of the gang is still on its way (R128). -/
def Party.putOrder (p : Party) (n : Nat) : Bool :=
  (p.pend.takeWhile fun x => x.id != n).all fun x => match x.kind with | .mqput .. => false | _ => true

/-- The vent cores see an ENQ: its slot is written, with STATUS 0, and its event enters the vent queue (R344); a slot that cannot be
written, as one in peer memory, which an ENQ's device scope does not reach (R17, R344), is a queue error (R318). -/
def State.enqArrive (s : State) (q seq : Nat) (bytes : List Byte) (bad : List Nat) : State :=
  let c := s.queue q
  let s1 := match s.ventWrite c.part c.asid false (c.slot (BitVec.ofNat 32 seq)) bytes (bad.filter (· < 14)) with
    | .ok t => t
    | .error _ => s.queueError q 2
  s1.ventPush q .doorbell

/-- QUEUE_OPERATION_COMPLETE: an MQPUT enters its queue, an MQGET that writes no lane is done, the slot of an ENQ is written (R47,
R128, R344). A word that is a release has first completed as one (R279), and an MQPUT behind a release fence waits for it (R231). -/
def execQueueOperationComplete (p : Ident) (n : Nat) (s : State) : Out :=
  match s.pendOf p n with
  | some (q, e) =>
    match e.kind with
    | .mqput .. => .next (if q.putOrder n && q.ready e && (e.performed || !e.isRelease) then s.mqArrive q e else s)
    | .mqget .. => if e.active == 0 then .next ((s.perform p n false).dropPend p n) else .next s
    | .enq k seq bytes bad => if e.performed then .next ((s.enqArrive k seq bytes bad).dropPend p n) else .next s
    | _ => .next s
  | none => .next s

end Sys2Proof.Machine
end

