-- ==== Sys2Proof/Machine/Place.lean ====
section
/-! DEFINITION. Placement: what a gang or thread starts with (R31, R36, R185, R325, R326, R399), which crew may be admitted to which core
(R328, R332, R334), and which one a distributor starts or steals (R333). -/

namespace Sys2Proof.Machine

open Sys2Proof

/-! ## Starting a party -/

/-- Identity of a party of a bundle (R399). -/
def Bundle.identity (b : Bundle) (stage crew gang : Nat) (thr : Bool) : Ident :=
  BitVec.ofNat 64 (b.queue * 2 ^ 54 + stage * 2 ^ 51 + crew * 2 ^ 35 + gang * 2 ^ 30 + thr.toNat * 2 ^ 29 + b.cseq % 2 ^ 29)

/-- Gangs of the vector stages before stage g (R325). -/
def Desc.gangsBefore (d : Desc) (g : Nat) : Nat := ((d.stages.take g).map fun x => x.gridN * x.crewN).sum

/-- What gangs and threads of a stage have in common at their start (R31, R36, R309, R325, R326). -/
def Bundle.fresh (b : Bundle) (g c : Nat) (x : StageRec) : Party :=
  { Party.vacant with
    part := b.part, asid := b.asid, bundle := b.id, stage := g, crew := c, crewN := x.crewN, gridN := x.gridN
    codebase := b.desc.codebase, userh := b.desc.userh, sup := x.priv, sqports := x.sq
    sregs := Vector.ofFn fun (i : Fin 56) =>
      { val := if h : i.val < 16 then x.args[i.val] else 0, poison := false } }

/-- Gang i of crew c of stage g, on scheduler k of a core (R33, R36, R217, R325, R326). -/
def Bundle.gangOf (b : Bundle) (g c i core k : Nat) (x : StageRec) : Party :=
  let psp := (b.desc.pspbase + 32768 * (b.desc.gangsBefore g + c * x.crewN + i)) % 2 ^ 64
  let present := maskOf fun l => decide (l.val < x.lanesN)
  { b.fresh g c x with
    role := .gang, ident := b.identity g c i false, gang := i, vreg := x.vreg, psp, present, core, sched := k
    qports := if x.twin && i == 1 then x.qu else x.q
    pcv := lanes fun l => if LaneMask.has present l then BitVec.ofNat 32 x.entry else 0xFFFFFFFF
    rsp := lanes fun l => BitVec.ofNat 64 (psp + 1024 * (l.val + 1)) }

/-- The thread of an instance of a matrix or copy stage, on a cluster (R43, R326). -/
def Bundle.threadOf (b : Bundle) (g c cluster : Nat) (x : StageRec) : Party :=
  let m := x.kind == 1
  { b.fresh g c x with
    role := if m then .mThread else .cThread, ident := b.identity g c (if m then 0 else 1) true, gang := if m then 0 else 1
    present := 1, core := 4 * cluster, qports := x.q
    pcv := lanes fun l => if l.val == 0 then BitVec.ofNat 32 x.entry else 0xFFFFFFFF }

/-! ## Room (R332) -/

/-- Gangs resident on a core. -/
def State.gangsOn (s : State) (core : Nat) : List Party := s.parties.filter fun p =>
  !p.isThread && p.core == core && p.bundle != 0 && !p.switchedOut

/-- Vector crews resident on a core; a thread's record reserves no register. -/
def State.crewsOn (s : State) (core : Nat) : List Crew := s.crews.filter fun c => c.core == core && c.reserve != 0

/-- A unit's die serves the partition, works and is not in a relock. -/
def State.dieServes (s : State) (part : Fin 4) (die : Nat) : Bool :=
  s.parts[part].dies.getLsbD die && !(s.die die).failed

/-- Core u holds a crew of stage g of a bundle (R328, R332). -/
def State.coreFits (s : State) (b : Bundle) (g : Nat) (x : StageRec) (u : Nat) : Bool :=
  let c := s.core u
  let crews := s.crewsOn u
  decide (u < 512) && s.dieServes b.part (u / 128) && !c.gated &&
    decide ((s.gangsOn u).length + x.crewN ≤ 32) &&
    decide ((crews.map (·.reserve)).sum + x.crewN * x.vreg ≤ 4096) &&
    (crews.all fun k => k.bundle != b.id || k.stage != g) && (crews.isEmpty || c.split == x.stash) &&
    (!x.mq || c.mqOwner.isNone || c.mqOwner == some b.id)

/-- The thread of cluster u that a stage's instances run on is free (R332). -/
def State.threadFits (s : State) (b : Bundle) (x : StageRec) (u : Nat) : Bool :=
  let r : Role := if x.kind == 1 then .mThread else .cThread
  decide (u < 128) && s.dieServes b.part (u / 32) && s.parties.all fun p =>
    p.bundle == 0 || p.role != r || p.cluster != u || p.switchedOut

/-- Unit u, a core or a cluster, fits an instance of the stage. -/
def State.unitFits (s : State) (b : Bundle) (g : Nat) (x : StageRec) (u : Nat) : Bool :=
  if x.kind == 0 then s.coreFits b g x u else s.threadFits b x u

/-- Die of a core or cluster. -/
def unitOfDie (x : StageRec) (u : Nat) : Nat := if x.kind == 0 then u / 128 else u / 32

/-! ## Admission (R328, R332) -/

/-- The scheduler of a core that holds the fewest gangs, the lowest-numbered on a tie (R332). -/
def State.leastSched (s : State) (core : Nat) : Nat :=
  let n (k : Nat) : Nat := ((s.gangsOn core).filter (·.sched == k)).length
  (List.range 4).foldl (fun best k => if n k < n best then k else best) 0

/-- A party comes to stand on its place. -/
def State.addParty (s : State) (p : Party) : State :=
  if s.me == .vacant then s.setMe p else { s with others := s.others ++ [p] }

/-- The parties of crew c of stage g on unit u, placed one after the other. -/
def State.placeCrew (s : State) (b : Bundle) (g c u : Nat) (x : StageRec) : State :=
  if x.kind == 0 then (List.range x.crewN).foldl (fun t i => t.addParty (b.gangOf g c i u (t.leastSched u) x)) s
  else
    let s1 := if x.kind == 1 then s.changeCluster u fun k => { k with engine := .initial } else s
    s1.addParty (b.threadOf g c u x)

/-- What admission does to the core: the split, the owner of its message queues, and the crew's record (R328, R332). -/
def State.reserveCrew (s : State) (b : Bundle) (g c u : Nat) (x : StageRec) : State :=
  let k : Crew :=
    { bundle := b.id, stage := g, crew := c, core := if x.kind == 0 then u else 4 * u, windows := Vector.replicate 8 none,
      draft := none, reserve := x.crewN * x.vreg, prmp := none, clauses := 0, noFlush := false }
  let s1 := if x.kind == 0 then (s.changeCore u fun y =>
      { y with split := x.stash, mqOwner := if x.mq then some b.id else y.mqOwner }).fitCache u else s
  { s1 with crews := s1.crews ++ [k] }

/-- A stage has one more resident instance, which was pending. -/
def State.noteStart (s : State) (b g c : Nat) : State :=
  s.changeBundle b fun y => { y with
    stages := updateAt (fun z => { z with pending := z.pending.filter (· != c), resident := z.resident + 1 }) g y.stages }

/-- Crew c of stage g is admitted to unit u and starts (R332). -/
def State.admitCrew (s : State) (b : Bundle) (g c u : Nat) (x : StageRec) : State :=
  ((s.reserveCrew b g c u x).placeCrew b g c u x).noteStart b.id g c

/-! ## Which crew is next (R331, R333) -/

/-- A stage that a slot may start an instance of: bundle, stage number, record, progress, first crew. -/
structure Cand where
  b : Bundle
  g : Nat
  x : StageRec
  st : StageState
  crew : Nat
  deriving DecidableEq, Repr

/-- Input queues of a stage. -/
def Bundle.inputs (b : Bundle) (g : Nat) : List (Queue × QueueRec) := (b.queues.zip b.desc.queues).filter fun q => q.2.dst == g

/-- Output queues of a stage. -/
def Bundle.outputs (b : Bundle) (g : Nat) : List (Queue × QueueRec) := (b.queues.zip b.desc.queues).filter fun q => q.2.src == g

/-- A queue is full. -/
def queueFull (q : Queue × QueueRec) : Bool := decide (q.1.entries.length ≥ q.2.depth)

/-- A stage has work (R331). -/
def Bundle.hasWork (b : Bundle) (g : Nat) (st : StageState) : Bool :=
  !st.pending.isEmpty || (b.inputs g).any fun q => !q.1.entries.isEmpty

/-- Entries of the input queues and their depth: the fraction of R333 (log 35). -/
def Bundle.fill (b : Bundle) (g : Nat) : Nat × Nat :=
  (((b.inputs g).map fun q => q.1.entries.length).sum, ((b.inputs g).map fun q => q.2.depth).sum)

/-- One fraction is larger than another; no queue counts as 0. -/
def fillMore (a b : Nat × Nat) : Bool := decide (a.1 * Nat.max 1 b.2 > b.1 * Nat.max 1 a.2)

/-- Pending crews of a die (R333): crew i of a vector stage belongs to die p[i mod n]; an instance of another stage to any die. -/
def State.ofDie (s : State) (part : Fin 4) (x : StageRec) (die c : Nat) : Bool :=
  let ds := diesOf s.parts[part].dies
  x.kind != 0 || ds[c % Nat.max 1 ds.length]? == some die

/-- Stages of running bundles with a first pending crew that a test accepts, in the order of bundles and stages. -/
def State.cands (s : State) (pick : Bundle → Nat → StageRec → Nat → Bool) : List Cand :=
  (s.bundles.filter fun b => !b.retired).flatMap fun b => (List.range b.stages.length).filterMap fun g =>
    match b.stages[g]?, b.desc.stages[g]? with
    | some st, some x => (st.pending.find? (pick b g x)).map fun crew => { b, g, x, st, crew }
    | _, _ => none

/-- The stage that rules 1 and 2 of R333 choose. -/
def choose12 (cs : List Cand) : Option Cand :=
  match cs.find? fun k => decide (k.st.resident < k.x.mininst) with
  | some k => some k
  | none =>
    (cs.filter fun k => decide (k.st.resident < k.x.maxinst) && (k.b.outputs k.g).all fun q => !queueFull q).foldl
      (fun (m : Option Cand) k => match m with
        | none => some k
        | some y => if fillMore (k.b.fill k.g) (y.b.fill y.g) then some k else some y) none

/-- The crew that die d's distributor starts on unit u; `vector` says whether u is a core (R333). -/
def State.nextFor (s : State) (vector : Bool) (kind u : Nat) : Option Cand :=
  choose12 (s.cands fun b g x c => (x.kind == 0) == vector && (vector || x.kind == kind) && !x.coresident &&
    s.ofDie b.part x (unitOfDie x u) c && s.unitFits b g x u)

/-- Places for every crew or instance of a CORESIDENT stage at once, none where there are not enough (R314, R334); `own` keeps crew i
on die p[i mod n]. -/
def State.planFor (s : State) (b : Bundle) (g : Nat) (x : StageRec) (own : Bool) (cs : List Nat) : Option (List (Nat × Nat)) :=
  cs.foldlM (fun (acc : List (Nat × Nat)) c =>
    let units := List.range (if x.kind == 0 then 512 else 128)
    match units.find? fun u => (!own || s.ofDie b.part x (unitOfDie x u) c) && s.unitFits b g x u && acc.all fun k => k.2 != u with
    | some u => some (acc ++ [(c, u)])
    | none => none) []

/-- The crews of a CORESIDENT stage that start together: all of them, or after a flush those that have not exited (R334, R389). -/
def StageState.together (x : StageState) (gridN : Nat) : Bool := !x.pending.isEmpty && x.pending.length + x.exited == gridN

/-- CREW_ADMIT: a crew or instance starts on a core or cluster that fits it, as its distributor chooses; a CORESIDENT stage starts as a
whole (R332-R334). -/
def execCrewAdmit (b g c u : Nat) (s : State) : Out :=
  match s.bundle b with
  | none => .next s
  | some y =>
    match y.stages[g]?, y.desc.stages[g]? with
    | some st, some x =>
      if x.coresident then
        match (if st.together x.gridN then s.planFor y g x true st.pending else none) with
        | some plan => if plan.contains (c, u) then .next (plan.foldl (fun t k => t.admitCrew y g k.1 k.2 x) s) else .next s
        | none => .next s
      else
        match s.nextFor (x.kind == 0) x.kind u with
        | some k => if k.b.id == b && k.g == g && k.crew == c then .next (s.admitCrew y g c u x) else .next s
        | none => .next s
    | _, _ => .next s

/-! ## Stealing (R333) -/

/-- A pending crew that may be stolen and fits core u. -/
def State.stealable (s : State) (u die : Nat) (b : Bundle) (g : Nat) (x : StageRec) (c : Nat) : Bool :=
  x.kind == 0 && !x.coresident && !x.perdie && s.ofDie b.part x die c && s.coreFits b g x u

/-- How many pending crews of a die fit core u. -/
def State.stealCount (s : State) (u die : Nat) : Nat :=
  ((s.bundles.filter fun b => !b.retired).flatMap fun b => (List.range b.stages.length).flatMap fun g =>
    match b.stages[g]?, b.desc.stages[g]? with
    | some st, some x => st.pending.filter (s.stealable u die b g x)
    | _, _ => []).length

/-- CREW_STEAL: die d, with no pending crew of its own that fits its free core u, takes the lowest pending crew of the chosen stage of
the die with the most crews that fit (R333). -/
def execCrewSteal (d u : Nat) (s : State) : Out :=
  let own := s.cands fun b g x c => x.kind == 0 && !x.coresident && s.ofDie b.part x d c && s.coreFits b g x u
  let mates := match (List.finRange 4).find? fun p => s.parts[p].dies.getLsbD d with
    | some p => (diesOf s.parts[p].dies).filter (· != d)
    | none => []
  let victim := mates.foldl (fun (m : Option Nat) k => match m with
    | none => if s.stealCount u k == 0 then none else some k
    | some v => if s.stealCount u k > s.stealCount u v then some k else some v) none
  match u / 128 == d && own.isEmpty, victim with
  | true, some v =>
    match choose12 (s.cands (s.stealable u v)) with
    | some k => .next (s.admitCrew k.b k.g k.crew u k.x)
    | none => .next s
  | _, _ => .next s

end Sys2Proof.Machine
end

