-- ==== Sys2Proof/Machine/Preempt.lean ====
section
/-! DEFINITION. Pre-emption: requests and the action chosen (R213, R335, R388), flush (R389), save (R44, R390), withdrawal (R391), restore
(R185, R392, R397), and kill requests (R396). -/

namespace Sys2Proof.Machine

open Sys2Proof

/-! ## Requests (R335, R388) -/

/-- Crews that a request on crew c of stage g concerns: every resident crew of a CORESIDENT stage (R334). -/
def State.concerned (s : State) (b g c : Nat) : List Crew :=
  match (s.bundle b).bind (·.desc.stages[g]?) with
  | some x => s.crews.filter fun k => k.bundle == b && k.stage == g && (x.coresident || k.crew == c)
  | none => []

/-- Parties of a crew. -/
def State.partiesOf (s : State) (k : Crew) : List Party := s.parties.filter k.isOf

/-- No party of the crew has done what makes it unflushable (R388). -/
def State.flushable (s : State) (k : Crew) : Bool := !k.noFlush && (s.partiesOf k).all fun p => !p.noFlush

/-- The action R388 chooses: 0 flush, 1 drain, 2 save. Instances of matrix and copy stages are always saved. For a CORESIDENT stage every crew
counts, those that have exited among them. -/
def State.actionFor (s : State) (x : StageRec) (z : StageState) (ks : List Crew) : Nat :=
  let done := (ks.map (·.clauses)).sum + if x.coresident then z.goneClauses else 0
  let all := (if x.coresident then x.gridN else ks.length) * x.crewN * x.clauses
  if x.kind != 0 then 2
  else if x.idem && (all == 0 || decide (4 * done < all)) && ks.all s.flushable && !(x.coresident && z.goneNoFlush) then 0
  else if x.clauses != 0 && decide (4 * done ≥ 3 * all) then 1
  else 2

/-- Change the crews that a test accepts. -/
def State.changeCrews (s : State) (pick : Crew → Bool) (f : Crew → Crew) : State :=
  { s with crews := s.crews.map fun k => if pick k then f k else k }

/-- Set or clear PRMP in every party of a crew (R386, R388). -/
def State.markPrmp (s : State) (k : Crew) (on : Bool) : State :=
  (s.partiesOf k).foldl (fun t p => t.changeParty p.ident fun q =>
    if on then q.setCause .prmp else { q with cause := q.cause &&& ~~~Cause.mask .prmp }) s

/-- Make a request, unless one is pending. -/
def State.request (s : State) (b g c : Nat) : State :=
  match (s.bundle b).bind fun y => (y.desc.stages[g]?).bind fun x => (y.stages[g]?).map fun z => (x, z) with
  | none => s
  | some (x, z) =>
    let ks := s.concerned b g c
    if ks.any (·.prmp.isSome) then s
    else
      let a := s.actionFor x z ks
      let s1 := s.changeCrews (fun k => ks.contains k) fun k => { k with prmp := some (s.rtime.toNat, a) }
      ks.foldl (fun t k => t.markPrmp k true) s1

/-- PREEMPT_REQUEST: the vent cores make the request, after the events of its command queue that entered the vent queue before it (R323, R388). -/
def execPreemptRequest (b g c : Nat) (s : State) : Out :=
  let ask : VentAsk := .preempt b g c
  match s.bundle b with
  | none => .next { s with vent := s.vent.filter (·.ask != ask) }
  | some y =>
    if (s.vent.all fun e => e.queue != y.queue || e.ask == .doorbell) || s.ventTurn y.queue ask then
      .next ((s.ventTake y.queue ask).request b g c)
    else .next (if s.vent.contains { queue := y.queue, ask } then s else s.ventPush y.queue ask)

/-- Every output queue of stage g has been full for 10 microseconds (R335). -/
def State.stalledStage (s : State) (b : Bundle) (g : Nat) : Bool :=
  !(b.outputs g).isEmpty && (b.outputs g).all fun q => q.1.fullSince.any fun t => decide (t + 10000 ≤ s.rtime.toNat)

/-- Another stage of the bundle is below MININST with work, and no slot fits it (R335). -/
def State.starved (s : State) (b : Bundle) (g : Nat) : Bool :=
  (List.range b.stages.length).any fun h => h != g && match b.stages[h]?, b.desc.stages[h]? with
    | some st, some x => decide (st.resident < x.mininst) && b.hasWork h st && !st.pending.isEmpty &&
        (List.range (if x.kind == 0 then 512 else 128)).all fun u => !s.unitFits b h x u
    | _, _ => false

/-- QUEUE_STALL_PREEMPT (R335). -/
def execQueueStallPreempt (b g c : Nat) (s : State) : Out :=
  match s.bundle b with
  | some y => if s.stalledStage y g && s.starved y g then .next (s.request b g c) else .next s
  | none => .next s

/-- DRAIN_TIMEOUT: 20 microseconds after the request the crews that have not exited are saved (R388). -/
def execDrainTimeout (b g c : Nat) (s : State) : Out :=
  let ks := s.concerned b g c
  .next (s.changeCrews (fun k => ks.contains k) fun k => match k.prmp with
    | some (t, 1) => if t + 20000 ≤ s.rtime.toNat then { k with prmp := some (t, 2) } else k
    | _ => k)

/-- PREEMPT_WITHDRAW: a request not taken for 100 microseconds is withdrawn (R391). -/
def execPreemptWithdraw (b g c : Nat) (s : State) : Out :=
  let due (k : Crew) : Bool := k.prmp.any fun x => decide (x.1 + 100000 ≤ s.rtime.toNat)
  let ks := (s.concerned b g c).filter due
  .next (ks.foldl (fun t k => t.markPrmp k false)
    (s.changeCrews (fun k => ks.contains k) fun k => { k with prmp := none }))

/-! ## Where a party is stopped (R390, R391) -/

/-- The party stands where a request stops it: at a vote boundary or in stoppable waits, not in a handler, replayable or halted (R255, R391);
for an M-thread after an MSYNC with PP = 1, or at a trap that has switched it out of issue, when no MX job of it is outstanding (R213, R381,
log 92). -/
def Party.stoppedFor (p : Party) : Bool :=
  let quiet (q : Port) : Bool := !q.held || p.stoppable q
  p.live == 0 || (p.handler.isNone && !p.halted && !p.stopped &&
    if p.role == .mThread then
      (p.atPoint || p.replayable) && p.pend.all (fun e => match e.kind with | .fence _ | .job _ => false | _ => true)
    else !p.replayable && quiet p.port && quiet p.mate)

/-- Every live party of the crews is stopped, and there is one; a party that has exited has nothing outstanding. -/
def State.allStopped (s : State) (ks : List Crew) : Bool :=
  ks.all fun k => (s.partiesOf k).any (fun p => p.live != 0) && (s.partiesOf k).all fun p => p.stoppedFor && (p.live != 0 || p.done)

/-- The crews of a request whose action is `a`, when all of the stage's have it. -/
def State.ready (s : State) (b g c a : Nat) : List Crew :=
  let ks := s.concerned b g c
  if ks.all fun k => k.prmp.any (·.2 == a) then ks else []

/-- Write the crew's windows home (R125, R389, R390). -/
def State.homeWindows (s : State) (k : Crew) : State :=
  (k.windows.toList.filterMap id).foldl (fun t w => t.homeWindow k.core w) s

/-- Remove a crew's record and change the progress of its stage. -/
def State.dropCrew (s : State) (k : Crew) (f : StageState → StageState) : State :=
  { s with crews := s.crews.filter fun x => !(x.bundle == k.bundle && x.stage == k.stage && x.crew == k.crew) }.changeBundle k.bundle
    fun b => { b with stages := updateAt f k.stage b.stages }

/-! ## Flush (R389) -/

/-- Nothing of a party is outstanding but what a flush discards. -/
def Party.flushClear (p : Party) : Bool :=
  p.pend.all fun e => match e.kind with
    | .load .. | .sld .. | .vfill .. | .mon | .refill | .value .. | .svalue .. => true
    | _ => false

/-- Flush one crew: its draft window is closed, its windows written home, its parties are gone, and it is pending again. -/
def State.flushCrew (s : State) (k : Crew) : State :=
  let s1 := (s.partiesOf k).foldl (fun t p => t.closeDraft p) s
  let s2 := s1.homeWindows k
  let s3 : State := { s2 with
    me := if k.isOf s2.me then .vacant else s2.me
    others := s2.others.filter fun p => !k.isOf p }
  s3.dropCrew k fun z => { z with pending := insertNat k.crew z.pending, resident := z.resident - 1 }

/-- FLUSH (R388, R389). -/
def execFlush (b g c : Nat) (s : State) : Out :=
  let ks := s.ready b g c 0
  if ks.isEmpty || !s.allStopped ks || !(ks.all fun k => (s.partiesOf k).all (·.flushClear)) then .next s
  else .next (ks.foldl (fun t k => t.flushCrew k) s)

/-! ## Save (R44, R390) -/

/-- Nothing of a party is outstanding but engine jobs (R390). -/
def Party.saveClear (p : Party) : Bool := p.pend.all fun e => match e.kind with | .job _ => true | _ => false

/-- The message queues of the crew's core that belong to its bundle are empty (R390). -/
def State.messagesOut (s : State) (k : Crew) : Bool :=
  k.reserve == 0 || (s.core k.core).mqOwner != some k.bundle || (s.core k.core).mq.toList.all (·.isEmpty)

/-- What a saved party keeps: everything but its place; a stoppable wait it was in has ended, and its word, or the one a trap stopped, is
issued again (R213, R255). -/
def Party.savedForm (x : Party) : Party :=
  let p := if x.replayable then x.retried else x
  let again (q : Port) : Port := { q with halted := false, stall := false, started := p.isThread && q.held && !x.replayable }
  { p with cause := p.cause &&& ~~~Cause.mask .prmp, switchedOut := true, yielding := none, port := again p.port, mate := again p.mate }

/-- Save one party (R390). -/
def State.saveParty (s : State) (i : Ident) : State :=
  let s1 := (s.focus i).stopWaits.traceEvent 5 13
  s1.setMe s1.me.savedForm

/-- Save one crew or instance: its parties, its record and the engine of an M-thread; its windows are written home and unmapped. -/
def State.saveCrew (s : State) (k : Crew) : State :=
  let ps := (s.partiesOf k).filter fun p => p.live != 0
  let s1 := (ps.foldl (fun t p => t.saveParty p.ident) s).homeWindows k
  let m := ps.any fun p => p.role == .mThread
  let clean (w : Window) : Window := { w with lines := [], dirty := [] }
  let rec1 : Crew := { k with prmp := none, windows := k.windows.map (Option.map clean) }
  let v : Saved := { stage := k.stage, crew := k.crew, record := rec1
                     engine := if m then some (s1.cluster (k.core / 4)).engine else none }
  (s1.dropCrew k fun z => { z with resident := z.resident - 1 }).changeBundle k.bundle fun b => { b with saved := b.saved ++ [v] }

/-- SAVE (R390): every condition holds for every crew concerned. -/
def execSave (b g c : Nat) (s : State) : Out :=
  let ks := s.ready b g c 2
  if ks.isEmpty || !s.allStopped ks ||
      !(ks.all fun k => s.messagesOut k && (s.partiesOf k).all fun p => p.live == 0 || p.saveClear) then .next s
  else .next (ks.foldl (fun t k => t.saveCrew k) s)

/-! ## Restore (R392, R397) -/

/-- A restored party: its new place, and the issued bits cleared (R392). -/
def Party.restored (p : Party) (core sched : Nat) : Party :=
  { p with core, sched, switchedOut := false, issued := 0, sync := none }

/-- An engine restored under the Restore column of R185. -/
def Engine.restored (e : Engine) : Engine :=
  { Engine.initial with acc0 := e.acc0, acc1 := e.acc1, absent0 := e.absent0, absent1 := e.absent1, carry := e.carry,
                        fcode := e.fcode, flags := e.flags }

/-- Restore one saved crew or instance on unit u. -/
def State.restoreCrew (s : State) (b : Bundle) (x : StageRec) (v : Saved) (u : Nat) : State :=
  let core := if x.kind == 0 then u else 4 * u
  let s1 := s.reserveCrew b v.stage v.crew u x
  let s2 := s1.changeCrews (fun k => k.bundle == b.id && k.stage == v.stage && k.crew == v.crew) fun k =>
    { v.record with core := k.core }
  let s3 := match v.engine with
    | some e => s2.changeCluster u fun k => { k with engine := e.restored }
    | none => s2
  let ids := sortBy (fun i j => i.ule j) ((s3.parties.filter fun p => v.record.isOf p && p.switchedOut).map (·.ident))
  let s4 := ids.foldl (fun t i =>
    let t1 := t.focus i
    (t1.setMe (t1.me.restored core (if x.kind == 0 then t1.leastSched u else 0))).traceEvent 6 0) s3
  s4.changeBundle b.id fun y => { y with
    saved := y.saved.filter fun w => !(w.stage == v.stage && w.crew == v.crew)
    stages := updateAt (fun z => { z with resident := z.resident + 1 }) v.stage y.stages }

/-- No unit could take the crew even with nothing else resident: every die it may stand on has failed (R392). -/
def State.nowhere (s : State) (b : Bundle) (x : StageRec) (c : Nat) : Bool :=
  if x.perdie then (List.range 4).all fun d => !(s.ofDie b.part x d c) || (s.die d).failed
  else (s.liveDies b.part).isEmpty

/-- A crew that can be restored nowhere is gone, and its bundle records status 3 (R392, R396). -/
def State.abandon (s : State) (b : Bundle) (v : Saved) : State :=
  let s1 : State := { s with
    me := if v.record.isOf s.me then .vacant else s.me
    others := s.others.filter fun p => !v.record.isOf p }
  (s1.changeBundle b.id fun y => { y with
    saved := y.saved.filter fun w => !(w.stage == v.stage && w.crew == v.crew)
    stages := updateAt (fun z => { z with exited := z.exited + 1 }) v.stage y.stages }).recordStatus b.id 3

/-- Restore crew c of stage g on unit u: a unit that meets R332; a PERDIE crew on its own die; a CORESIDENT stage as a whole (R334,
R392). -/
def State.restore (s : State) (vector : Bool) (b g c u : Nat) : State :=
  match s.bundle b with
  | none => s
  | some y =>
    match y.desc.stages[g]?, y.saved.find? fun v => v.stage == g && v.crew == c with
    | some x, some v =>
      if (x.kind == 0) != vector then s
      else if s.nowhere y x c then s.abandon y v
      else if x.coresident then
        let vs := y.saved.filter fun w => w.stage == g
        match s.planFor y g x x.perdie (vs.map (·.crew)) with
        | some plan =>
          if plan.contains (c, u) then plan.foldl (fun t k => match vs.find? (·.crew == k.1) with
            | some w => t.restoreCrew y x w k.2
            | none => t) s
          else s
        | none => s
      else if s.unitFits y g x u then s.restoreCrew y x v u
      else s
    | _, _ => s

/-- CREW_RESTORE (R392). -/
def execCrewRestore (b g c u : Nat) (s : State) : Out := .next (s.restore true b g c u)

/-- INSTANCE_RESTORE (R397). -/
def execInstanceRestore (b g c u : Nat) (s : State) : Out := .next (s.restore false b g c u)

/-! ## Stages that can no longer start (R322) -/

/-- What is left to start of a stage that no die can take any more is given up, and its bundle records status 3 (R322, R396, log 107). -/
def State.giveUp (s : State) (b : Bundle) : State :=
  (List.range b.stages.length).foldl (fun t g =>
    match b.stages[g]?, b.desc.stages[g]? with
    | some st, some x =>
      if st.pending.isEmpty || !s.stageNeverFits b.part x then t
      else (t.changeBundle b.id fun y => { y with
        stages := updateAt (fun z => { z with pending := [], exited := z.exited + z.pending.length }) g y.stages }).recordStatus b.id 3
    | _, _ => t) s

/-! ## Kill requests (R396) -/

/-- KILL_REQUEST: the party exits at its stop, and its bundle records status 7. -/
def execKillRequest (p : Ident) (s : State) : Out :=
  match s.party p with
  | some q => if q.live == 0 then .next s else .next (s.focus p).killMe
  | none => .next s

end Sys2Proof.Machine
end

