-- ==== Sys2Proof/Machine/Power.lean ====
section
/-! DEFINITION. Frequency steps (R306-R308), the power and thermal limits (R420), power-gated cores (R294), and the failure of a die
(R295, R395). -/

namespace Sys2Proof.Machine

open Sys2Proof

/-! ## Relocks (R307) -/

/-- RELOCK_START: the relock begins at the first tick after the write, and lasts 2000 ticks. Its target is REQ as it then stands: R307 does not say
which REQ a step goes to when a vent core writes it again in the hold before the relock (log 109). -/
def execRelockStart (d : Fin 4) (s : State) : Out :=
  let x := s.die d
  if x.busy && x.relockEnd.isNone && decide (s.rtime.toNat > x.since) then
    .next (s.changeDie d fun y => { y with target := y.req, relockEnd := some (y.since + 2001) })
  else .next s

/-- RELOCK_END: CUR is the target; where REQ differs from it, a new relock begins on this tick. Jobs whose lines the relock kept from them take
them (R280, R308). -/
def execRelockEnd (d : Fin 4) (s : State) : Out :=
  match (s.die d).relockEnd with
  | some t =>
    if t ≤ s.rtime.toNat then
      .next (s.changeDie d fun y =>
        if y.req == y.target then { y with cur := y.target, busy := false, relockEnd := none, phase := 0 }
        else { y with cur := y.target, target := y.req, relockEnd := some (t + 2000) }).openJobs
    else .next s
  | none => .next s

/-! ## Limits (R420) -/

/-- POWER_LIMIT_CHECK: package power, averaged over the millisecond since the last check, is over PLIMIT, and die d draws most: its REQ falls by
one step. What the part draws is no state of the machine: the event is the vent cores' finding (log 96). -/
def execPowerLimitCheck (d : Fin 4) (s : State) : Out :=
  if s.rtime.toNat < s.start.powerAt + 1000000 then .next s
  else .next ({ s with start := { s.start with powerAt := s.rtime.toNat } }.changeDie d fun y =>
    if y.req == 0 then y else y.request s.rtime.toNat (y.req - 1))

/-- THERMAL_LIMIT: die d is over TLIMIT: REQ becomes 0. -/
def execThermalLimit (d : Fin 4) (s : State) : Out :=
  .next (s.changeDie d fun y => { y.request s.rtime.toNat 0 with hotAt := some s.rtime.toNat })

/-- THERMAL_RESTORE: die d, which was over TLIMIT, has stayed 5 °C below it for 10 ms: REQ becomes the step requested last by supervisor
code. -/
def execThermalRestore (d : Fin 4) (s : State) : Out :=
  match (s.die d).hotAt with
  | some t =>
    if s.rtime.toNat < t + 10000000 then .next s
    else .next (s.changeDie d fun y => { y.request s.rtime.toNat y.lastSup with hotAt := none })
  | none => .next s

/-! ## Core power (R294) -/

/-- Nothing stands on core c or is served by it, and its reorder checker is empty. -/
def State.coreIdle (s : State) (c : Nat) : Bool :=
  (s.core c).reorder.isEmpty && (s.core c).mqOwner.isNone && (s.crewsOn c).isEmpty &&
    (s.parties.all fun p => p.bundle == 0 || p.switchedOut || (p.core != c && p.clockUnit != c)) &&
    s.lines.all fun x => (x.2.pinned.isEmpty && !x.2.frozen) || !x.2.holders.any (·.unit == c)

/-- CORE_POWER_GATE: the copies of an idle core leave every directory with their close records, and it is gated. -/
def execCorePowerGate (c : Nat) (s : State) : Out :=
  if decide (c < 512) && !(s.core c).gated && s.coreIdle c then
    .next ((s.lines.foldl (fun t x => t.release c x.1 .close) s).changeCore c fun k => { k with gated := true })
  else .next s

/-- CORE_POWER_UP: the clock starts at the largest clock of the latest broadcast, plus 1. -/
def execCorePowerUp (c : Nat) (s : State) : Out :=
  if (s.core c).gated then
    let floor := match (List.finRange 4).find? fun p => s.parts[p].dies.getLsbD (c / 128) with
      | some p => s.parts[p].maxClock
      | none => 0
    .next ({ s with clocks := Tbl.set s.clocks c (floor + 1) }.changeCore c fun k => { k with gated := false })
  else .next s

/-! ## Die failure (R295, R395, R396) -/

/-- Parties that stand on die d are killed. -/
def State.killDie (s : State) (d : Nat) : State :=
  ((s.parties.filter fun p => p.bundle != 0 && p.die == d && !p.switchedOut && p.live != 0).map (·.ident)).foldl
    (fun t i => (t.focus i).killMe) s

/-- A unit of die d that holds lines. -/
def onDie (d u : Nat) : Bool := holderDie u == some d

/-- Lines homed on a failed die: M and O copies elsewhere are frozen, with what lies beneath them; S and E copies are dropped. -/
def Line.freeze (l : Line) (d : Nat) : Line :=
  let kept := l.holders.filter fun h => h.beneath.isNone && !onDie d h.unit && (h.st == .m || h.st == .o)
  let all := l.holders.filter fun h => kept.any fun k => k.unit == h.unit || h.beneath == some k.unit
  let own := l.holders.any fun h => onDie d h.unit && h.st.write
  { l with holders := all, frozen := !all.isEmpty, lost := if own then 1 else if all.isEmpty then 0 else 2 }

/-- The verdict on an interval whose holder is lost: no copy of it is verified (R295). -/
def State.lostVerdict (s : State) (n unit start : Nat) : Verdict :=
  { kind := 3, scope := 0, other := unit, detector := s.homeUnit (n * 128), time := start, only := none, found := s.rtime.toNat }

/-- The present interval of a line that a unit of die d held is faulty (R295). -/
def State.faultLost (s : State) (d n : Nat) (l : Line) : State :=
  let lost := (s.holdersOf n l l.holders []).filter fun h => onDie d h.unit
  match (lost.find? (·.st.write)).or lost.head? with
  | some h => State.faultFrom (s.uses.length + 1) s n l.kid l.interval l.interval (s.lostVerdict n h.unit h.start)
  | none => s

/-- A line that a unit of die d held and that is homed elsewhere is poisoned whole where the lost holder had PERM W, and keeps the value of
its home otherwise (R395). -/
def State.loseHolder (s : State) (d n : Nat) (l : Line) : State :=
  let lost := l.holders.filter fun h => onDie d h.unit
  if lost.isEmpty then s
  else
    let s1 := if lost.any (·.st.write) then s.markPoison (n * 128) 128 else s
    s1.newInterval n (l.holders.filter fun x => !onDie d x.unit && !(lost.any fun k => x.beneath == some k.unit)) plainClose

/-- What a die that no longer answers leaves behind: its parties are killed, every interval that its units held and that was not verified is
faulty, the lines it held elsewhere are lost with it, and neither its records nor those that its checkers would verify remain (R295, R395). -/
def State.loseDie (s : State) (d : Nat) : State :=
  let s1 := s.killDie d
  let gone (t : State) (n : Nat) : Bool := regionOf (n * 128) == .device && t.homeOfPa (n * 128) == d
  let late := s1.records.filter fun r => onDie d r.unit && r.kind != .opened
  let s2 := late.foldl (fun t r =>
    State.faultFrom (t.uses.length + 1) t r.line r.kid r.interval r.interval (t.lostVerdict r.line r.unit r.tstart)) s1
  let s3 := s2.lines.foldl (fun t (n, _) => t.faultLost d n (t.line n)) s2
  let s4 := s3.lines.foldl (fun t (n, _) => if gone t n then t else t.loseHolder d n (t.line n)) s3
  { s4 with records := s4.records.filter fun r => !onDie d r.unit && !gone s4 r.line }

/-- DIE_FAILURE (R395). -/
def execDieFailure (d : Fin 4) (s : State) : Out :=
  if (s.die d).failed then .next s
  else
    let s1 := (s.loseDie d).changeDie d fun y => { y with failed := true }
    let freeze (x : Nat × Line) : Nat × Line :=
      if regionOf (x.1 * 128) == .device && s1.homeOfPa (x.1 * 128) == d.val then (x.1, x.2.freeze d) else x
    let s2 := { s1 with lines := s1.lines.map freeze }
    .next (s2.bundles.foldl State.giveUp s2)

end Sys2Proof.Machine
end

