-- ==== Sys2Proof/Machine/HostPort.lean ====
section
/-! DEFINITION. What reaches device memory from outside: the host through its HDM ranges (R242, R291, R292, R369), peers through their
windows (R370, R371), soft errors (R378); and the store that reaches a control-store slot (R70, R71). -/

namespace Sys2Proof.Machine

open Sys2Proof

/-! ## The host (R291, R369) -/

/-- Bytes of device memory of one die. -/
def dieBytes : Nat := 0x2000000000

/-- Device address of an offset in a partition's HDM range, none past its end (R364, R369). -/
def State.hdm (s : State) (part : Fin 4) (off len : Nat) : Option Nat :=
  match diesOf s.parts[part].dies with
  | [] => none
  | m :: rest => if off + len ≤ dieBytes * (rest.length + 1) && decide (0 < len) then some (dieBytes * m + off) else none

/-- What a host access does to a half it touches (R291). -/
def hostHalfAfter (op : HostOp) (h : HostHalf) : HostHalf :=
  match op, h with
  | .read, .n => .hs
  | .read, h => h
  | .own, _ => .hm
  | .write, _ => .hm
  | .giveBack, _ => .n
  | .home, h => h

/-- The device copies that stay when the host's halves of a line go from one pair of states to another (R291). A half that becomes HS limits
them to S. A half that the host gives back was not in the copies while it was HM, and no copy had W over it while it was HS: those copies are
dropped, with what lies beneath them (log 85). -/
def holdersAfter (hs : List Holder) (a b : HostHalf × HostHalf) : List Holder :=
  let turns (f : HostHalf → HostHalf → Bool) : Bool := f a.1 b.1 || f a.2 b.2
  if turns fun x y => x == .hm && y == .n then []
  else if turns fun x y => x == .hs && y == .n then
    let writers := (hs.filter (·.st.write)).map (·.unit)
    hs.filter fun h => !h.st.write && h.beneath.all fun r => !writers.contains r
  else if turns fun x y => x != .hs && y == .hs then hs.map fun h => { h with st := .s }
  else hs

/-- A half of a line that the host holds HM is in no device copy (R291): where a copy has bytes of its own, these are not among them. -/
def State.excludeHalves (s : State) (n : Nat) : State :=
  let l := s.line n
  let value := s.keyedBytes l.kid (n * 128) 128
  let pick (h : HostHalf) (now own : List Byte) : List Byte := if h == .hm then now else own
  let keep (own : List Byte) : List Byte := pick l.lo (value.take 64) (own.take 64) ++ pick l.hi (value.drop 64) (own.drop 64)
  let only (h : Holder) : Holder := { h with own := h.own.bind fun b => if keep b == value then none else some (keep b) }
  if l.holders.any (·.own.isSome) then s.changeLine n fun x => { x with holders := x.holders.map only } else s

/-- One line of a host access: the bridge's request to the line's home, the chain of the host's key, the halves' states, and the bytes of a
write as the host's own change of a half it holds HM (R269, R291-R293). -/
def State.hostLine (s : State) (kid pa : Nat) (op : HostOp) (len : Nat) (data : List Byte) : State :=
  let n := pa / 128
  let s0 := ((s.tick bridgeUnit).message bridgeUnit (s.servingUnit pa)).chain n kid
  let l := s0.line n
  let lo := if pa % 128 < 64 then hostHalfAfter op l.lo else l.lo
  let hi := if pa % 128 + len > 64 then hostHalfAfter op l.hi else l.hi
  let s1 := if lo == l.lo && hi == l.hi then s0
    else s0.newIntervalAt n (holdersAfter l.holders (l.lo, l.hi) (lo, hi)) lo hi plainClose
  let s2 := match op with
    | .write => (s1.writeBytes kid pa data).noteWrite n
    | _ => s1
  s2.excludeHalves n

/-- Jobs an access from outside races with, each with the address on the raced line (R242). -/
def State.hostRaces (s : State) (write : Bool) (pa len : Nat) : List (Nat × Job) :=
  (linePieces (len / 128 + 2) pa len).filterMap fun r => (s.racedJob write r.1).map fun j => (r.1, j)

/-- The containment record of a footprint race by the host, which its bridge detects, at system scope (R242, R283, log 89). -/
def State.hostRaceRecord (s : State) (pa kid : Nat) (j : Job) : Vector DWord 4 :=
  #v[BitVec.ofNat 64 (pa / 128 * 2 ^ 19 + kid * 2 ^ 9 + Scope.code .sys * 2 ^ 6 + 4),
     BitVec.ofNat 64 ((s.line (pa / 128)).interval * 2 ^ 32 + j.unit * 2 ^ 12 + bridgeUnit),
     BitVec.ofNat 64 (s.clock bridgeUnit).toNat, s.rtime]

/-- The vent cores record a race of the host with a job for the job's bundle: the record of the first one, MULT for a further one, and
status 5 (R242, R283, R322). -/
def State.recordRace (s : State) (pa kid : Nat) (j : Job) : State :=
  (s.changeBundle j.bundle fun b =>
    { b with record := some (match b.record with
        | some r => r.set 0 (r[0] ||| 0x20)
        | none => s.hostRaceRecord pa kid j) }).recordStatus j.bundle 5

/-- An access from outside waits: for the job it races with, for a pinned line (R193, R242), or for a home in a relock (R308). -/
def State.hostWaits (s : State) (write : Bool) (pa len : Nat) : Bool :=
  !(s.hostRaces write pa len).isEmpty || (linePieces (len / 128 + 2) pa len).any fun r =>
    (write && !(s.line (r.1 / 128)).pinned.isEmpty) || (s.die (s.homeOfPa r.1)).busy

/-- Perform a host access whose bytes lie at a device address. -/
def State.hostPerform (s : State) (a : HostAccess) (pa : Nat) : State :=
  (linePieces (a.len / 128 + 2) pa a.len).foldl (fun t r =>
    if (t.die (t.homeOfPa r.1)).failed then t
    else t.hostLine t.parts[a.part].hostKid r.1 a.op r.2 ((a.data.drop (r.1 - pa)).take r.2)) s

/-- The host writes its own memory (R358): device copies of what it writes are gone (R292 checks none of it). -/
def State.hostOwnWrite (s : State) (a : HostAccess) : State :=
  let pa := 0x1000000000000 + a.off % 2 ^ 48
  (linePieces (a.data.length / 128 + 2) pa a.data.length).foldl (fun t r =>
    ((t.newInterval (r.1 / 128) [] plainClose).writeBytes 0 r.1 ((a.data.drop (r.1 - pa)).take r.2)).noteWrite (r.1 / 128)) s

/-- HOST_MEMORY_ACCESS: performed, or held while it would race with a job, whose bundle then ends with status 5 (R242, R291, R369). -/
def execHostMemoryAccess (a : HostAccess) (s : State) : Out :=
  if a.op == .home then .next (s.hostOwnWrite a)
  else
    let write := a.op != .read
    match s.hdm a.part a.off a.len with
    | none => .next s
    | some pa =>
      if s.hostWaits write pa a.len then
        if s.held.contains a then .next s
        else
          let s1 := (s.hostRaces write pa a.len).foldl (fun t r => t.recordRace r.1 t.parts[a.part].hostKid r.2) s
          .next { s1 with held := s1.held ++ [a] }
      else .next ({ s with held := eraseFirst (· == a) s.held }.hostPerform a pa)

/-! ## Peers (R370, R371) -/

/-- The window of a port that an access lies inside. -/
def PeerPort.covers (p : PeerPort) (write : Bool) (pa len : Nat) : Option PeerWindow :=
  p.windows.toList.findSome? fun w => w.bind fun x =>
    if decide (x.pa ≤ pa) && decide (pa + len ≤ x.pa + x.len) && (!write || x.write) then some x else none

/-- The window of a port that admits an access: none while its link is down (R370, R371). -/
def PeerPort.admits (p : PeerPort) (write : Bool) (pa len : Nat) : Option PeerWindow := if p.up then p.covers write pa len else none

/-- Bytes of a peer's access. -/
def peerBytes (a : PeerAccess) : Nat := if a.write then a.data.length else a.len

/-- Perform a peer's access at the home slices under a key, an interval of zero length of each line (R280, R371). -/
def State.peerPerform (s : State) (a : PeerAccess) (kid : Nat) : State :=
  (linePieces ((peerBytes a) / 128 + 2) a.pa (peerBytes a)).foldl (fun t r =>
    if (t.die (t.homeOfPa r.1)).failed then t
    else
      let put (u : State) : State :=
        if a.write then (u.writeBytes kid r.1 ((a.data.drop (r.1 - a.pa)).take r.2)).noteWrite (r.1 / 128) else u
      (t.atHome (t.servingUnit r.1) r.1 r.2 kid a.write false put).1) s

/-- PEER_INBOUND_ACCESS: an uncached access at the home slices under the window's key; outside every window it changes nothing. One that is
admitted waits for a pinned line, for a job whose footprint it touches, or for a home in a relock (R193, R308, log 68); it is performed even if
its link goes down meanwhile. -/
def execPeerInboundAccess (a : PeerAccess) (s : State) : Out :=
  let port := s.ports[a.port]
  match if s.heldPeers.contains a then port.covers a.write a.pa (peerBytes a) else port.admits a.write a.pa (peerBytes a) with
  | none => .next s
  | some w =>
    if s.hostWaits a.write a.pa (peerBytes a) then
      .next (if s.heldPeers.contains a then s else { s with heldPeers := s.heldPeers ++ [a] })
    else .next ({ s with heldPeers := eraseFirst (· == a) s.heldPeers }.peerPerform a w.kid)

/-- A port's link goes down or comes up (R370). -/
def State.setLink (s : State) (o : Fin 16) (up : Bool) : State :=
  { s with ports := s.ports.set o { s.ports[o] with up } }

/-- EWELOTH_LINK_DOWN (R370). -/
def execEwelothLinkDown (o : Fin 16) (s : State) : Out := .next (s.setLink o false)

/-- EWELOTH_LINK_UP (R370). -/
def execEwelothLinkUp (o : Fin 16) (s : State) : Out := .next (s.setLink o true)

/-! ## Soft errors (R27, R378) -/

/-- A bit of one unit's copy of a line is inverted. -/
def State.flipCopy (s : State) (unit n bit : Nat) : State :=
  let l := s.line n
  let value := s.keyedBytes l.kid (n * 128) 128
  let b := bit % 1024
  let flip (h : Holder) : Holder :=
    { h with own := some ((h.own.getD value).mapIdx fun i x => if i == b / 8 then x ^^^ (1#8 <<< (b % 8)) else x) }
  if l.holders.any (·.unit == unit) then
    s.changeLine n fun y => { y with holders := y.holders.map fun h => if h.unit == unit then flip h else h }
  else s

/-- A lane of an entry of a message queue is uncorrectable: it comes out poisoned (R128). -/
def Core.spoilMessage (c : Core) (q : Fin 4) (k : Nat) (lane : Fin 32) : Core :=
  let spoil (e : MqEntry) : MqEntry := { e with entry := { e.entry with poison := e.entry.poison ||| (1 <<< lane.val) } }
  { c with mq := c.mq.set q (updateAt spoil k c.mq[q]) }

/-- SOFT_ERROR: a copy's bit is inverted unseen, to be found by R275, or an element or a lane of a message is uncorrectable and poisoned
(R128, R378). -/
def execSoftError (e : SoftError) (s : State) : Out :=
  match e with
  | .copyBit unit line bit => .next (s.flipCopy unit line bit)
  | .element pa => .next (s.markPoison pa 1)
  | .message core q k lane => .next (s.changeCore core fun c => c.spoilMessage q k lane)

/-! ## The control store (R70, R71) -/

/-- CONTROL_STORE_WRITE: an outstanding supervisor store of v to offset o of core c's control store is performed; it waits while an
MCALL of the slot is executing. -/
def execControlStoreWrite (c o : Nat) (v : BitVec 32) (s : State) : Out :=
  if s.slotHeld c (o / 256) then .next s
  else
    let mine (e : Pend) : Bool := !e.performed && (match e.kind with | .store .. => true | _ => false) &&
      e.accs.any fun a => controlStoreAt a.pa == some (c, o) && a.data == bytesLE 4 v.toNat
    match s.parties.findSome? fun p => (p.pend.find? mine).map fun e => (p.ident, e.id) with
    | some (i, n) => .next ((s.perform i n false).dropFinished i n)
    | none => .next s

end Sys2Proof.Machine
end

