-- ==== Sys2Proof/Machine/Start.lean ====
section
/-! DEFINITION. Cold and warm starts, their steps and what they keep (R269, R395, R414-R418), and the loss of power. -/

namespace Sys2Proof.Machine

open Sys2Proof

/-! ## Work on the dies ends -/

/-- Accesses in flight of the parties on a set of dies complete (R395). -/
def State.drainDies (s : State) (m : BitVec 4) : State :=
  (s.parties.filter fun p => m.getLsbD p.die).foldl (fun t p => p.pend.foldl (fun u e => u.perform p.ident e.id true) t) s

/-- Bundles, gangs, jobs and crews of the partitions that a test names are gone, and no line is pinned by those jobs (R416). -/
def State.endWork (s : State) (pick : Fin 4 → Bool) : State :=
  let dead (b : Nat) : Bool := s.bundles.any fun x => x.id == b && pick x.part
  let ended := (s.jobs.filter fun j => dead j.bundle).map (·.id)
  let unpin (x : Nat × Line) : Nat × Line := (x.1, { x.2 with pinned := x.2.pinned.filter fun j => !ended.contains j })
  { s with
    me := if pick s.me.part then .vacant else s.me
    others := s.others.filter fun p => !pick p.part
    crews := s.crews.filter fun c => !dead c.bundle
    jobs := s.jobs.filter fun j => !dead j.bundle
    lines := s.lines.map unpin
    bundles := s.bundles.filter fun b => !pick b.part
    uses := s.uses.filter fun u => !pick u.part }

/-- A control block at a warm start (R416): commands not retired are dropped without a STATUS write. -/
def Qcb.warm (c : Qcb) : Qcb :=
  { c with enable := false, head := c.tail, qerr := 0, busy := false, cmd := [], watch := none, polled := 0, droppedSeqs := [],
           userSeqs := [] }

/-- Control blocks of the partitions started. -/
def State.warmQueues (s : State) (pick : Fin 4 → Bool) : State :=
  let f (x : Nat × Qcb) : Nat × Qcb := if pick x.2.part then (x.1, x.2.warm) else x
  { s with queues := s.queues.map f, vent := s.vent.filter fun e => !pick (s.queue e.queue).part }

/-! ## Layouts (R363) -/

/-- The die sets of R363, and the empty one. -/
def dieSet (m : BitVec 4) : Bool := m == 0 || m == 1 || m == 2 || m == 4 || m == 8 || m == 3 || m == 12 || m == 15

/-- A layout: legal die sets that hold every die once. -/
def layoutLegal (ms : List (BitVec 4)) : Bool :=
  ms.length == 4 && ms.all dieSet && (List.range 4).all fun d => (ms.filter fun m => m.getLsbD d).length == 1

/-! ## What the steps do (R414) -/

/-- A unit that holds lines stands on one of these dies. -/
def onDies (m : BitVec 4) (h : Holder) : Bool := (holderDie h.unit).any fun d => m.getLsbD d

/-- Step 0x01: lines of host memory that units of the dies hold are cleaned to the host, and the copies are gone (R395). -/
def State.hostClean (s : State) (m : BitVec 4) : State :=
  (s.lines.filter fun x => regionOf (x.1 * 128) != .device && x.2.holders.any (onDies m)).foldl (fun t (n, l) =>
    t.newIntervalAt n (l.holders.filter fun h => !onDies m h) l.lo l.hi plainClose) s

/-- Step 0x01: every line of the dies is cleaned to its home, and its interval closed (R395). A line that a failed die left behind is
poisoned, or holds older bytes (log 38). -/
def State.salvageClean (s : State) (m : BitVec 4) : State :=
  (s.lines.filter fun x => regionOf (x.1 * 128) == .device && m.getLsbD (s.homeOfPa (x.1 * 128))).foldl (fun t (n, l) =>
    let t1 := t.changeLine n fun y => { y with frozen := false, lost := 0, salvaged := [], pinned := [] }
    let t2 := if l.holders.isEmpty && l.lo == .n && l.hi == .n then t1 else t1.newIntervalAt n [] .n .n plainClose
    match l.lost with
    | 0 => t2
    | 1 => t2.markPoison (n * 128) 128
    | _ => { t2 with mem := memSets t2.mem (n * 128) ((rangeFrom (n * 128) 1 128).map (Config.lostByte t2.nextGen)),
                     nextGen := t2.nextGen + 1 }) s

/-- Step 0x01: copies that the dies hold of lines homed on a die that stays failed are gone with their caches (R395). -/
def State.dropFrozen (s : State) (m : BitVec 4) : State :=
  let drop (x : Nat × Line) : Nat × Line :=
    if regionOf (x.1 * 128) == .device && (s.die (s.homeOfPa (x.1 * 128))).failed && !m.getLsbD (s.homeOfPa (x.1 * 128)) then
      (x.1, { x.2 with holders := x.2.holders.filter fun h => !onDies m h, frozen := false, pinned := [] })
    else x
  { s with lines := s.lines.map drop }

/-- Partitions of a layout with fresh host KIDs (R363, R365, R369). -/
def State.coldParts (s : State) : State :=
  let dies (p : Nat) : BitVec 4 := s.start.layout.getD p 0
  let parts := Vector.ofFn fun (p : Fin 4) =>
    { dies := dies p.val, hostKid := 1 + p.val, chkmode := 0, chkhz := 0, maxClock := 0, serving := false : Partition }
  let kids := (List.finRange 4).filterMap fun (p : Fin 4) =>
    if dies p.val == 0 then none else some (1 + p.val, { part := some p, live := true, gen := s.nextGen + p.val : Kid })
  { s with parts, kids := (0, { part := none, live := true, gen := 0 }) :: kids, nextGen := s.nextGen + 4 }

/-- Step 0x05: the board record's initial index; the counters of the die start at 0 (R301, R304, R306, R418). -/
def State.applyBoard (s : State) (m : BitVec 4) : State :=
  { s with dies := Vector.ofFn fun (d : Fin 4) => if m.getLsbD d then .initial s.start.initidx[d] else s.dies[d] }

/-- Step 0x06: HBM is scrubbed: device memory reads zero, without poison, every line at interval 0 under key 0 (R414). -/
def State.scrub (s : State) : State :=
  { s with mem := s.mem.filter fun c => regionOf c.1 != .device
           poison := s.poison.filter fun e => regionOf (e * 4) != .device
           lines := [] }

/-- Step 0x07: directories, TLBs and control stores are empty, clocks and horizons 0 (R269, R414). What a fault left known of a line goes with the
line's own dies, or with the partition of its key where it is the host's. -/
def State.clearDies (s : State) (m : BitVec 4) (pick : Fin 4 → Bool) (whole : Bool) : State :=
  let unitGone (u : Nat) : Bool := whole || (unitDie u).any fun d => m.getLsbD d
  let keyed (k : Nat) : Bool := ((Tbl.get s.kids k).bind (·.part)).any pick
  let mine (n k : Nat) : Bool := if regionOf (n * 128) == .device then m.getLsbD (s.homeOfPa (n * 128)) else whole || keyed k
  { s with
    cores := s.cores.filter fun c => !m.getLsbD (c.1 / 128)
    clusters := s.clusters.filter fun c => !m.getLsbD (c.1 / 32)
    clocks := s.clocks.filter fun c => !unitGone c.1
    records := s.records.filter fun r => !mine r.line r.kid
    lines := s.lines.map fun (x : Nat × Line) => if mine x.1 x.2.kid then (x.1, { x.2 with faulty := [] }) else x
    parts := Vector.ofFn fun (p : Fin 4) =>
      if pick p then { s.parts[p] with chkmode := 0, chkhz := 0, maxClock := 0 } else s.parts[p]
    debug := Vector.ofFn fun (p : Fin 4) => if pick p then .initial else s.debug[p]
    trail := s.trail.filter fun r => !pick r.part
    ports := Vector.ofFn fun (o : Fin 16) =>
      if m.getLsbD (o.val / 4) then { s.ports[o] with windows := Vector.replicate 8 none } else s.ports[o] }

/-- Step 0x08: the vent cores serve the partitions' queues. -/
def State.serve (s : State) (pick : Fin 4 → Bool) : State :=
  { s with parts := Vector.ofFn fun (p : Fin 4) =>
      if pick p then { s.parts[p] with serving := s.parts[p].dies != 0 } else s.parts[p] }

/-! ## A start ends the work there was (R395, R416) -/

/-- A warm start of some dies begins. -/
def State.warmBegin (s : State) (m : BitVec 4) (pick : Fin 4 → Bool) (whole : Bool) : State :=
  let s0 := ((s.drainDies m).endWork pick).warmQueues pick
  { s0 with
    parts := Vector.ofFn fun (p : Fin 4) => if pick p then { s0.parts[p] with serving := false } else s0.parts[p]
    mailbox := if whole then { request := [], response := [], result := 0, busy := false, seq := 0, unmapping := none, latched := [] }
      else s0.mailbox
    security := if whole then { s0.security with leafNext := s0.security.leafEnd, response := none } else s0.security }

/-- A cold start begins: everything but memory, the host's side, the board's flash and what the steps build is gone. -/
def State.coldBegin (s : State) : State :=
  { State.reset with
    agenda := s.agenda, fresh := s.fresh, mem := s.mem, poison := s.poison, lines := s.lines, nextGen := s.nextGen
    nextJob := s.nextJob, nextBundle := s.nextBundle, dies := s.dies, cores := s.cores, clusters := s.clusters, clocks := s.clocks
    parts := s.parts.map fun p => { p with serving := false }
    kids := s.kids, debug := s.debug, trail := s.trail, ports := s.ports, firmware := s.firmware
    security := { s.security with leafNext := s.security.leafEnd, response := none }
    start := { s.start with powerAt := 0 } }

/-! ## The steps in turn (R414, R417) -/

/-- A start of this kind runs step k: a cold one has no salvage, a warm one no training and no scrub. -/
def Start.runs (x : Start) (k : Nat) : Bool := decide (1 ≤ k) && decide (k ≤ 8) && k != (if x.kind == 0 then 1 else 6)

/-- The dies that a start of this kind starts: all of the package's, or those of a partition that have not failed (R395, R415, log 96). -/
def State.started (s : State) : BitVec 4 :=
  (List.range 4).foldl (fun m d =>
    if s.start.mask.getLsbD d && (s.start.mask == 0xF || !(s.die d).failed) then m ||| BitVec.ofNat 4 (2 ^ d) else m) 0

/-- The partitions that the start in progress starts. -/
def State.starts (s : State) (p : Fin 4) : Bool := s.parts[p].dies &&& s.start.mask != 0 || s.start.mask == 0xF

/-- The board record keeps its limits (R418). -/
def Start.recordLegal (x : Start) : Bool :=
  x.signed && x.layout.length ≤ 4 && layoutLegal (x.layout ++ List.replicate (4 - x.layout.length) 0) && x.initidx.toList.all (· ≤ 11) &&
    decide (1000 ≤ x.plimit) && decide (x.plimit ≤ 8000) && decide (70 ≤ x.tlimit) && decide (x.tlimit ≤ 105)

/-- The reason for which step k finds the firmware image or the board record bad (R372, R417, R418). -/
def State.stepRefuses (s : State) (k : Nat) : Option Nat :=
  let i := s.security.image
  if k == 4 then
    if i.key != s.security.rootKey || !i.signed then some 3 else if i.version < s.security.minVersion then some 4 else none
  else if k == 5 && !s.start.recordLegal then some 5
  else none

/-- What the part itself may fail a step for: a rail, the PUF, HBM training, a unit (R394, R417). -/
def Start.mayFail (x : Start) (k r : Nat) : Bool :=
  x.runs k && ((k == 2 && r == 1) || (k == 3 && r == 2) || (k == 6 && r == 6) || ((k == 6 || k == 7) && r == 8))

/-- What a start does in its step k. -/
def State.stepEffect (s : State) (k : Nat) : State :=
  let m := s.started
  let whole := s.start.mask == 0xF
  match k with
  | 1 => ((s.hostClean m).salvageClean m).dropFrozen m
  | 4 => { s with security := { s.security with runVersion := s.security.image.version } }
  | 5 => if s.start.kind == 0 then s.coldParts.applyBoard m else s.applyBoard m
  | 6 => s.scrub
  | 7 => s.clearDies m s.starts whole
  | 8 => s.serve s.starts
  | _ => s

/-- A start fails at step k: it stops there, and nothing of it serves commands (R417). -/
def State.failStart (s : State) (k r : Nat) : State :=
  { s with start := { s.start with step := k, lastfail := k, reason := r, force := true, running := false } }

/-- The step in progress ends: it fails on what it checks, or has its effect, and the next one that this kind of start runs begins, or the start
has completed. -/
def State.endStep (s : State) : State :=
  let k := s.start.step
  match s.stepRefuses k with
  | some r => s.failStart k r
  | none =>
    let t := s.stepEffect k
    let next := if t.start.runs (k + 1) then k + 1 else k + 2
    if k < 8 then { t with start := { t.start with step := next } }
    else { t with start := { t.start with step := 0xFF, running := false, force := false } }

/-- A start in progress runs as far as an outcome says; `fuel` bounds the steps. -/
def State.runSteps (s : State) (e : StartEnd) : Nat → State
  | 0 => s
  | n + 1 =>
    if !s.start.running then s
    else match e with
      | .fails k r => if s.start.step == k && (s.stepRefuses k).isNone then s.failStart k r else s.endStep.runSteps e n
      | .stands k => if s.start.step == k then s else s.endStep.runSteps e n
      | .done => s.endStep.runSteps e n

/-- A start in progress goes on by itself: with each passing of time its step may end, or fail for what the part itself may fail it for (R414, log
96). -/
def State.goStart (s : State) : State :=
  if !s.start.running || !Config.freeBit [8, s.fresh] then s
  else
    let k := s.start.step
    let bad := [1, 2, 6, 8].filter fun r => s.start.mayFail k r && Config.freeBit [9, s.fresh, r]
    match bad with
    | r :: _ => if (s.stepRefuses k).isNone then s.failStart k r else s.endStep
    | [] => s.endStep

/-! ## Start requests (R415, R417) -/

/-- A start request: one that arrives during a start interrupts it, which fails with reason 7 at its step, and runs cold; so does one
under FORCE (R417). -/
def State.beginStart (s : State) (warm : Bool) (m : BitVec 4) : State :=
  let x := s.start
  let y : Start := if x.running then { x with lastfail := x.step, reason := 7, force := true, running := false } else x
  let cold := !warm || y.force
  let s1 := { s with start := { y with kind := if cold then 0 else 1, running := true, mask := if cold then 0xF else m
                                       step := if cold then 2 else 1 } }
  if cold then s1.coldBegin else s1.warmBegin s1.started s1.starts (m == 0xF)

/-- An outcome that a start of this kind can have: it stands at a step it runs, or fails for what the part itself may fail it for. -/
def Start.outcome (x : Start) : StartEnd → Bool
  | .done => true
  | .fails k r => x.mayFail k r
  | .stands k => x.runs k

/-- Run a start of a die mask, cold for the whole package or warm, as far as an outcome says; one it cannot have is no start. -/
def State.runStart (s : State) (warm : Bool) (m : BitVec 4) (e : StartEnd) : State :=
  let t := s.beginStart warm m
  if t.start.outcome e then t.runSteps e 9 else s

/-- COLD_START (R415): power-on or a fundamental reset; it sets RTIME to 0 (R303). -/
def execColdStart (e : StartEnd) (s : State) : Out := .next (s.runStart false 0xF e)

/-- WARM_START_PACKAGE (R417). -/
def execWarmStartPackage (e : StartEnd) (s : State) : Out := .next (s.runStart true 0xF e)

/-- WARM_START_PARTITION: a mask that is not a partition's die set is ignored (R417). -/
def execWarmStartPartition (m : BitVec 4) (e : StartEnd) (s : State) : Out :=
  if m != 0 && (s.parts.toList.any fun p => p.dies == m) then .next (s.runStart true m e) else .next s

/-- POWER_LOSS: all work ends; of START only FORCE and LASTFAIL stay, in board flash (R417). What HBM held is gone with the power, and no
party can read it before the scrub of the next cold start. -/
def execPowerLoss (s : State) : Out :=
  let x := s.start
  let y : Start := { x with reason := 0, step := 0, kind := 0, running := false }
  .next { ((s.coldBegin.clearDies 0xF (fun _ => true) true).coldParts.applyBoard 0xF).scrub with start := y }

end Sys2Proof.Machine
end

