-- ==== Sys2Proof/Machine/Admin.lean ====
section
/-! DEFINITION. The admin mailbox: address spaces and mappings (R352-R358, R361, R362), keys (R365, R367), partitions (R363, R364), peer
windows (R371), DVFSSET and SVNSET (R361, R372), and what a request held in the mailbox asks for (R360). -/

namespace Sys2Proof.Machine

open Sys2Proof

/-! ## Results (R360, R361) -/

/-- A request is complete: RESULT, the response, and SEQ. -/
def State.answer (s : State) (result : Nat) (response : List DWord) : State :=
  { s with mailbox := { s.mailbox with result, response, busy := false, seq := s.mailbox.seq + 1, unmapping := none } }

/-- Number of 8-byte words of each operation's arguments. -/
def adminArgs (op : Nat) : Option Nat :=
  match op with
  | 1 => some 1 | 2 => some 1 | 3 => some 4 | 4 => some 3 | 5 => some 1 | 6 => some 1 | 7 => some 5 | 8 => some 5 | 9 => some 2
  | 10 => some 2 | 11 => some 1 | _ => none

/-- PARTSET's arguments: the die masks of partitions 0-3 in bytes 0-3 of the first word, then four words of host KIDs (log 44). -/
def partsetArgs (ws : List Nat) : List (BitVec 4) × List Nat :=
  ((List.range 4).map fun i => BitVec.ofNat 4 (natBits (ws.getD 0 0) (8 * i + 7) (8 * i)), (List.range 4).map fun i => ws.getD (1 + i) 0)

/-- The operation that a request of 64 bytes asks for: none for a malformed one. -/
def adminRequest (bs : List Byte) : Option Instr :=
  let w (i : Nat) : Nat := field64 bs (8 * i)
  let op := w 0 % 256
  match adminArgs op with
  | none => none
  | some n =>
    if w 0 / 256 != 0 || (rangeFrom (n + 1) 1 (7 - n)).any fun i => w i != 0 then none
    else match op with
      | 1 => some (.ascreate (w 1))
      | 2 => some (.asdestroy (w 1))
      | 3 => some (.map (w 1) (w 2) (BitVec.ofNat 64 (w 3)) (w 4))
      | 4 => some (.unmap (w 1) (w 2) (w 3))
      | 5 => some (.keynew (w 1))
      | 6 => some (.keyretire (w 1))
      | 7 =>
        let a := partsetArgs ((List.range 5).map fun i => w (i + 1))
        if (List.range 8).any fun i => natBits (w 1) (8 * i + 7) (8 * i) > (if i < 4 then 15 else 0) then none else some (.partset a.1 a.2)
      | 8 => if w 5 > 1 then none else some (.peeropen (w 1) (w 2) (w 3) (w 4) (w 5 == 1))
      | 9 => some (.peerclose (w 1) (w 2))
      | 10 => some (.dvfsset (w 1) (w 2))
      | 11 => some (.svnset (w 1))
      | _ => none

/-- Requests are served one at a time, in the order of their GO: none while an UNMAP or another request is on its way, or before a start
has completed (R360, R414). -/
def State.adminFree (s : State) (i : Instr) : Bool :=
  s.mailbox.unmapping.isNone && s.parts.toList.any (·.serving) && (!s.mailbox.busy || adminRequest s.mailbox.latched == some i)

/-- Serve a request: a result other than 0 changes nothing but the answer. -/
def State.admin (s : State) (i : Instr) (r : Except Nat (State × List DWord)) : Out :=
  if !s.adminFree i then .next s
  else match r with
    | .ok (t, resp) => .next (t.answer 0 resp)
    | .error k => .next (s.answer k [])

/-- Refuse with a result unless a condition holds. -/
def need (c : Bool) (result : Nat) : Except Nat Unit := if c then pure () else throw result

/-- One of some free numbers, as the firmware chooses (log 36). -/
def State.pickFree (s : State) (free : List Nat) : Option Nat := free[Config.pick s.fresh % Nat.max 1 free.length]?

/-- A partition number. -/
def partNo (t : Nat) : Except Nat (Fin 4) := if h : t < 4 then pure ⟨t, h⟩ else throw 1

/-! ## Address spaces -/

/-- The n-th page of a partition's first die that is not the firmware's, counted round (R352). -/
def State.pageOf (s : State) (p : Fin 4) (n : Nat) : Nat :=
  let d := (diesOf s.parts[p].dies).headD 0
  let (base, count) := (s.firmware[d]?).getD (0, 0)
  let k := d * 0x2000000 + n % (0x2000000 - count)
  if k < base then k else k + count

/-- The leaf of the supervisor code, G = 1 and U = 0, executable and readable, under the host KID as R369 pairs it (R361, R365, R382, log 37). -/
def State.supervisorLeaf (s : State) (p : Fin 4) : BitVec 64 :=
  BitVec.ofNat 64 (s.parts[p].hostKid * 2 ^ 54 + s.pageOf p (Config.supervisorPage p) * 4096) ||| 0x32B

/-- First VA of the supervisor code (R382). -/
def supervisorVa : Nat := 0xF000000000000

/-- Pages that hold the tables of the address spaces: the roots, and what their non-leaf entries name. `fuel` is the table's level plus 1. -/
def State.tablesUnder (s : State) : Nat → Nat → List Nat
  | _, 0 => []
  | t, k + 1 =>
    t / 4096 :: (s.tableEntries t (tableSize k)).flatMap fun (_, e) =>
      if malformed e k || pteLeaf e then [] else s.tablesUnder (ptePa e) k

/-- Every page of the firmware's region that is in use. -/
def State.tablePages (s : State) : List Nat := s.spaces.flatMap fun x => s.tablesUnder x.2.root 5

/-- The first page at or after page k of a region, counted round, that is not in use; `fuel` bounds the pages tried. -/
def freeFrom (used : List Nat) (base count : Nat) : Nat → Nat → Option Nat
  | _, 0 => none
  | k, n + 1 => let page := base + k % Nat.max 1 count
    if used.contains page then freeFrom used base count (k + 1) n else some page

/-- A free page for a table in the region of the partition's first die, as the firmware chooses (R352, log 9, 36). -/
def State.freePage (s : State) (p : Fin 4) : Option Nat :=
  let (base, count) := (s.firmware[(diesOf s.parts[p].dies).headD 0]?).getD (0, 0)
  let used := s.tablePages
  freeFrom used base count (Config.pick s.fresh) (Nat.min count (used.length + 1))

/-- A new table of zeros, written by a vent core (R272). -/
def State.newTable (s : State) (p : Fin 4) : Option (State × Nat) :=
  (s.freePage p).map fun n =>
    ({ (rangeFrom (n * 4096) 8 512).foldl (fun t pa => t.tableWrite pa fun _ => 0) s with fresh := s.fresh + 1 }, n * 4096)

/-- Write a leaf at a level, with the tables above it, from the table at t on; `fuel` is the table's level plus 1 (R353, R354). None where no page
is free for a table. -/
def State.putLeaf (s : State) (p : Fin 4) (level va : Nat) (e : BitVec 64) : Nat → Nat → Option State
  | _, 0 => none
  | t, k + 1 =>
    let pa := entryPa t k va
    if k == level then some (s.tableWrite pa fun _ => e)
    else
      let old := s.entryAt pa
      if pteBit old 0 then s.tableRead pa |>.putLeaf p level va e (ptePa old) k
      else match s.newTable p with
        | none => none
        | some (t1, next) => (t1.tableWrite pa fun _ => BitVec.ofNat 64 (next + 1)).putLeaf p level va e next k

/-- An address space with no entries, and its record. -/
def State.newSpace (s : State) (a : Nat) (p : Fin 4) : Option State :=
  (s.newTable p).map fun (t, root) => { t with spaces := Tbl.set t.spaces a { part := p, root } }

/-- ASCREATE: a free ASID with an address space of a partition, in which the firmware maps the supervisor code (R352, R361). A partition without
dies has no memory to hold a table, and gets none (log 43). -/
def execAscreate (t : Nat) (s : State) : Out :=
  s.admin (.ascreate t) do
    let p ← partNo t
    need (s.parts[p].dies != 0) 1
    match s.pickFree ((List.range 1024).filter fun a => (Tbl.get s.spaces a).isNone) with
    | none => throw 3
    | some a =>
      match { s with fresh := s.fresh + 1 }.newSpace a p with
      | none => throw 3
      | some u => match u.putLeaf p 0 supervisorVa (s.supervisorLeaf p) ((Tbl.get u.spaces a).elim 0 (·.root)) 5 with
        | none => throw 3
        | some v => pure (v, [BitVec.ofNat 64 a])

/-- An ASID is named by a queue that is enabled or set up, or by a running bundle (R361). -/
def State.asidUsed (s : State) (a : Nat) : Bool :=
  (s.queues.any fun q => q.2.asid == a && (q.2.enable || q.2.head != q.2.tail)) || s.bundles.any fun b => b.asid == a

/-- ASDESTROY (R361). -/
def execAsdestroy (a : Nat) (s : State) : Out :=
  s.admin (.asdestroy a) do
    need (Tbl.get s.spaces a).isSome 2
    need (!s.asidUsed a) 5
    pure ({ s with spaces := Tbl.erase s.spaces a }.dropTlb fun t => t.asid == a, [])

/-! ## MAP (R355, R358, R361, R362, R364, R369) -/

/-- A KID of a partition. -/
def State.ownsKid (s : State) (p : Fin 4) (k : Nat) : Bool := (Tbl.get s.kids k).any fun x => x.live && x.part == some p

/-- A leaf names a page that the firmware keeps for itself (R352). -/
def State.mapsFirmware (s : State) (level : Nat) (e : BitVec 64) : Bool :=
  regionOf (ptePa e) == .device && s.firmware.toList.any fun r => overlaps (ptePa e) (2 ^ leafShift level) (r.1 * 4096) (r.2 * 4096)

/-- Combinations that MAP refuses with result 4; among them is a leaf of the firmware's region, which no leaf may map (R352, log 9). -/
def State.mapAllowed (s : State) (p : Fin 4) (va level : Nat) (e : BitVec 64) : Bool :=
  let pa := ptePa e
  let dev := regionOf pa == .device
  let host := pteKid e == s.parts[p].hostKid
  !malformed e level && regionAllows s.parts[p].dies level e && !s.mapsFirmware level e && !(va / 2 ^ 48 == 0xF && pteBit e 4) &&
    (!dev || (if pteMt e == 3 then host else !host || pteMt e == 1))

/-- Home die of page n under a leaf. -/
def State.leafHome (s : State) (p : Fin 4) (e : BitVec 64) (n : Nat) : Nat :=
  if ptePl e == 1 then pteHd e else interleavedHome s.parts[p].dies (n * 4096)

/-- A leaf of the partition that shares a page of device memory with a new leaf and gives it another home (R299). -/
def State.homeConflict (s : State) (p : Fin 4) (level : Nat) (e : BitVec 64) : Bool :=
  s.leaves.any fun x =>
    let (_, l, _, f) := x
    let lo := Nat.max (ptePa e) (ptePa f)
    let hi := Nat.min (ptePa e + 2 ^ leafShift level) (ptePa f + 2 ^ leafShift l)
    regionOf (ptePa f) == .device && decide (lo < hi) && (ptePl e != ptePl f || (ptePl e == 1 && pteHd e != pteHd f)) &&
      (rangeFrom (lo / 4096) 1 ((hi - lo) / 4096)).any fun n => s.leafHome p e n != s.leafHome p f n

/-- Pages homed on a die once a new leaf is mapped, and those that CLAIMs have reserved there (R258, R299, R302). -/
def State.pagesAfter (s : State) (p : Fin 4) (level : Nat) (e : BitVec 64) (die : Nat) : Nat :=
  let old := s.homedPages
  let new := (leafPages level e).filter fun n => !(old.any fun x => x.1 == n)
  let there := (old.filter fun x => x.2 == die).map (·.1) ++ new.filter fun n => s.leafHome p e n == die
  there.length + ((s.reservedPages die).filter fun n => !there.contains n).length

/-- The VA range of a new leaf meets a leaf above it, or an entry at its own level (R361). -/
def State.mapOverlaps (s : State) (asid level va : Nat) : Bool :=
  let path := s.walkPath asid va
  (s.walk asid va).isOk && decide (path.length ≤ 5 - level) || match path[4 - level]? with
    | some pa => pteBit (s.entryAt pa) 0
    | none => false

/-- Parties of an address space held by XLAT or PERM are retried (R362, R381). -/
def State.wakeReplay (s : State) (a : Nat) : State :=
  let f (p : Party) : Party :=
    if p.asid == a && (p.replayable || p.port.retries || p.mate.retries) then { p with remapped := true } else p
  { s with me := f s.me, others := s.others.map f }

/-- MAP (R361, R362). -/
def execMap (a va : Nat) (e : BitVec 64) (lv : Nat) (s : State) : Out :=
  s.admin (.map a va e lv) do
    need (decide (lv ≤ 3) && decide (va < 2 ^ 52) && va % 2 ^ leafShift lv == 0 && pteBit e 0 && pteLeaf e && !pteBit e 6 &&
      !pteBit e 7) 1
    match Tbl.get s.spaces a with
    | none => throw 2
    | some sp =>
      need (s.ownsKid sp.part (pteKid e)) 2
      need (s.mapAllowed sp.part va lv e) 4
      need (!s.homeConflict sp.part lv e) 4
      need (!s.mapOverlaps a lv va) 6
      need ((List.range 4).all fun d => decide (s.pagesAfter sp.part lv e d ≤ diePages)) 3
      match s.putLeaf sp.part lv va e sp.root 5 with
      | none => throw 3
      | some t => pure (t.wakeReplay a, [])

/-! ## UNMAP (R362) -/

/-- A CLAIM that has passed its checks has still to move a leaf of these pages (R258). -/
def State.claimPending (s : State) (pa size : Nat) : Bool :=
  s.parties.any fun q => q.pend.any fun e => match e.kind with
    | .claim leaves .. => leaves.any fun va => match s.walk q.asid va with
      | .ok (level, x) => overlaps (ptePa x) (2 ^ leafShift level) pa size
      | .error _ => false
    | _ => false

/-- The mailbox holds on to a request until it can complete. -/
def State.awaitRequest (s : State) (words : List Nat) : State :=
  { s with mailbox := { s.mailbox with busy := true, latched := (words ++ List.replicate (8 - words.length) 0).flatMap le8 } }

/-- The leaf that stands at a level for a VA, with the PA of its entry. -/
def State.leafAt (s : State) (a va lv : Nat) : Option (Nat × BitVec 64) :=
  match s.slotOf a lv va with
  | some pa => let e := s.entryAt pa
    if pteBit e 0 && pteLeaf e && !malformed e lv && va % 2 ^ leafShift lv == 0 then some (pa, e) else none
  | none => none

/-- UNMAP: the leaf is removed and leaves every TLB of the partition; the request completes later. A leaf that a CLAIM has still to move is
removed once it has moved (R258). -/
def execUnmap (a va lv : Nat) (s : State) : Out :=
  if !s.adminFree (.unmap a va lv) then .next s
  else match Tbl.get s.spaces a with
    | none => .next (s.answer (if lv ≤ 3 && va < 2 ^ 52 then 2 else 1) [])
    | some sp =>
      if lv > 3 || va ≥ 2 ^ 52 then .next (s.answer 1 [])
      else match s.leafAt a va lv with
        | none => .next (s.answer 7 [0, 0])
        | some (pa, e) =>
          if s.claimPending (ptePa e) (2 ^ leafShift lv) then .next (s.awaitRequest [4, a, va, lv])
          else
            let hit (t : TlbEntry) : Bool :=
              t.part == sp.part && t.level == lv && t.vpn == va / 2 ^ leafShift lv && t.pte &&& ~~~0xC0 == e &&& ~~~0xC0
            let s1 := s.tableWrite pa fun _ => 0
            .next ({ s1 with mailbox := { s1.mailbox with busy := true, unmapping := some (a, va, lv, e) } }.dropTlb hit)

/-- Nothing holds a translation through the removed leaf: outstanding accesses and engine jobs have ended (R192, R362). -/
def State.unmapDrained (s : State) (a va lv : Nat) (e : BitVec 64) : Bool :=
  let size := 2 ^ leafShift lv
  (s.parties.all fun p => p.pend.all fun x => x.performed || x.accs.all fun c =>
    !(p.asid == a || pteBit e 5) || !(decide (va ≤ c.va) && decide (c.va < va + size))) &&
  s.jobs.all fun j => j.complete || (j.reads ++ j.writes).all fun x => !overlaps x.pa x.len (ptePa e) size

/-- UNMAP_COMPLETE (R362): the response holds A and D of the removed leaf (log 42). -/
def execUnmapComplete (a va lv : Nat) (s : State) : Out :=
  match s.mailbox.unmapping with
  | some (a1, va1, lv1, e) =>
    if a1 == a && va1 == va && lv1 == lv && s.unmapDrained a va lv e then
      .next (s.answer 0 [BitVec.ofNat 64 (natBits e.toNat 6 6), BitVec.ofNat 64 (natBits e.toNat 7 7)])
    else .next s
  | none => .next s

/-! ## Keys (R365-R367) -/

/-- KEYNEW: a free KID with new material. -/
def execKeynew (t : Nat) (s : State) : Out :=
  s.admin (.keynew t) do
    let p ← partNo t
    match s.pickFree ((List.range 1024).filter fun k => k != 0 && (Tbl.get s.kids k).isNone) with
    | none => throw 3
    | some k =>
      pure ({ s with kids := Tbl.set s.kids k { part := some p, live := true, gen := s.nextGen }, nextGen := s.nextGen + 1,
                     fresh := s.fresh + 1 }, [BitVec.ofNat 64 k])

/-- A KID that names no key: the chain of a line whose key is retired (R293). -/
def noKid : Nat := 1024

/-- Clean and invalidate a line tagged with a retired key, and close its chain with the controller's record (R293, R367). -/
def State.retireLine (s : State) (n : Nat) : State := s.startChain n noKid

/-- KEYRETIRE (R367). -/
def execKeyretire (k : Nat) (s : State) : Out :=
  s.admin (.keyretire k) do
    need (k != 0 && (Tbl.get s.kids k).any (·.live)) 2
    need (!(s.leaves.any fun x => pteKid x.2.2.2 == k) && s.parts.toList.all fun p => p.dies == 0 || p.hostKid != k) 5
    let lines := s.lines.filter fun x => x.2.kid == k && regionOf (x.1 * 128) == .device
    pure ({ lines.foldl (fun t x => t.retireLine x.1) s with kids := Tbl.erase s.kids k }, [])

/-! ## Partitions (R363) -/

/-- Dies that a new layout moves to another partition. -/
def State.movedDies (s : State) (ms : List (BitVec 4)) : List Nat :=
  (List.range 4).filter fun d => (List.finRange 4).any fun p => s.parts[p].dies.getLsbD d != (ms.getD p.val 0).getLsbD d

/-- PARTSET: the layout and the host KIDs; every partition whose die set changes is reset (R363, R369). -/
def execPartset (ms : List (BitVec 4)) (ks : List Nat) (s : State) : Out :=
  s.admin (.partset ms ks) do
    need (layoutLegal ms && ks.length == 4) 1
    need ((List.finRange 4).all fun p => ms.getD p.val 0 == 0 || s.ownsKid p (ks.getD p.val 0)) 2
    let moved := s.movedDies ms
    let onMoved (p : Fin 4) : Bool := moved.any fun d => s.parts[p].dies.getLsbD d
    need (!(s.bundles.any fun b => onMoved b.part)) 5
    let changed (p : Fin 4) : Bool := s.parts[p].dies != ms.getD p.val 0
    let mask : BitVec 4 := (List.finRange 4).foldl (fun m p => if changed p then m ||| s.parts[p].dies ||| ms.getD p.val 0 else m) 0
    let s0 := s.warmBegin mask changed false
    let s1 := ((((s0.hostClean mask).salvageClean mask).applyBoard mask).clearDies mask changed false)
    let s2 : State := { s1 with parts := Vector.ofFn fun (p : Fin 4) =>
      { s1.parts[p] with dies := ms.getD p.val 0, hostKid := ks.getD p.val 0 } }
    pure (s2.serve changed, [])

/-! ## Peer windows (R371) -/

/-- PEEROPEN (R371). -/
def execPeeropen (o pa len k : Nat) (rw : Bool) (s : State) : Out :=
  s.admin (.peeropen o pa len k rw) do
    need (decide (o < 16) && decide (0 < len)) 1
    match (List.finRange 4).find? fun p => s.parts[p].dies.getLsbD (o / 4) with
    | none => throw 2
    | some p =>
      need (s.ownsKid p k) 2
      need (regionOf pa == .device && s.partOfPa pa == some p && s.partOfPa (pa + len - 1) == some p) 4
      match s.ports[o]? with
      | none => throw 1
      | some x =>
        match s.pickFree ((List.range 8).filter fun n => (x.windows[n]?.getD none).isNone) with
        | none => throw 3
        | some n =>
          let y : PeerPort := { x with windows := x.windows.setIfInBounds n (some { pa, len, kid := k, write := rw }) }
          pure ({ s with ports := s.ports.setIfInBounds o y, fresh := s.fresh + 1 }, [BitVec.ofNat 64 n])

/-- Inbound accesses that a window admitted have still to be performed. -/
def State.peersWait (s : State) (o n : Nat) : Bool :=
  match (s.ports[o]?).bind fun x => x.windows[n]?.getD none with
  | some w => s.heldPeers.any fun a => a.port.val == o && s.ports[a.port].covers a.write a.pa (peerBytes a) == some w
  | none => false

/-- PEERCLOSE: it completes when inbound accesses admitted through the window have been performed (R371). -/
def execPeerclose (o n : Nat) (s : State) : Out :=
  if s.adminFree (.peerclose o n) && s.peersWait o n then .next (s.awaitRequest [9, o, n])
  else s.admin (.peerclose o n) do
    match s.ports[o]? with
    | none => throw 1
    | some x =>
      need (decide (n < 8)) 1
      need ((x.windows[n]?.getD none).isSome) 2
      pure ({ s with ports := s.ports.setIfInBounds o { x with windows := x.windows.setIfInBounds n none } }, [])

/-! ## DVFSSET and SVNSET (R361) -/

/-- DVFSSET. -/
def execDvfsset (d x : Nat) (s : State) : Out :=
  s.admin (.dvfsset d x) do
    need (decide (d < 4) && decide (x ≤ 11)) 1
    pure (s.changeDie d fun y => y.request s.rtime.toNat x, [])

/-- SVNSET (R361, R372). -/
def execSvnset (v : Nat) (s : State) : Out :=
  s.admin (.svnset v) do
    need (v == s.security.runVersion && decide (v ≥ s.security.minVersion)) 4
    pure ({ s with security := { s.security with minVersion := v } }, [BitVec.ofNat 64 v])

end Sys2Proof.Machine
end

