-- ==== Sys2Proof/Machine/Debug.lean ====
section
/-! DEFINITION. The debug window (R400, R405, R407, R409, R410) and the BAR0 registers as the host writes and reads them (R5, R6, R318, R360,
R400, R417). -/

namespace Sys2Proof.Machine

open Sys2Proof

/-! ## Halt, resume, dump (R410) -/

/-- The parties a debug request acts on: the target, or every gang of its crew. -/
def State.targets (s : State) (t : Fin 4) (crew : Bool) : List Party :=
  match s.party s.debug[t].tgt with
  | some p =>
    if p.part != t || p.bundle == 0 then []
    else if crew then s.parties.filter fun q => q.bundle == p.bundle && q.stage == p.stage && q.crew == p.crew && q.role == p.role
    else [p]
  | none => []

/-- RESULT of a request. A request is over within the step that makes it, so that BUSY is never seen set (DESIGN CHOICE, log 97). -/
def State.debugResult (s : State) (t : Fin 4) (r : Nat) : State := s.changeDebug t fun d => { d with result := r }

/-- HALT a target, or its crew. -/
def State.requestHalt (s : State) (t : Fin 4) (c : Bool) : State :=
  match s.targets t c with
  | [] => s.debugResult t 1
  | ps => (ps.foldl (fun u p => u.raiseAsync p.ident .halt) s).debugResult t 0

/-- A resumed party: HALT is cleared; a thread goes on with its clause without checking its waits again (R380, R386). -/
def Party.resumedFrom (p : Party) : Party :=
  { p with cause := p.cause &&& ~~~Cause.mask .halt, halted := false
           port := { p.port with started := p.port.started || (p.isThread && p.port.held) } }

/-- Resume one party. One that was halted takes what is pending where it stands, XLAT and PERM by the replay path, and where nothing is, its
ports go on: a handler, or the word of a wait that the halt stopped (R255, R380, R384, R387). An EVENT record says so (R406). -/
def State.resumeParty (s : State) (i : Ident) : State :=
  match s.party i with
  | none => s
  | some p =>
    if p.halted then
      let u := (s.focus i).traceEvent 4 0
      (u.setMe u.me.resumedFrom).deliver
    else s.changeParty i (·.resumedFrom)

/-- RESUME a target, or its crew (R410). -/
def State.requestResume (s : State) (t : Fin 4) (c : Bool) : State :=
  match s.targets t c with
  | [] => s.debugResult t 1
  | ps => (ps.foldl (fun u p => u.resumeParty p.ident) s).debugResult t 0

/-- Bits of a list as a number, the first lowest. -/
def bitsToNat (bs : List Bool) : Nat := bs.foldr (fun b n => b.toNat + 2 * n) 0

/-- The PC of lane l as a dump shows it: of a thread inside a clause, the offset of its next word (R380, R410). -/
def Party.shownPc (p : Party) (l : Fin 32) : Word := if p.isThread && p.port.lanes.has l && p.port.held then p.port.stopOffset else p.pcv[l]

/-- Lane l's 640 bytes of a dump (R410). -/
def Party.dumpLane (p : Party) (l : Fin 32) : List Byte :=
  let stack := p.rstack[l]
  let preds := bitsToNat ((List.finRange 7).map fun k => (p.preds[k]).has l)
  let regs := (List.finRange 116).map fun v => p.vregs[v]
  bytesLE 4 (p.shownPc l).toNat ++ bytesLE 4 p.rsdepth[l].toNat ++ bytesLE 8 p.rsp[l].toNat ++
    ((List.range 4).flatMap fun k => bytesLE 4 ((stack[k]?).getD 0).toNat) ++ bytesLE 16 preds ++
    (regs.flatMap fun r => bytesLE 4 ((r.getD .zero).val[l]).toNat) ++
    bytesLE 16 (bitsToNat (regs.map fun r => ((r.getD .zero).poison).has l)) ++ List.replicate 112 0

/-- The 20 992 bytes of a dump (R410). -/
def Party.dump (p : Party) : List Byte :=
  ((List.finRange 32).flatMap p.dumpLane) ++
    ((List.finRange 56).flatMap fun k => bytesLE 8 (p.sregs[k]).val.toNat) ++
    bytesLE 8 (bitsToNat ((List.finRange 56).map fun k => (p.sregs[k]).poison)) ++
    bytesLE 4 p.cause.toNat ++ bytesLE 4 p.flags.toNat ++ bytesLE 4 p.causem.toNat ++ bytesLE 4 p.wdogv.toNat ++
    bytesLE 8 p.tdead.toNat ++ bytesLE 8 p.grun.toNat ++
    bytesLE 16 (bitsToNat ((List.finRange 116).map fun v => (p.vregs[v]).isSome)) ++ List.replicate 8 0

/-- Store bytes at their homes under the partition's host KID (R405, R410). -/
def State.hostKidWrite (s : State) (t : Fin 4) (pa : Nat) (bs : List Byte) : State :=
  let kid := s.parts[t].hostKid
  (linePieces (bs.length / 128 + 2) pa bs.length).foldl (fun u r =>
    (u.atHome (u.servingUnit r.1) r.1 r.2 kid true false fun v =>
      (v.writeBytes kid r.1 ((bs.drop (r.1 - pa)).take r.2)).noteWrite (r.1 / 128)).1) s

/-- Bytes of a dump. -/
def dumpSize : Nat := 20992

/-- DUMP a halted target, or its crew in GANGID order; nothing is written where one of them is not halted. -/
def State.requestDump (s : State) (t : Fin 4) (c : Bool) : State :=
  match s.targets t c with
  | [] => s.debugResult t 1
  | ps =>
    if ps.any fun p => !p.halted then s.debugResult t 2
    else (ps.foldl (fun u p => u.hostKidWrite t (s.debug[t].buf + (if c then dumpSize * p.gang else 0)) p.dump) s).debugResult t 0

/-- DEBUG_HALT (R410). -/
def execDebugHalt (t : Fin 4) (c : Bool) (s : State) : Out := .next (s.requestHalt t c)
/-- DEBUG_RESUME (R410). -/
def execDebugResume (t : Fin 4) (c : Bool) (s : State) : Out := .next (s.requestResume t c)
/-- DEBUG_DUMP (R410). -/
def execDebugDump (t : Fin 4) (c : Bool) (s : State) : Out := .next (s.requestDump t c)

/-! ## The sink and the journal (R405, R407) -/

/-- A head the host may write: at most the tail (R400). -/
def Ring.headLegal (r : Ring) (v : DWord) : Bool := v.ule r.tail

/-- The host's consumption has taken the occupancy below a quarter, so that CUR falls by 1 (R407). -/
def State.sinkFell (s : State) (t : Fin 4) (before : Nat) : Bool :=
  let d := s.debug[t]
  let edge := 2 ^ d.sink.log2 / 4
  d.ctl.getLsbD 3 && decide (before ≥ edge) && decide (d.sink.used < edge)

/-- The host consumes the sink up to v: a LOST record that waited for room is written, and where the occupancy that was left is below a quarter
the period falls (R405, R407). -/
def State.sinkHead (s : State) (t : Fin 4) (v : DWord) : State :=
  let d := s.debug[t]
  if !d.sink.headLegal v then s
  else
    let u := s.changeDebug t fun x => { x with sink := { x.sink with head := v } }
    let v := u.writeLost t
    if u.sinkFell t d.sink.used then v.periodChange t (Nat.max (d.cur - 1) d.pmin) else v

/-- The host consumes the journal up to v: entries that waited for room are written (R405). -/
def State.journalHead (s : State) (t : Fin 4) (v : DWord) : State :=
  if !s.debug[t].jrn.headLegal v then s
  else (s.changeDebug t fun x => { x with jrn := { x.jrn with head := v } }).flushTrace

/-- SINKHEAD_WRITE (R405, R407). -/
def execSinkheadWrite (t : Fin 4) (v : BitVec 64) (s : State) : Out := .next (s.sinkHead t v)
/-- JRNHEAD_WRITE (R405). -/
def execJrnheadWrite (t : Fin 4) (v : BitVec 64) (s : State) : Out := .next (s.journalHead t v)

/-! ## Samples (R407) -/

/-- Class of a lane over both ports of a gang (R401, R406). -/
def Party.sampleClass (p : Party) (l : Fin 32) : Nat :=
  let ports := [p.port, p.mate].filter (·.held)
  if !p.present.has l || p.pcv[l] == 0xFFFFFFFF then 3
  else if p.active.has l || (ports.any fun q => q.active.has l && q.micro.isNone) then 0
  else if ports.any fun q => q.head == p.pcv[l].toNat then 2
  else 1

/-- Clause offsets of the primary and the secondary port. -/
def Party.sampleOffsets (p : Party) : Nat :=
  let off (second : Bool) : Nat := match [p.port, p.mate].find? fun q => q.held && q.secondary == second with
    | some q => q.head
    | none => 0xFFFFFFFF
  off false * 2 ^ 32 + off true

/-- The payload of a SAMPLE record for a gang (R406). -/
def Party.sampleBody (p : Party) : List Byte :=
  le8 p.sampleOffsets ++ le8 p.ident.toNat ++ bytesLE 12 ((List.finRange 32).foldr (fun l n => p.sampleClass l + 8 * n) 0) ++ bytesLE 4 0

/-- The payload of a SAMPLE record of a scheduler that has selected no gang (R407). -/
def idleSample : List Byte :=
  le8 0xFFFFFFFFFFFFFFFF ++ le8 0xFFFFFFFFFFFFFFFF ++ bytesLE 12 ((List.finRange 32).foldr (fun _ n => 4 + 8 * n) 0) ++ bytesLE 4 0

/-- What a SAMPLE record says of the party at the issue slot once it has been selected: a gang with a clause at a port. -/
def State.pick (s : State) : Option (Nat × List Byte) :=
  let p := s.me
  if p.isThread || p.bundle == 0 || !(p.port.held || p.mate.held) then none else some (4 * p.core + p.sched, p.sampleBody)

/-- One SAMPLE record of gang scheduler c for the gang it selected in this cycle, or for none. -/
def State.sample (s : State) (c : Nat) : State :=
  match (List.finRange 4).find? fun p => s.parts[p].dies.getLsbD (c / 512) with
  | none => s
  | some t =>
    if !s.debugBit t 3 || c ≥ 2048 then s
    else s.emit t c 0x01 (match s.picked with
      | some (k, body) => if k == c then body else idleSample
      | none => idleSample)

/-- SAMPLE_TICK of gang scheduler c (R407). -/
def execSampleTick (c : Nat) (s : State) : Out := .next (s.sample c)

/-! ## Debug window registers (R400) -/

/-- Trace sources of a partition. -/
def State.sourceOf (s : State) (t : Fin 4) (n : Nat) : Bool :=
  let die := if n < 2048 then n / 512 else if n < 2304 then (n - 2048) / 64 else (n - 2304) / 128
  if n < 2816 then s.parts[t].dies.getLsbD die else n == 2828 + t.val

/-- Sequence numbers of a partition's records, or of its journal entries, start again (R404). -/
def State.restartSeqs (s : State) (t : Fin 4) (journal : Bool) : State :=
  { s with traceSeqs := s.traceSeqs.filter fun x =>
      if journal then !(x.1 ≥ 4096 && (s.sourceOf t (x.1 - 4096) || (2816 ≤ x.1 - 4096 && x.1 - 4096 < 2828)))
      else !(x.1 < 4096 && s.sourceOf t x.1) }

/-- Every party of a partition owes a SYNC record (R408). -/
def State.oweSync (s : State) (t : Fin 4) : State :=
  let f (p : Party) : Party := if p.part == t then { p with sync := none, synced := false } else p
  { s with me := f s.me, others := s.others.map f }

/-- A write of the control word: REC and RPL change only while no bundle of the partition runs, and never both; what EN, SMP, ITR, LCC,
REC and RPL start (R400, R402, R404, R408, R412). Records formed before it are written before it. -/
def State.writeCtl (s0 : State) (t : Fin 4) (v : BitVec 64) : State :=
  let s := s0.flushTrace
  let d := s.debug[t]
  let new : BitVec 8 := v.truncate 8 &&& 0xCF
  let rise (n : Nat) : Bool := new.getLsbD n && !d.ctl.getLsbD n
  let runs := s.bundles.any fun b => b.part == t
  if (new.getLsbD 7 && new.getLsbD 6) || (runs && (new ^^^ d.ctl) &&& 0xC0 != 0) then s
  else
    let s1 := s.changeDebug t fun x => { x with
      ctl := new
      sink := if rise 0 then { x.sink with tail := 0, head := 0 } else x.sink
      drops := if rise 0 then 0 else x.drops
      lost := if rise 0 then 0 else x.lost
      cur := if rise 3 then x.pmin else x.cur
      lastBin := if rise 1 then [] else x.lastBin
      jrn := if rise 6 then { x.jrn with tail := 0, head := 0 } else x.jrn
      ordinals := if rise 6 then [] else x.ordinals }
    let s2 := if rise 0 then s1.restartSeqs t false else s1
    let s3 := if rise 6 then s2.restartSeqs t true else s2
    let s4 := if rise 2 then s3.oweSync t else s3
    if rise 7 then s4.loadJournal t else s4

/-- A ring's base and size: 4 KiB to 1 GiB, aligned, in the partition's device memory. -/
def State.ringLegal (s : State) (t : Fin 4) (v : BitVec 64) : Bool :=
  let log := natBits v.toNat 4 0
  let base := natBits v.toNat 51 12 * 4096
  decide (12 ≤ log) && decide (log ≤ 30) && base % 2 ^ log == 0 && regionOf base == .device && s.partOfPa base == some t

/-- A write of a register of a debug window, by its offset; what is not writable stays (R400). -/
def State.writeDebug (s : State) (t : Fin 4) (o : Nat) (v : BitVec 64) : State :=
  let n := v.toNat
  let va := n % 2 ^ 52
  let base := natBits n 51 12 * 4096
  if o == 0x000 then s.writeCtl t v
  else if o == 0x008 then
    if s.ringLegal t v then s.changeDebug t fun x => { x with sink := { x.sink with base, log2 := natBits n 4 0 } } else s
  else if o == 0x018 then s.sinkHead t v
  else if o == 0x020 then
    let hi := natBits n 20 16
    let lo := natBits n 12 8
    if 6 ≤ lo && lo ≤ hi && hi ≤ 24 then s.changeDebug t fun x => { x with pmin := lo, pmax := hi } else s
  else if o == 0x030 then
    if s.ringLegal t v then s.changeDebug t fun x => { x with jrn := { x.jrn with base, log2 := natBits n 4 0 } } else s
  else if o == 0x040 then s.journalHead t v
  else if 0x100 ≤ o && o < 0x200 then
    let b := (o - 0x100) / 16
    s.changeDebug t fun x => if o % 16 == 0 then { x with binLo := Tbl.set x.binLo b va } else { x with binHi := Tbl.set x.binHi b va }
  else if 0x200 ≤ o && o < 0x200 + 40 * 17 then s.changeDebug t fun x => { x with lcount := Tbl.set x.lcount ((o - 0x200) / 8) v }
  else if 0x600 ≤ o && o < 0x680 then
    let i := (o - 0x600) / 16
    s.changeDebug t fun x =>
      let b := x.bkpts[i]?.getD { va := 0, lanes := 0, asid := 0, brkp := false, armed := false }
      let y : Bkpt := if o % 16 == 0 then { b with va }
        else { b with lanes := BitVec.ofNat 32 (natBits n 63 32), asid := natBits n 17 8, brkp := v.getLsbD 1, armed := v.getLsbD 0 }
      { x with bkpts := x.bkpts.setIfInBounds i y }
  else if o == 0x700 then s.changeDebug t fun x => { x with tgt := v }
  else if o == 0x708 then if s.partOfPa base == some t then s.changeDebug t fun x => { x with buf := base } else s
  else if o == 0x710 then
    match natBits n 2 0 with
    | 1 => s.requestHalt t (v.getLsbD 3)
    | 2 => s.requestResume t (v.getLsbD 3)
    | 3 => s.requestDump t (v.getLsbD 3)
    | _ => s
  else s

/-! ## BAR0 (R318, R360, R417) -/

/-- A write of offset 0x10 of a control block: ignored as a whole while ENABLE is 1 with commands left, for a LOG2N outside 4-16, or for a
reserved bit (R318). -/
def Qcb.writeMode (c : Qcb) (v : BitVec 64) : Qcb :=
  let n := v.toNat
  let log := natBits n 12 8
  if (c.enable && c.head != c.tail) || log < 4 || log > 16 || natBits n 63 42 != 0 || natBits n 31 18 != 0 || natBits n 15 13 != 0 ||
      natBits n 7 3 != 0 then c
  else { c with asid := natBits n 41 32, part := Fin.ofNat 4 (natBits n 17 16), log2n := log, devenq := v.getLsbD 2, sup := v.getLsbD 1,
                enable := v.getLsbD 0 }

/-- A write of a control block (R318). -/
def State.writeQcb (s : State) (q o : Nat) (v : BitVec 64) : State :=
  match o with
  | 0x00 => if v.toNat % 64 == 0 then s.changeQueue q fun c => { c with base := v } else s
  | 0x08 => s.ring q (v.truncate 32)
  | 0x10 =>
    let s1 := s.changeQueue q fun c => c.writeMode v
    if (s1.queue q).enable && (s1.queue q).head != (s1.queue q).tail then s1.ventPush q .doorbell else s1
  | _ => s

/-- Bytes of the mailbox's request area, 0 where nothing was written. -/
def Mailbox.area (m : Mailbox) : List Byte := m.request ++ List.replicate (64 - m.request.length) 0

/-- GO: the request now held is served; a malformed one is refused at once (R360, R361). -/
def State.go (s : State) : State :=
  if s.mailbox.busy || !s.parts.toList.any (·.serving) then s
  else match adminRequest s.mailbox.area with
    | some _ => { s with mailbox := { s.mailbox with busy := true, latched := s.mailbox.area } }
    | none => s.answer 1 []

/-- A 64-bit write to offset o of BAR0. START's outcome is that of a start that meets no failure. -/
def State.writeBar (s : State) (o : Nat) (v : BitVec 64) : State :=
  if o == 0x1008 then
    let m : BitVec 4 := BitVec.ofNat 4 (natBits v.toNat 7 4)
    match natBits v.toNat 3 0 with
    | 1 => s.runStart true 0xF .done
    | 2 => if m != 0 && (s.parts.toList.any fun p => p.dies == m) then s.runStart true m .done else s
    | _ => s
  else if 0x2000 ≤ o && o < 0x2040 then
    let a := s.mailbox.area
    { s with mailbox := { s.mailbox with request := a.take (o - 0x2000) ++ bytesLE 8 v.toNat ++ a.drop (o - 0x2000 + 8) } }
  else if o == 0x2088 then if v.getLsbD 0 then s.go else s
  else if 0x3000 ≤ o && o < 0x5000 then s.writeDebug (Fin.ofNat 4 ((o - 0x3000) / 0x800)) ((o - 0x3000) % 0x800) v
  else if 0x100000 ≤ o && o < 0x110000 then s.writeQcb ((o - 0x100000) / 64) ((o - 0x100000) % 64) v
  else s

/-- REGISTER_WRITE: a host write to a register of BAR0 (R5). The widths of such writes are not given: the model has writes of 64 bits, and one
at an offset that is no multiple of 8 changes nothing (DESIGN CHOICE, log 90). -/
def execRegisterWrite (o : Nat) (v : BitVec 64) (s : State) : Out := if o % 8 == 0 then .next (s.writeBar o v) else .next s

/-! ## Host reads of BAR0 (R5, R6) -/

/-- A field's value at its lowest bit. -/
def fieldAt (low v : Nat) : DWord := BitVec.ofNat 64 (v * 2 ^ low)

/-- Registers of a ring: base and size, tail, head (R400). -/
def Ring.read (r : Ring) (o : Nat) : DWord :=
  if o == 0 then fieldAt 12 (r.base / 4096) ||| fieldAt 0 r.log2
  else if o == 8 then r.tail else r.head

/-- What a host read of a debug window returns: RW and RO fields; 0 for WO and RSV ones (R5, R6, R400). -/
def State.readDebug (s : State) (t : Fin 4) (o : Nat) : DWord :=
  let d := s.debug[t]
  if o == 0x000 then d.ctl.setWidth 64 &&& 0xCF
  else if o == 0x008 || o == 0x010 || o == 0x018 then d.sink.read (o - 0x008)
  else if o == 0x020 then fieldAt 16 d.pmax ||| fieldAt 8 d.pmin ||| fieldAt 0 d.cur
  else if o == 0x028 then d.drops
  else if o == 0x030 || o == 0x038 || o == 0x040 then d.jrn.read (o - 0x030)
  else if 0x100 ≤ o && o < 0x200 then
    let b := (o - 0x100) / 16
    fieldAt 0 (if o % 16 == 0 then Tbl.getD d.binLo b 0 else Tbl.getD d.binHi b 0)
  else if 0x200 ≤ o && o < 0x200 + 40 * 17 then Tbl.getD d.lcount ((o - 0x200) / 8) 0
  else if 0x600 ≤ o && o < 0x680 then
    match d.bkpts[(o - 0x600) / 16]? with
    | some b =>
      if o % 16 == 0 then fieldAt 0 b.va
      else fieldAt 32 b.lanes.toNat ||| fieldAt 8 b.asid ||| fieldAt 1 b.brkp.toNat ||| fieldAt 0 b.armed.toNat
    | none => 0
  else if o == 0x700 then d.tgt
  else if o == 0x708 then fieldAt 12 (d.buf / 4096)
  else if o == 0x718 then fieldAt 8 d.busy.toNat ||| fieldAt 0 d.result
  else 0

/-- What a host read of a control block returns (R318). -/
def Qcb.read (c : Qcb) (o : Nat) : DWord :=
  match o with
  | 0x00 => c.base
  | 0x08 => fieldAt 32 c.head.toNat ||| fieldAt 0 c.tail.toNat
  | 0x10 => fieldAt 32 c.asid ||| fieldAt 16 c.part.val ||| fieldAt 8 c.log2n ||| fieldAt 2 c.devenq.toNat ||| fieldAt 1 c.sup.toNat |||
      fieldAt 0 c.enable.toNat
  | 0x18 => fieldAt 0 c.qerr
  | _ => 0

/-- What a host read of START returns: OP and DIES read 0 (R417). -/
def Start.read (x : Start) : DWord :=
  fieldAt 24 x.lastfail ||| fieldAt 16 x.reason ||| fieldAt 8 x.step ||| fieldAt 1 x.force.toNat ||| fieldAt 0 x.kind

/-- What a host read of 64 bits at offset o of BAR0 returns, which changes nothing: the value of an RO or RW field, 0 of a WO or RSV one (R5,
R6, R318, R360, R400, R417). -/
def State.readBar (s : State) (o : Nat) : DWord :=
  let m := s.mailbox
  if o % 8 != 0 then 0
  else if o == 0x1000 then s.start.read
  else if 0x2000 ≤ o && o < 0x2040 then fieldAt 0 (field64 m.area (o - 0x2000))
  else if 0x2040 ≤ o && o < 0x2080 then m.response.getD ((o - 0x2040) / 8) 0
  else if o == 0x2080 then fieldAt 32 m.seq.toNat ||| fieldAt 8 m.busy.toNat ||| fieldAt 0 m.result
  else if 0x3000 ≤ o && o < 0x5000 then s.readDebug (Fin.ofNat 4 ((o - 0x3000) / 0x800)) ((o - 0x3000) % 0x800)
  else if 0x100000 ≤ o && o < 0x110000 then (s.queue ((o - 0x100000) / 64)).read ((o - 0x100000) % 64)
  else 0

end Sys2Proof.Machine
end

