-- ==== Sys2Proof/Machine/Spdm.lean ====
section
/-! DEFINITION. SPDM over PCIe DOE: identity, attestation, and the leaf indices of the identity key (R372-R375). -/

namespace Sys2Proof.Machine

open Sys2Proof

/-- Signatures of the identity key: 2^30 leaf indices (R373). -/
def leafCount : Nat := 2 ^ 30

/-- Indices in one reserved block (R373). -/
def leafBlock : Nat := 256

/-- Code of the SPDM error response (log 45). -/
def spdmErrorCode : Byte := 0x7F

/-- The security engine answers a request. -/
def State.spdm (s : State) (code : Byte) (leaf : Option Nat) (body : List Byte) : State :=
  { s with security := { s.security with response := some { code, leaf, body } } }

/-- An SPDM error: nothing else changes (R374). -/
def State.spdmError (s : State) : State := s.spdm spdmErrorCode none []

/-- Take the next leaf index. The end of its block reaches the flash before the block's first index is used (R373). -/
def Security.takeLeaf (x : Security) : Option (Nat × Security) :=
  if x.leafNext < x.leafEnd then some (x.leafNext, { x with leafNext := x.leafNext + 1 })
  else if x.leafEnd + leafBlock ≤ leafCount then
    some (x.leafEnd, { x with leafNext := x.leafEnd + 1, leafEnd := x.leafEnd + leafBlock })
  else none

/-- What measurement block i measures (R375). -/
def State.measured (s : State) (i : Nat) : List Nat :=
  match i with
  | 2 => [s.security.runVersion]
  | 3 => s.start.layout.map (·.toNat) ++ s.start.initidx.toList ++ [s.start.plimit, s.start.tlimit]
  | 4 => (s.parts.toList.map fun p => p.dies.toNat) ++ s.parts.toList.map (·.hostKid)
  | 5 => [s.security.minVersion, s.security.leafEnd]
  | _ => []

/-- Measurement block i: a SHA-256 digest (R375, log 17). -/
def State.measurement (s : State) (i : Nat) : List Byte := Config.spdmBytes 6 (i :: s.measured i)

/-- The blocks that a request names: one of 1-5, all of them, or their number (R375, log 45). -/
def State.measurements (s : State) (i : Nat) : Option (List Byte) :=
  if i == 0 then some [5]
  else if i == 255 then some ((rangeFrom 1 1 5).flatMap s.measurement)
  else if i ≤ 5 then some (s.measurement i)
  else none

/-- Answer with a signature over a body and a nonce, under a fresh leaf index (R373). -/
def State.spdmSigned (s : State) (code : Byte) (nonce : BitVec 256) (body : State → List Byte) : State :=
  match s.security.takeLeaf with
  | none => s.spdmError
  | some (leaf, x) =>
    let t := { s with security := x }
    let b := body t
    t.spdm code (some leaf) (b ++ Config.spdmBytes 8 ([leaf, nonce.toNat] ++ b.map (·.toNat)))

/-- GET_VERSION (R374). -/
def execGetVersion (s : State) : Out := .next (s.spdm 0x04 none (Config.spdmBytes 1 []))

/-- GET_CAPABILITIES (R374). -/
def execGetCapabilities (s : State) : Out := .next (s.spdm 0x61 none (Config.spdmBytes 2 []))

/-- NEGOTIATE_ALGORITHMS: SHA-256 and LMS/HSS (R374). -/
def execNegotiateAlgorithms (s : State) : Out := .next (s.spdm 0x63 none (Config.spdmBytes 3 []))

/-- GET_DIGESTS: the digest of the chain of slot 0 (R374). -/
def execGetDigests (s : State) : Out := .next (s.spdm 0x01 none (Config.spdmBytes 4 []))

/-- GET_CERTIFICATE: part of the chain of slot 0, which the board's flash keeps (R373, R374). -/
def execGetCertificate (x o n : Nat) (s : State) : Out :=
  .next (if x == 0 then s.spdm 0x02 none (((Config.spdmBytes 5 []).drop o).take n) else s.spdmError)

/-- CHALLENGE: signed with a fresh leaf index (R373, R374). -/
def execChallenge (x : Nat) (nonce : BitVec 256) (s : State) : Out :=
  .next (if x == 0 then s.spdmSigned 0x03 nonce fun t => t.measurements 255 |>.getD [] else s.spdmError)

/-- GET_MEASUREMENTS: the blocks of R375, signed or not. -/
def execGetMeasurements (i : Nat) (sg : Bool) (nonce : BitVec 256) (s : State) : Out :=
  .next (match s.measurements i with
    | none => s.spdmError
    | some b => if sg then s.spdmSigned 0x60 nonce fun t => (t.measurements i).getD [] else s.spdm 0x60 none b)

/-- SPDM_UNSUPPORTED: an SPDM error (R374). -/
def execSpdmUnsupported (_c : BitVec 8) (s : State) : Out := .next s.spdmError

end Sys2Proof.Machine
end

