-- ==== Sys2Proof/Machine/Clock.lean ====
section
/-! DEFINITION. The passing of time: the reference timer and the dies' clocks (R303, R304, R307), what counts by them (R337, R401, R402,
R407), and the records that reach their rings meanwhile (R404, R405). -/

namespace Sys2Proof.Machine

open Sys2Proof

/-- Frequency of a die in MHz (R304, R306). -/
def Die.mhz (x : Die) : Nat := 800 + 100 * x.cur

/-- A quotient rounded to nearest, ties to even. -/
def roundRne (num den : Nat) : Nat :=
  let q := num / den
  let r := num % den
  if 2 * r > den || (2 * r == den && q % 2 == 1) then q + 1 else q

/-- Increment of CYCN's accumulator in each cycle (R304). -/
def Die.increment (x : Die) : Nat := roundRne (1600 * 2 ^ 16) x.mhz

/-- Cycles of a die in n ticks: none in a relock or after a failure (R307, R395). -/
def Die.cycles (x : Die) (n : Nat) : Nat := if x.busy || x.failed then 0 else (x.phase + n * x.mhz) / 1000

/-- A die's counters after n ticks (R304). -/
def Die.pass (x : Die) (n : Nat) : Die :=
  let c := x.cycles n
  { x with cycr := x.cycr + BitVec.ofNat 64 c, acc := x.acc + BitVec.ofNat 80 (c * x.increment)
           phase := if x.busy || x.failed then 0 else (x.phase + n * x.mhz) % 1000 }

/-- The least number of ticks in which k more cycles of a die pass. -/
def Die.ticks (x : Die) (k : Nat) : Nat := (1000 * k - x.phase + x.mhz - 1) / x.mhz

/-- RTIME at which a relock of the die begins or ends next (R307). -/
def Die.boundary (x : Die) : Option Nat :=
  if x.busy then some (x.relockEnd.getD (x.since + 1)) else none

/-- At most n ticks, none of them past the next boundary of a relock: a relock begins and ends on its tick (R307). -/
def State.capTicks (s : State) (n : Nat) : Nat :=
  (s.dies.toList.filterMap (·.boundary)).foldl (fun m b => Nat.min m (b - s.rtime.toNat)) n

/-- A party stays resident for n ticks and c cycles of its die: GRUN and, in a gang, WDOGV count; WDOGV's fall to 0 is left to
`State.watchdog` (R337). -/
def Party.pass (p : Party) (n c : Nat) : Party :=
  if p.bundle == 0 || p.switchedOut then p
  else
    let w := p.wdogv.toNat
    { p with grun := p.grun + BitVec.ofNat 64 n
             wdogv := if p.isThread || w == 0 then p.wdogv else if c < w then BitVec.ofNat 32 (w - c) else 1 }

/-- Gangs whose WDOGV reaches 0 within n ticks. -/
def State.expiring (s : State) (n : Nat) : List Ident :=
  (s.parties.filter fun p => p.bundle != 0 && !p.switchedOut && !p.isThread && p.wdogv != 0 &&
    decide (p.wdogv.toNat ≤ (s.die p.die).cycles n)).map (·.ident)

/-- Lane-cycles that no word is issued in: every scheduler's two paths but what `sched` issued (R401, R402). -/
def State.countIdleAll (s : State) (sched issued n : Nat) : State :=
  (List.finRange 4).foldl (fun t part =>
    if !t.debugBit part 1 then t
    else (diesOf t.parts[part].dies).foldl (fun u d =>
      let c := (s.die d).cycles n
      let u1 := u.countIdleDie part d sched c
      if sched / 512 == d then u1.countIdle part sched (2 * c - issued) else u1) t) s

/-- Sample ticks within n ticks: every 2^CUR cycles of a die, each of its gang schedulers samples (R407). -/
def State.sampleAll (s : State) (n : Nat) : State :=
  (List.finRange 4).foldl (fun t part =>
    if !t.debugBit part 3 then t
    else (diesOf t.parts[part].dies).foldl (fun u d =>
      let period := 2 ^ s.debug[part].cur
      let at0 := (s.die d).cycr.toNat
      let due := (at0 + (s.die d).cycles n) / period - at0 / period
      (List.range due).foldl (fun v _ => (rangeFrom (512 * d) 1 512).foldl State.sample v) u) t) s

/-- n ticks pass. -/
def State.advance (s : State) (n : Nat) : State :=
  let late := s.expiring n
  let pass (p : Party) : Party := p.pass n ((s.die p.die).cycles n)
  late.foldl State.watchdog
    { s with rtime := s.rtime + BitVec.ofNat 64 n, dies := s.dies.map (·.pass n), me := pass s.me, others := s.others.map pass }

/-- k cycles of die d pass, or what comes before the next boundary of a relock; `sched` has issued `issued` words in them. -/
def State.elapse (s : State) (d k sched issued : Nat) : State :=
  let n := s.capTicks ((s.die d).ticks k)
  { ((((s.countIdleAll sched issued n).sampleAll n).advance n).flushTrace).goStart with fresh := s.fresh + 1 }

end Sys2Proof.Machine
end

