-- ==== Sys2Proof/Machine/Uniform.lean ====
section
/-! DEFINITION. The uniform instructions, class UN, that touch no memory (R105-R109, R112). SBRA stands with control flow,
SLD and SST with the loads and stores. -/

namespace Sys2Proof.Machine

open Sys2Proof

/-- High 64 bits of the signed product (R107). -/
def smulHigh (a b : DWord) : DWord := BitVec.ofInt 64 (a.toInt * b.toInt / 2 ^ 64)

/-- Shifts of a 64-bit value: 64 or more empties it, or fills it with the sign (R107). -/
def shiftDWord (k : ShKind) (a : DWord) (n : Nat) : DWord :=
  match k with
  | .left => if n ≥ 64 then 0 else a <<< n
  | .right => if n ≥ 64 then 0 else a >>> n
  | .arith => if n ≥ 64 then (if a.msb then 0xFFFFFFFFFFFFFFFF else 0) else a.sshiftRight n
  | .rot => a

/-- SADD (R107). -/
def execSadd (f : FS) : State → Out := uniWord f.w f.d [f.a, f.b] fun a b => a + b

/-- SSUB (R107). -/
def execSsub (f : FS) : State → Out := uniWord f.w f.d [f.a, f.b] fun a b => a - b

/-- SMUL (R107). -/
def execSmul (f : FS) : State → Out := uniWord f.w f.d [f.a, f.b] fun a b => a * b

/-- SMULH (R107). -/
def execSmulh (f : FS) : State → Out := uniWord f.w f.d [f.a, f.b] smulHigh

/-- Quotient of SDIVU; all ones for a divisor of 0 (R108). -/
def divu (a b : DWord) : DWord := if b == 0 then 0xFFFFFFFFFFFFFFFF else BitVec.ofNat 64 (a.toNat / b.toNat)

/-- SDIVU: a long result counted by no counter (R108). A queue port as its destination is a reserved encoding (R30). -/
def execSdivu (f : FS) : State → Out :=
  word f.w 1 do
    let vs ← readClean [f.a, f.b]
    match f.d with
    | .sq _ => raise .illi
    | .s n => changeMe fun p => p.addPend (.svalue n (divu (vs.getD 0 0) (vs.getD 1 0))) p.active [] false .none (some []) []

/-- SAND (R107). -/
def execSand (f : FS) : State → Out := uniWord f.w f.d [f.a, f.b] fun a b => a &&& b

/-- SOR (R107). -/
def execSor (f : FS) : State → Out := uniWord f.w f.d [f.a, f.b] fun a b => a ||| b

/-- SXOR (R107). -/
def execSxor (f : FS) : State → Out := uniWord f.w f.d [f.a, f.b] fun a b => a ^^^ b

/-- SSHL (R107). -/
def execSshl (f : FS) : State → Out := uniWord f.w f.d [f.a, f.b] fun a b => shiftDWord .left a b.toNat

/-- SSHR (R107). -/
def execSshr (f : FS) : State → Out := uniWord f.w f.d [f.a, f.b] fun a b => shiftDWord .right a b.toNat

/-- SSAR (R107). -/
def execSsar (f : FS) : State → Out := uniWord f.w f.d [f.a, f.b] fun a b => shiftDWord .arith a b.toNat

/-- SMIN (R107). -/
def execSmin (f : FS) : State → Out := uniWord f.w f.d [f.a, f.b] fun a b => if a.sle b then a else b

/-- SMAX (R107). -/
def execSmax (f : FS) : State → Out := uniWord f.w f.d [f.a, f.b] fun a b => if b.sle a then a else b

/-- SSET (R107). -/
def execSset (f : FS) (c : SCmp) : State → Out := uniWord f.w f.d [f.a, f.b] fun a b => if SCmp.holds c a b then 1 else 0

/-- SADDI (R109). -/
def execSaddi (w : Bool) (d a : SOp) (i : BitVec 13) : State → Out := uniWord w d [a] fun x _ => x + sext64 i

/-- SMOVI (R109). -/
def execSmovi (w : Bool) (d : SOp) (i : BitVec 19) : State → Out := uniWord w d [] fun _ _ => sext64 i

/-- SLIT takes the literal word after it (R109); mode .HI keeps the low half of SD. -/
def execSlit (w : Bool) (d : SOp) (m : LitMode) (lit : BitVec 32) : State → Out :=
  word w 2 do
    match m with
    | .zx => writeS d (zext64 lit)
    | .sx => writeS d (sext64 lit)
    | .hi =>
      let old ← readS d
      writeS d ((zext64 lit <<< 32) ||| (old &&& 0xFFFFFFFF))

/-- SV2S: lane LANE of VA, active or not; no last-read mark (R112). -/
def execSv2s (w : Bool) (d : SOp) (a : VOp) (n : Fin 32) : State → Out :=
  word w 1 do
    let vs ← readVs [a] []
    let v := vs.getD 0 .zero
    check (!v.poison.has n) .pois
    writeS d (zext64 v.val[n])

/-- SS2V: a half of SA into every active lane (R112). ILLI of a register beyond VREG comes first, then QERR or a wait of a source port, POIS, and
QERR or a wait of a destination port: the order is the model's choice, as in every UN word, since R113 gives none (log 93). -/
def execSs2v (w : Bool) (d : VOp) (a : SOp) (h : Bool) : State → Out :=
  word w 1 do
    checkVreg [] (namesOf d)
    let x ← readS a
    let half : Word := if h then (x >>> 32).truncate 32 else x.truncate 32
    writeDest d (.clean fun _ => half)

end Sys2Proof.Machine
end

