-- ==== Sys2Proof/Machine/Elem.lean ====
section
/-! DEFINITION. The correctly rounded functions (R158, R173, R174) and Gumbel draws (R161). FRCP, FSQRT and FRSQ round exact
quotients and roots. The others are evaluated on integers to far more bits than any FP32 rounding needs and rounded once
(log 11); their results are never exact except where the definitions below say so. -/

namespace Sys2Proof.Machine

open Sys2Proof

/-! ## Integer tools -/

/-- Integer square root, one bit a step: `k` bits are still to be found. -/
def isqrtFrom (n : Nat) : Nat → Nat → Nat
  | 0, r => r
  | k + 1, r =>
    let t := r + 2 ^ k
    isqrtFrom n k (if t * t ≤ n then t else r)

/-- Integer square root. -/
def isqrt (n : Nat) : Nat := isqrtFrom n (Nat.log2 n / 2 + 1) 0

/-- Fraction bits of the fixed-point numbers below. -/
def fixBits : Nat := 512

/-- 1 as a fixed-point number. -/
def fixOne : Nat := 2 ^ fixBits

/-- Product of fixed-point numbers. -/
def fixMul (a b : Nat) : Nat := a * b / fixOne

/-- Sum of 1 / (k * 2^k) over the next k: the series of ln 2. -/
def ln2From : Nat → Nat → Nat
  | 0, _ => 0
  | n + 1, k => fixOne / 2 ^ k / k + ln2From n (k + 1)

/-- ln 2. -/
def fixLn2 : Nat := ln2From fixBits 1

/-- Alternating sum of the arctangent series of 1/d: `p` is d^-(2j+1), `k` is 2j+1. -/
def atanFrom (d2 : Nat) : Nat → Nat → Nat → Int
  | 0, _, _ => 0
  | n + 1, p, k => Int.ofNat (p / k) - atanFrom d2 n (p / d2) (k + 2)

/-- arctan (1/d). -/
def fixAtan (d : Nat) : Int := atanFrom (d * d) 250 (fixOne / d) 1

/-- pi, by 16 arctan (1/5) - 4 arctan (1/239). -/
def fixPi : Nat := (16 * fixAtan 5 - 4 * fixAtan 239).toNat

/-- Terms of the exponential series from term t on. -/
def expFrom (z : Nat) : Nat → Nat → Nat → Nat
  | 0, _, _ => 0
  | n + 1, t, k => t + expFrom z n (fixMul t z / k) (k + 1)

/-- e^z for 0 ≤ z < 1. -/
def fixExp (z : Nat) : Nat := expFrom z 110 fixOne 1

/-- Alternating series in z2 = x^2 with denominators k (k + 1): t - t z2 / (k (k+1)) + ... -/
def altFrom (z2 : Nat) : Nat → Nat → Nat → Int
  | 0, _, _ => 0
  | n + 1, t, k => Int.ofNat t - altFrom z2 n (fixMul t z2 / (k * (k + 1))) (k + 2)

/-- The fixed-point value of m * 2^e, rounded down. -/
def fixOf (m : Nat) (e : Int) : Nat :=
  let sh := e + fixBits
  if 0 ≤ sh then m * 2 ^ sh.toNat else m / 2 ^ (-sh).toNat

/-! ## Algebraic functions -/

/-- 1 / (m * 2^e). -/
def recip (neg : Bool) (m : Nat) (e : Int) : Nat × BitVec 32 :=
  f32.round .rne neg (2 ^ 80 / m) (-80 - e) (2 ^ 80 % m != 0)

/-- Square root of m * 2^e: the exponent is made even. -/
def sqrtOf (m : Nat) (e : Int) : Nat × BitVec 32 :=
  let (m1, e1) := if e % 2 == 0 then (m, e) else (2 * m, e - 1)
  let big := m1 * 2 ^ 80
  let r := isqrt big
  f32.round .rne false r (e1 / 2 - 40) (r * r != big)

/-- 1 / square root of m * 2^e. -/
def rsqrtOf (m : Nat) (e : Int) : Nat × BitVec 32 :=
  let (m1, e1) := if e % 2 == 0 then (m, e) else (2 * m, e - 1)
  let r := isqrt (2 ^ 120 / m1)
  f32.round .rne false r (-60 - e1 / 2) (r * r * m1 != 2 ^ 120)

/-! ## Transcendental functions -/

/-- Binary digits of log2 y for 1 ≤ y < 2, by repeated squaring: `n` digits are still to come. -/
def log2Digits : Nat → Nat → Nat → Nat
  | 0, _, acc => acc
  | n + 1, y, acc =>
    let y2 := fixMul y y
    if y2 ≥ 2 * fixOne then log2Digits n (y2 / 2) (2 * acc + 1) else log2Digits n y2 (2 * acc)

/-- Fraction digits of log2 that are computed. -/
def logBits : Nat := 160

/-- log2 (m * 2^e), m nonzero. A power of two is exact. -/
def log2Of (m : Nat) (e : Int) : Nat × BitVec 32 :=
  let k : Int := e + Nat.log2 m
  if m == 2 ^ Nat.log2 m then f32.round .rne (decide (k < 0)) k.natAbs 0 false
  else
    let d := log2Digits logBits (fixOf m (-(Int.ofNat (Nat.log2 m)))) 0
    let v : Int := k * 2 ^ logBits + d
    f32.round .rne (decide (v < 0)) (if v < 0 then v.natAbs - 1 else v.natAbs) (-(Int.ofNat logBits)) true

/-- 2^a for a = (-1)^neg * m * 2^e. An integer is exact; exponents are clipped beyond the range of FP32. -/
def exp2Of (neg : Bool) (m : Nat) (e : Int) : Nat × BitVec 32 :=
  let huge := decide (e + Int.ofNat (Nat.log2 m) ≥ 12)
  if m == 0 then f32.round .rne false 1 0 false
  else if huge then f32.round .rne false 1 (if neg then -400 else 400) true
  else
    let x := signInt neg (m * 2 ^ (e + 149).toNat)
    let k := x / 2 ^ 149
    let f := (x % 2 ^ 149).toNat
    if f == 0 then f32.round .rne false 1 k false
    else f32.round .rne false (fixExp (fixMul (f * 2 ^ (fixBits - 149)) fixLn2)) (k - fixBits) true

/-- sin x for 0 < x ≤ pi/4, as x times the series of sin x / x. -/
def sinOf (neg : Bool) (m : Nat) (e : Int) : Nat × BitVec 32 :=
  let x := fixOf m e
  f32.round .rne neg (m * (altFrom (fixMul x x) 60 fixOne 2).toNat) (e - fixBits) true

/-- cos x for 0 < x ≤ pi/4. -/
def cosOf (m : Nat) (e : Int) : Nat × BitVec 32 :=
  let x := fixOf m e
  f32.round .rne false (altFrom (fixMul x x) 60 fixOne 1).toNat (-(Int.ofNat fixBits)) true

/-- FRED: r and q mod 4 (R158, R174). Without reduction r is the operand itself. -/
def redOf (neg : Bool) (m : Nat) (e : Int) : Nat × Word × BitVec 32 :=
  let x := fixOf m e
  let q := (4 * x + fixPi) / (2 * fixPi)
  if q == 0 then
    let (r, f) := f32.round .rne neg m e false
    (r, 0, f)
  else
    let d : Int := 2 * Int.ofNat x - Int.ofNat (q * fixPi)
    let rneg := decide (d < 0) != neg
    let (r, f) := f32.round .rne rneg (if d < 0 then d.natAbs - 1 else d.natAbs) (-(Int.ofNat fixBits) - 1) true
    (r, BitVec.ofInt 32 (signInt neg q % 4), f)

/-! ## The words' functions with their special operands (R173) -/

/-- Bits of FP32 infinity with a sign. -/
def inf32 (neg : Bool) : Nat × BitVec 32 := (f32.signed neg f32.infBits, 0)

/-- FRCP. -/
def frcp32 (a : Word) : Word × BitVec 32 := asWord <|
  match dec32 a with
  | .nan => (f32.nanBits, 0)
  | .inf n => (f32.signed n 0, 0)
  | .fin n m e => if m == 0 then inf32 n else recip n m e

/-- FRSQ. -/
def frsq32 (a : Word) : Word × BitVec 32 := asWord <|
  match dec32 a with
  | .nan => (f32.nanBits, 0)
  | .inf n => if n then f32.invalid else (0, 0)
  | .fin n m e => if m == 0 then inf32 n else if n then f32.invalid else rsqrtOf m e

/-- FSQRT. -/
def fsqrt32 (a : Word) : Word × BitVec 32 := asWord <|
  match dec32 a with
  | .nan => (f32.nanBits, 0)
  | .inf n => if n then f32.invalid else inf32 false
  | .fin n m e => if m == 0 then (f32.signed n 0, 0) else if n then f32.invalid else sqrtOf m e

/-- FEXP2. -/
def fexp2_32 (a : Word) : Word × BitVec 32 := asWord <|
  match dec32 a with
  | .nan => (f32.nanBits, 0)
  | .inf n => if n then (0, 0) else inf32 false
  | .fin n m e => exp2Of n m e

/-- FLOG2. -/
def flog2_32 (a : Word) : Word × BitVec 32 := asWord <|
  match dec32 a with
  | .nan => (f32.nanBits, 0)
  | .inf n => if n then f32.invalid else inf32 false
  | .fin n m e => if m == 0 then inf32 true else if n then f32.invalid else log2Of m e

/-- Largest operand of FSINR and FCOSR (R158). -/
def inSinDomain (a : Word) : Bool := decide ((a &&& 0x7FFFFFFF).toNat ≤ 0x3F490FDB)

/-- FSINR. -/
def fsinr32 (a : Word) : Word × BitVec 32 := asWord <|
  match dec32 a with
  | .nan => (f32.nanBits, 0)
  | .inf _ => f32.invalid
  | .fin n m e => if !inSinDomain a then f32.invalid else if m == 0 then (f32.signed n 0, 0) else sinOf n m e

/-- FCOSR. -/
def fcosr32 (a : Word) : Word × BitVec 32 := asWord <|
  match dec32 a with
  | .nan => (f32.nanBits, 0)
  | .inf _ => f32.invalid
  | .fin _ m e => if !inSinDomain a then f32.invalid else if m == 0 then f32.round .rne false 1 0 false else cosOf m e

/-- FRED: r, q mod 4 and flags. -/
def fred32 (a : Word) : Word × Word × BitVec 32 :=
  match dec32 a with
  | .nan => (BitVec.ofNat 32 f32.nanBits, 0, 0)
  | .inf _ => (BitVec.ofNat 32 f32.nanBits, 0, flagINV)
  | .fin n m e =>
    let (r, q, f) := redOf n m e
    (BitVec.ofNat 32 r, q, f)

/-- FP32(-ln 2) (R161). -/
def gumbL : Word := 0xBF317218

/-- GUMB: A + G(B); the inner roundings set INX only (R161). -/
def gumb32 (a b : Word) : Word × BitVec 32 :=
  let (u, _) := asWord (f32.round .rne false (2 * (b.toNat / 2 ^ 9) + 1) (-24) false)
  let (t1, f1) := flog2_32 u
  let (t2, f2) := fmul32 .rne t1 gumbL
  let (t3, f3) := flog2_32 t2
  let (t4, f4) := fmul32 .rne t3 gumbL
  let (d, f5) := fadd32 .rne a t4
  (d, ((f1 ||| f2 ||| f3 ||| f4) &&& flagINX) ||| f5)

/-- rng32 of R160. -/
def rngRounds (key : DWord) : Nat → DWord → DWord → DWord
  | 0, _, x => x
  | n + 1, i, x =>
    let x := x + key + i * 0x9E3779B97F4A7C15
    let x := (x ^^^ (x >>> 30)) * 0xBF58476D1CE4E5B9
    let x := (x ^^^ (x >>> 27)) * 0x94D049BB133111EB
    rngRounds key n (i + 1) (x ^^^ (x >>> 31))

/-- RAND (R160). -/
def rng32 (key ctr : DWord) : Word := (rngRounds key 4 0 ctr >>> 32).truncate 32

end Sys2Proof.Machine
end

