-- ==== Sys2Proof/Machine/VecFloat.lean ====
section
/-! DEFINITION. The floating-point, lane-exchange and sampling instructions, class VF (R162-R184). -/

namespace Sys2Proof.Machine

open Sys2Proof

/-! ## Arithmetic (R168) -/

/-- FADD. -/
def execFadd (f : F3) (r : Rnd) : State → Out := floatWord f.w f.d [(f.a, f.la), (f.b, f.lb)] false fun a b _ => fadd32 r a b
/-- FSUB. -/
def execFsub (f : F3) (r : Rnd) : State → Out := floatWord f.w f.d [(f.a, f.la), (f.b, f.lb)] false fun a b _ => fsub32 r a b
/-- FMUL. -/
def execFmul (f : F3) (r : Rnd) : State → Out := floatWord f.w f.d [(f.a, f.la), (f.b, f.lb)] false fun a b _ => fmul32 r a b
/-- FFMA: the old D is the addend. -/
def execFfma (f : F3) (r : Rnd) : State → Out := floatWord f.w f.d [(f.a, f.la), (f.b, f.lb)] true fun a b o => ffma32 r a b o

/-! ## Selection, sign, comparison, class (R169-R172) -/

/-- A NaN pattern of FP32. -/
def isNaN32 (w : Word) : Bool := dec32 w == .nan

/-- The canonical FP32 NaN. -/
def nan32 : Word := 0x7FC00000

/-- Order of FP32 values that are no NaN, -0 below +0 (R144). -/
def key32 (w : Word) : Int :=
  let mag := Int.ofNat (w &&& 0x7FFFFFFF).toNat
  if w.msb then -mag - 1 else mag

/-- FMIN and FMAX on one lane (R169). -/
def pick32 (max nanForm : Bool) (a b : Word) : Word :=
  match isNaN32 a, isNaN32 b with
  | true, true => nan32
  | true, false => if nanForm then nan32 else b
  | false, true => if nanForm then nan32 else a
  | false, false => if (if max then decide (key32 a ≥ key32 b) else decide (key32 a ≤ key32 b)) then a else b

/-- FMIN. -/
def execFmin (f : F3) (n : Bool) : State → Out := laneWord f.w f.d [(f.a, f.la), (f.b, f.lb)] false fun a b _ => pick32 false n a b
/-- FMAX. -/
def execFmax (f : F3) (n : Bool) : State → Out := laneWord f.w f.d [(f.a, f.la), (f.b, f.lb)] false fun a b _ => pick32 true n a b

/-- FMOV on one lane. -/
def fsign32 (o : FSign) (a : Word) : Word :=
  if isNaN32 a then nan32
  else match o with
    | .copy => a
    | .neg => a ^^^ 0x80000000
    | .abs => a &&& 0x7FFFFFFF
    | .nabs => a ||| 0x80000000

/-- FMOV. -/
def execFmov (f : F2) (o : FSign) : State → Out := laneWord f.w f.d [(f.a, f.la)] false fun a _ _ => fsign32 o a

/-- IEEE 754 comparison (R170). -/
def fcmp32 (c : FCmp) (a b : Word) : Bool :=
  let nan := isNaN32 a || isNaN32 b
  let zeros := (a &&& 0x7FFFFFFF) == 0 && (b &&& 0x7FFFFFFF) == 0
  match c with
  | .un => nan
  | .eq => !nan && (zeros || a == b)
  | .lt => !nan && !zeros && decide (key32 a < key32 b)
  | .le => !nan && (zeros || decide (key32 a ≤ key32 b))

/-- FSETP. -/
def execFsetp (f : FP3) (c : FCmp) : State → Out := predWord f.w f.d [(f.a, f.la), (f.b, f.lb)] (fcmp32 c)

/-- The class bit of a value (R171). -/
def fclass32 (a : Word) : Word :=
  let neg := a.msb
  match dec32 a with
  | .nan => 0x100
  | .inf n => if n then 0x001 else 0x080
  | .fin _ m _ =>
    if m == 0 then (if neg then 0x008 else 0x010)
    else if natBits a.toNat 30 23 == 0 then (if neg then 0x004 else 0x020)
    else (if neg then 0x002 else 0x040)

/-- FCLASS. -/
def execFclass (f : F2) : State → Out := laneWord f.w f.d [(f.a, f.la)] false fun a _ _ => fclass32 a

/-- FSCALE on one lane: an exponent beyond 600 either way rounds as 600 does (R172). -/
def fscale32 (r : Rnd) (a b : Word) : Word × BitVec 32 :=
  match dec32 a with
  | .nan => (nan32, 0)
  | .inf _ => (a, 0)
  | .fin n m e => if m == 0 then (a, 0) else asWord (f32.round r n m (e + max (-600) (min 600 b.toInt)) false)

/-- FSCALE. -/
def execFscale (f : F3) (r : Rnd) : State → Out := floatWord f.w f.d [(f.a, f.la), (f.b, f.lb)] false fun a b _ => fscale32 r a b

/-! ## Correctly rounded functions (R173, R174) -/

/-- Poison in the active lanes of both sources. -/
def activeBad (p : Party) (a b : VReg) : LaneMask := (a.poison ||| b.poison) &&& p.active

/-- A long one-source word with one result and flags per lane. -/
def longLane (sw : Bool) (d : VOp) (a : VOp) (la : Bool) (g : Word → Word × BitVec 32) : State → Out :=
  longWord sw d 1 [(a, la)] activeBad fun p x _ =>
    ([lanes fun l => (g x.val[l]).1], flagsOver p.active fun l => (g x.val[l]).2)

/-- FRCP. -/
def execFrcp (f : F2) : State → Out := longLane f.w f.d f.a f.la frcp32
/-- FRSQ. -/
def execFrsq (f : F2) : State → Out := longLane f.w f.d f.a f.la frsq32
/-- FSQRT. -/
def execFsqrt (f : F2) : State → Out := longLane f.w f.d f.a f.la fsqrt32
/-- FEXP2. -/
def execFexp2 (f : F2) : State → Out := longLane f.w f.d f.a f.la fexp2_32
/-- FLOG2. -/
def execFlog2 (f : F2) : State → Out := longLane f.w f.d f.a f.la flog2_32
/-- FSINR. -/
def execFsinr (f : F2) : State → Out := longLane f.w f.d f.a f.la fsinr32
/-- FCOSR. -/
def execFcosr (f : F2) : State → Out := longLane f.w f.d f.a f.la fcosr32

/-- FRED writes r into D and q mod 4 into D+1. -/
def execFred (f : F2) : State → Out :=
  longWord f.w f.d 2 [(f.a, f.la)] activeBad fun p x _ =>
    ([lanes fun l => (fred32 x.val[l]).1, lanes fun l => (fred32 x.val[l]).2.1],
     flagsOver p.active fun l => (fred32 x.val[l]).2.2)

/-! ## Conversions (R146, R175, R176) -/

/-- FP32 to a 16-bit format. -/
def narrow (f : Fmt) (r : Rnd) (a : Word) : Word × BitVec 32 := asWord (f.finish r (dec32 a))

/-- A 16-bit format to FP32, exact. -/
def widen (f : Fmt) (half : Nat) : Word := (asWord (f32.finish .rne (f.decode half))).1

/-- FP32 to an integer in [lo, hi], rounded by mode; NaN gives 0 (R146). -/
def toInteger (r : Rnd) (lo hi : Int) (a : Word) : Word × BitVec 32 :=
  match dec32 a with
  | .nan => (0, flagINV)
  | .inf n => (BitVec.ofInt 32 (if n then lo else hi), flagINV)
  | .fin n m e =>
    let (k, low, any) := if e ≥ 0 then (m * 2 ^ e.toNat, Ordering.lt, false) else cut m (-e).toNat false
    let v := signInt n (if roundsUp r n k low any then k + 1 else k)
    if v < lo then (BitVec.ofInt 32 lo, flagINV)
    else if v > hi then (BitVec.ofInt 32 hi, flagINV)
    else (BitVec.ofInt 32 v, flagIf any flagINX)

/-- An integer to FP32. -/
def fromInteger (r : Rnd) (v : Int) : Word × BitVec 32 := asWord (f32.round r (decide (v < 0)) v.natAbs 0 false)

/-- Put a 16-bit result into a half of the old D. -/
def intoHalf (high : Bool) (old : Word) (x : Word × BitVec 32) : Word × BitVec 32 :=
  (if high then (old &&& 0x0000FFFF) ||| (x.1 <<< 16) else (old &&& 0xFFFF0000) ||| x.1, x.2)

/-- Two halves. -/
def bothHalves (lo hi : Word × BitVec 32) : Word × BitVec 32 := ((hi.1 <<< 16) ||| lo.1, lo.2 ||| hi.2)

/-- One lane of FCVT: A, A+1 for codes 12 and 13, and the old D. -/
def fcvt32 (c : Nat) (r : Rnd) (a b old : Word) : Word × BitVec 32 :=
  match c with
  | 0 => toInteger r (-(2 ^ 31)) (2 ^ 31 - 1) a
  | 1 => toInteger r 0 (2 ^ 32 - 1) a
  | 2 => fromInteger r a.toInt
  | 3 => fromInteger r (Int.ofNat a.toNat)
  | 4 => intoHalf false old (narrow bf16 r a)
  | 5 => intoHalf true old (narrow bf16 r a)
  | 6 => (widen bf16 (natBits a.toNat 15 0), 0)
  | 7 => (widen bf16 (natBits a.toNat 31 16), 0)
  | 8 => intoHalf false old (narrow f16 r a)
  | 9 => intoHalf true old (narrow f16 r a)
  | 10 => (widen f16 (natBits a.toNat 15 0), 0)
  | 11 => (widen f16 (natBits a.toNat 31 16), 0)
  | 12 => bothHalves (narrow bf16 r a) (narrow bf16 r b)
  | _ => bothHalves (narrow f16 r a) (narrow f16 r b)

/-- The pair a source names (R25). -/
def pairOf (a : VOp) (la : Bool) : List Src :=
  match a with
  | .v n => [(.v n, la), (.v (vnext n 1), la)]
  | .q k => [(.q k, la)]

/-- FCVT: codes 12 and 13 read a pair; codes 4, 5, 8 and 9 read the old D (R162). -/
def execFcvt (f : F2) (c : Fin 14) (r : Rnd) : State → Out :=
  floatWord f.w f.d (if c.val ≥ 12 then pairOf f.a f.la else [(f.a, f.la)])
    (c.val == 4 || c.val == 5 || c.val == 8 || c.val == 9) (fcvt32 c.val r)

/-! ## Packed arithmetic (R177) -/

/-- Format and mode of a packed word. -/
def packFmt (h : Bool) : Fmt := if h then f16 else bf16
/-- Rounding of a packed word. -/
def packRnd (z : Bool) : Rnd := if z then .rz else .rne

/-- Apply an operation to both halves of three lane values. -/
def packed (h : Bool) (g : FVal → FVal → FVal → Nat × BitVec 32) (a b o : Word) : Word × BitVec 32 :=
  let half (w : Word) (hi lo : Nat) : FVal := (packFmt h).decode (natBits w.toNat hi lo)
  bothHalves (asWord (g (half a 15 0) (half b 15 0) (half o 15 0)))
    (asWord (g (half a 31 16) (half b 31 16) (half o 31 16)))

/-- FADDP. -/
def execFaddp (f : F3) (h z : Bool) : State → Out :=
  floatWord f.w f.d [(f.a, f.la), (f.b, f.lb)] false (packed h fun a b _ => (packFmt h).add (packRnd z) a b)
/-- FMULP. -/
def execFmulp (f : F3) (h z : Bool) : State → Out :=
  floatWord f.w f.d [(f.a, f.la), (f.b, f.lb)] false (packed h fun a b _ => (packFmt h).mul (packRnd z) a b)
/-- FFMAP: the old D is the addend. -/
def execFfmap (f : F3) (h z : Bool) : State → Out :=
  floatWord f.w f.d [(f.a, f.la), (f.b, f.lb)] true (packed h fun a b o => (packFmt h).fma (packRnd z) a b o)

/-! ## Lane exchange (R178) -/

/-- The lane that lane l reads. -/
def sourceLane (k : LxKind) (l : Fin 32) (n : Nat) : Fin 32 :=
  match k with
  | .sel => Fin.ofNat 32 n
  | .flip => Fin.ofNat 32 (l.val ^^^ n % 32)
  | .rotu => Fin.ofNat 32 (l.val + 32 - n % 32)
  | .rotd => Fin.ofNat 32 (l.val + n % 32)

/-- Poison in the lanes that active lanes select. -/
def selectedBad (p : Party) (a : VReg) (src : Fin 32 → Fin 32) : LaneMask :=
  maskOf fun l => p.active.has l && a.poison.has (src l)

/-- LXCH: the amount stands in B. -/
def execLxch (f : F3) (k : LxKind) : State → Out :=
  longWord f.w f.d 1 [(f.a, f.la), (f.b, f.lb)]
    (fun p a b => (b.poison &&& p.active) ||| selectedBad p a fun l => sourceLane k l b.val[l].toNat)
    fun _ a b => ([lanes fun l => a.val[sourceLane k l b.val[l].toNat]], 0)

/-- LXCHI: the amount is immediate. -/
def execLxchi (f : FLxi) : State → Out :=
  longWord f.w f.d 1 [(f.a, f.la)]
    (fun p a _ => selectedBad p a fun l => sourceLane f.k l f.n.val)
    fun _ a _ => ([lanes fun l => a.val[sourceLane f.k l f.n.val]], 0)

/-! ## Folds, masks, reductions, arg-max (R180-R182) -/

/-- The bit PFOLD computes over active lanes. -/
def foldBit (o : Fold) (act x : LaneMask) : Bool :=
  match o with
  | .and => x &&& act == act
  | .or => x &&& act != 0
  | .same => x &&& act == act || x &&& act == 0
  | .par => LaneMask.count (x &&& act) % 2 == 1

/-- PFOLD. -/
def execPfold (w : Bool) (d a : Fin 8) (o : Fold) : State → Out :=
  predOnly w d fun p => if foldBit o p.active (p.pred a) then 0xFFFFFFFF else 0

/-- PMASK and PMASK.CNT. -/
def execPmask (f : FPtoV) (c : Bool) : State → Out :=
  fillWord f.w f.d fun p _ =>
    let x := p.pred f.a &&& p.active
    if c then BitVec.ofNat 32 (LaneMask.count x) else x

/-- One level of the tree of R159: neighbours are combined, and flags are collected. -/
def treeLevel {α : Type} (op : α → α → α × BitVec 32) : List α → List α × BitVec 32
  | x :: y :: r =>
    let (z, f) := op x y
    let (zs, g) := treeLevel op r
    (z :: zs, f ||| g)
  | r => (r, 0)

/-- The tree of R159. -/
def tree {α : Type} (op : α → α → α × BitVec 32) : Nat → List α → List α × BitVec 32
  | 0, xs => (xs, 0)
  | n + 1, xs =>
    let (ys, f) := treeLevel op xs
    let (zs, g) := tree op n ys
    (zs, f ||| g)

/-- FMAX where an empty element loses to every value (R159). -/
def maxEmpty (a b : Option Word) : Option Word × BitVec 32 :=
  match a, b with
  | none, x | x, none => (x, 0)
  | some x, some y => (some (pick32 true false x y), 0)

/-- The value and flags of REDX over active lanes (R159, R181). -/
def reduce (o : Red) (act : LaneMask) (a : Lanes Word) : Word × BitVec 32 :=
  match o with
  | .fadd =>
    let (r, f) := tree (fadd32 .rne) 5 ((List.finRange 32).map fun l => if act.has l then a[l] else 0x80000000)
    (r.headD 0, f)
  | .iadd =>
    let (r, _) := tree (fun x y => (x + y, 0)) 5 ((List.finRange 32).map fun l => if act.has l then a[l] else (0 : Word))
    (r.headD 0, 0)
  | .fmax =>
    let canon (x : Word) : Word := if isNaN32 x then nan32 else x
    let (r, _) := tree maxEmpty 5 ((List.finRange 32).map fun l => if act.has l then some (canon a[l]) else none)
    match r.headD none with
    | some v => (v, 0)
    | none => (0xFF800000, 0)

/-- REDX. -/
def execRedx (f : F2) (o : Red) : State → Out :=
  longWord f.w f.d 1 [(f.a, f.la)] activeBad fun p a _ =>
    let (v, fl) := reduce o p.active a.val
    ([Vector.replicate 32 v], if p.active == 0 then 0 else fl)

/-- The winning lane of ARGMX (R182). -/
def winner (s32 : Bool) (act : LaneMask) (a : Lanes Word) : Fin 32 :=
  let better (x y : Word) : Bool :=
    if s32 then y.slt x
    else match isNaN32 x, isNaN32 y with
      | true, _ => false
      | false, true => true
      | false, false => decide (key32 x > key32 y)
  match LaneMask.lanes act with
  | [] => 0
  | l :: r => r.foldl (fun w k => if better a[k] a[w] then k else w) l

/-- ARGMX. -/
def execArgmx (f : F3) (s : Bool) : State → Out :=
  longWord f.w f.d 1 [(f.a, f.la), (f.b, f.lb)] activeBad fun p a b =>
    ([Vector.replicate 32 b.val[winner s p.active a.val]], 0)

/-! ## Sampling (R183, R184) -/

/-- RAND: key and counter are pairs. -/
def execRand (f : F3) : State → Out :=
  word f.w 1 do
    let s ← get
    let srcs := pairOf f.a f.la ++ pairOf f.b f.lb
    match f.d with
    | .q _ => raise .illi
    | .v k =>
      checkVreg (marked srcs) [k]
      let vs ← readVs (srcs.map (·.1)) []
      check ((vs.foldl (fun m v => m ||| v.poison) 0) &&& s.me.active == 0) .pois
      changeMe fun p => p.freeAll (marked srcs)
      let v (n : Nat) (l : Fin 32) : Word := (vs.getD n .zero).val[l]
      longResult k [lanes fun l => rng32 (v 1 l ++ v 0 l) (v 3 l ++ v 2 l)]

/-- GUMB. -/
def execGumb (f : F3) : State → Out :=
  longWord f.w f.d 1 [(f.a, f.la), (f.b, f.lb)] activeBad fun p a b =>
    ([lanes fun l => (gumb32 a.val[l] b.val[l]).1], flagsOver p.active fun l => (gumb32 a.val[l] b.val[l]).2)

end Sys2Proof.Machine
end

