-- ==== Sys2Proof/Machine/VecInt.lean ====
section
/-! DEFINITION. The vector integer instructions, class VI (R94-R104). -/

namespace Sys2Proof.Machine

open Sys2Proof

/-- Clamp an exact value to s32. -/
def satS32 (x : Int) : Word :=
  if x < -(2 ^ 31) then 0x80000000 else if x > 2 ^ 31 - 1 then 0x7FFFFFFF else BitVec.ofInt 32 x

/-- Clamp an exact value to u32. -/
def satU32 (x : Int) : Word :=
  if x < 0 then 0 else if x > 2 ^ 32 - 1 then 0xFFFFFFFF else BitVec.ofInt 32 x

/-- IADD in its three forms (R100). -/
def addSat (m : Sat) (a b : Word) : Word :=
  match m with
  | .wrap => a + b
  | .ss => satS32 (a.toInt + b.toInt)
  | .us => satU32 (Int.ofNat a.toNat + Int.ofNat b.toNat)

/-- ISUB in its three forms (R100). -/
def subSat (m : Sat) (a b : Word) : Word :=
  match m with
  | .wrap => a - b
  | .ss => satS32 (a.toInt - b.toInt)
  | .us => satU32 (Int.ofNat a.toNat - Int.ofNat b.toNat)

/-- IMULH (R100). -/
def mulHigh (u : Bool) (a b : Word) : Word :=
  if u then BitVec.ofNat 32 (a.toNat * b.toNat / 2 ^ 32)
  else BitVec.ofInt 32 (a.toInt * b.toInt / 2 ^ 32)

/-- IMIN and IMAX; `u` compares as u32 (R100). -/
def minWord (u : Bool) (a b : Word) : Word := if (if u then a.ule b else a.sle b) then a else b
/-- The larger. -/
def maxWord (u : Bool) (a b : Word) : Word := if (if u then b.ule a else b.sle a) then a else b

/-- The shifts: an amount of 32 or more empties the value, or fills it with the sign for SAR; ROL takes it modulo 32
(R101). -/
def shiftWord (k : ShKind) (a : Word) (n : Nat) : Word :=
  match k with
  | .left => if n ≥ 32 then 0 else a <<< n
  | .right => if n ≥ 32 then 0 else a >>> n
  | .arith => if n ≥ 32 then (if a.msb then 0xFFFFFFFF else 0) else a.sshiftRight n
  | .rot => a.rotateLeft (n % 32)

/-- Number of 1 bits (R102). -/
def popcount (a : Word) : Word := BitVec.ofNat 32 ((List.range 32).filter fun i => a.getLsbD i).length

/-- Number of leading 0 bits, 32 for 0 (R102). -/
def leadingZeros (a : Word) : Word :=
  BitVec.ofNat 32 (((List.range 32).takeWhile fun i => !a.getLsbD (31 - i)).length)

/-- Bits reversed (R102). -/
def reverseBits (a : Word) : Word := maskOf fun i => a.getLsbD (31 - i.val)

/-- mask(w) = 2^w - 1 (R102). -/
def lowMask (w : Nat) : Word := BitVec.ofNat 32 (2 ^ w - 1)

/-- Field control of BFX and BFI: position, cut width, sign bit (R102). -/
def fieldOf (c : Word) : Nat × Nat × Bool :=
  let n := c.toNat
  let pos := natBits n 4 0
  (pos, Nat.min (natBits n 13 8) (32 - pos), c.getLsbD 15)

/-- BFX (R102). -/
def bitFieldExtract (a c : Word) : Word :=
  let (pos, wid, sx) := fieldOf c
  let f := if wid == 0 then 0 else (a >>> pos) &&& lowMask wid
  if sx && decide (wid > 0) && f.getLsbD (wid - 1) then f ||| ~~~lowMask wid else f

/-- BFI (R102). -/
def bitFieldInsert (a c old : Word) : Word :=
  let (pos, wid, _) := fieldOf c
  let m := lowMask wid <<< pos
  (old &&& ~~~m) ||| ((a <<< pos) &&& m)

/-- Byte i of a word. -/
def byteOf (a : Word) (i : Nat) : Word := (a >>> (8 * i)) &&& 0xFF

/-- Result byte i of BPICK (R104). -/
def pickByte (a s old : Word) (i : Nat) : Word :=
  let c := natBits s.toNat (8 * i + 3) (8 * i)
  match c / 4 with
  | 0 => byteOf a (c % 4)
  | 1 => 0
  | 2 => byteOf old i
  | _ => 0xFF

/-- BPICK (R104). -/
def pickBytes (a s old : Word) : Word :=
  pickByte a s old 0 ||| (pickByte a s old 1 <<< 8) ||| (pickByte a s old 2 <<< 16) ||| (pickByte a s old 3 <<< 24)

/-- IADD (R100). -/
def execIadd (f : F3) (m : Sat) : State → Out := laneWord f.w f.d [(f.a, f.la), (f.b, f.lb)] false fun a b _ => addSat m a b

/-- ISUB (R100). -/
def execIsub (f : F3) (m : Sat) : State → Out := laneWord f.w f.d [(f.a, f.la), (f.b, f.lb)] false fun a b _ => subSat m a b

/-- IMUL (R100). -/
def execImul (f : F3) : State → Out := laneWord f.w f.d [(f.a, f.la), (f.b, f.lb)] false fun a b _ => a * b

/-- IMULH (R100). -/
def execImulh (f : F3) (u : Bool) : State → Out := laneWord f.w f.d [(f.a, f.la), (f.b, f.lb)] false fun a b _ => mulHigh u a b

/-- IMAD (R100). -/
def execImad (f : F3) : State → Out := laneWord f.w f.d [(f.a, f.la), (f.b, f.lb)] true fun a b o => a * b + o

/-- IMIN (R100). -/
def execImin (f : F3) (u : Bool) : State → Out := laneWord f.w f.d [(f.a, f.la), (f.b, f.lb)] false fun a b _ => minWord u a b

/-- IMAX (R100). -/
def execImax (f : F3) (u : Bool) : State → Out := laneWord f.w f.d [(f.a, f.la), (f.b, f.lb)] false fun a b _ => maxWord u a b

/-- IABS (R100). -/
def execIabs (f : F2) : State → Out := laneWord f.w f.d [(f.a, f.la)] false fun a _ _ => if a.msb then 0 - a else a

/-- AND (R101). -/
def execAnd (f : F3) : State → Out := laneWord f.w f.d [(f.a, f.la), (f.b, f.lb)] false fun a b _ => a &&& b

/-- OR (R101). -/
def execOr (f : F3) : State → Out := laneWord f.w f.d [(f.a, f.la), (f.b, f.lb)] false fun a b _ => a ||| b

/-- XOR (R101). -/
def execXor (f : F3) : State → Out := laneWord f.w f.d [(f.a, f.la), (f.b, f.lb)] false fun a b _ => a ^^^ b

/-- ANDN (R101). -/
def execAndn (f : F3) : State → Out := laneWord f.w f.d [(f.a, f.la), (f.b, f.lb)] false fun a b _ => a &&& ~~~b

/-- SHL (R101). -/
def execShl (f : F3) : State → Out :=
  laneWord f.w f.d [(f.a, f.la), (f.b, f.lb)] false fun a b _ => shiftWord .left a b.toNat

/-- SHR (R101). -/
def execShr (f : F3) : State → Out :=
  laneWord f.w f.d [(f.a, f.la), (f.b, f.lb)] false fun a b _ => shiftWord .right a b.toNat

/-- SAR (R101). -/
def execSar (f : F3) : State → Out :=
  laneWord f.w f.d [(f.a, f.la), (f.b, f.lb)] false fun a b _ => shiftWord .arith a b.toNat

/-- ROL (R101). -/
def execRol (f : F3) : State → Out :=
  laneWord f.w f.d [(f.a, f.la), (f.b, f.lb)] false fun a b _ => shiftWord .rot a b.toNat

/-- POPC (R102). -/
def execPopc (f : F2) : State → Out := laneWord f.w f.d [(f.a, f.la)] false fun a _ _ => popcount a

/-- CLZ (R102). -/
def execClz (f : F2) : State → Out := laneWord f.w f.d [(f.a, f.la)] false fun a _ _ => leadingZeros a

/-- BREV (R102). -/
def execBrev (f : F2) : State → Out := laneWord f.w f.d [(f.a, f.la)] false fun a _ _ => reverseBits a

/-- BFX (R102). -/
def execBfx (f : F3) : State → Out := laneWord f.w f.d [(f.a, f.la), (f.b, f.lb)] false fun a b _ => bitFieldExtract a b

/-- BFI (R102). -/
def execBfi (f : F3) : State → Out := laneWord f.w f.d [(f.a, f.la), (f.b, f.lb)] true fun a b o => bitFieldInsert a b o

/-- ISETS (R103). -/
def execIsets (f : FP3) (c : Cmp) : State → Out := predWord f.w f.d [(f.a, f.la), (f.b, f.lb)] (Cmp.signed c)

/-- ISETU (R103). -/
def execIsetu (f : FP3) (c : Cmp) : State → Out := predWord f.w f.d [(f.a, f.la), (f.b, f.lb)] (Cmp.unsigned c)

/-- SEL (R103). -/
def execSel (f : F3) (p : Fin 4) : State → Out :=
  word f.w 1 do
    let s ← get
    let (a, b, _) ← laneReads (namesOf f.d) f.d [(f.a, f.la), (f.b, f.lb)] false
    let m := s.me.pred ⟨p.val, by omega⟩
    writeDest f.d (.clean fun l => if m.has l then a.val[l] else b.val[l])

/-- MOV (R104). -/
def execMov (f : F2) : State → Out := laneWord f.w f.d [(f.a, f.la)] false fun a _ _ => a

/-- BPICK (R104). -/
def execBpick (f : F3) : State → Out := laneWord f.w f.d [(f.a, f.la), (f.b, f.lb)] true fun a b o => pickBytes a b o

/-- PLOP (R103). -/
def execPlop (f : FPred) (o : POp) : State → Out := predOnly f.w f.d fun p => POp.apply o (p.pred f.a) (p.pred f.b)

/-- PMOV with B = 0 (R103). -/
def execPmovToP (f : FVtoP) : State → Out := predWord f.w f.d [(f.a, f.la)] fun a _ => a != 0

/-- PMOV with B = 1 (R103). -/
def execPmovToV (f : FPtoV) : State → Out := fillWord f.w f.d fun p l => if (p.pred f.a).has l then 1 else 0

/-- IADDI (R100). -/
def execIaddi (f : FImm) : State → Out := laneWord f.w f.d [(f.a, f.la)] false fun a _ _ => a + sext32 f.imm

/-- SHI (R101). -/
def execShi (f : FShift) : State → Out := laneWord f.w f.d [(f.a, f.la)] false fun a _ _ => shiftWord f.k a f.n.val

/-- ANDI (R101). -/
def execAndi (f : FImm) : State → Out := laneWord f.w f.d [(f.a, f.la)] false fun a _ _ => a &&& sext32 f.imm

/-- MOVI (R104). -/
def execMovi (w : Bool) (d : VOp) (i : BitVec 18) : State → Out := fillWord w d fun _ _ => sext32 i

/-- MOVHI (R104). -/
def execMovhi (w : Bool) (d : VOp) (i : BitVec 14) : State → Out :=
  laneWord w d [] true fun _ _ o => (i.zeroExtend 32 <<< 18) ||| (o &&& 0x3FFFF)

end Sys2Proof.Machine
end

