-- ==== Sys2Proof/Machine/Vote.lean ====
section
/-! DEFINITION. Which gang or thread a scheduler selects and what the vote gives its ports (R77, R78, R336, R337, R342), with
the fetch and check of clauses (R59, R81, R84) and breakpoints (R409). -/

namespace Sys2Proof.Machine

open Sys2Proof

/-! ## Fetching a clause -/

/-- Fetch n words from an offset on. -/
def State.fetchWords (s : State) (off : Nat) : Nat → Except Cause (State × List Word)
  | 0 => pure (s, [])
  | n + 1 => do
    let (s1, w) ← s.fetchWord off
    let (s2, ws) ← s1.fetchWords (off + 4) n
    pure (s2, w :: ws)

/-- Fetch the clause at an offset and check it for reserved encodings (R59, R81). -/
def State.fetchClause (s : State) (pc : Nat) : Except Cause (State × Header × List Word) := do
  if pc % 4 != 0 || decide (pc > 0xFFFFFFF8) then throw .illi
  let (s1, w) ← s.fetchWord pc
  match headerFor s.me.role w with
  | none => throw .illi
  | some h =>
    let (s2, ws) ← s1.fetchWords (pc + 4) h.n
    match decodeClause s.me.role h ws with
    | .error _ => throw .illi
    | .ok _ => pure (s2, h, ws)

/-- Targets of FB branch words in a clause (R78). -/
def fbTargets (r : Role) (pc : Nat) (h : Header) (ws : List Word) : List Word :=
  match decodeClause r h ws with
  | .error _ => []
  | .ok is => is.filterMap fun x => match x.2 with
    | .bra f | .call f => some (BitVec.ofInt 32 (pc + 4 + 4 * x.1 + 4 * f.off.toInt))
    | _ => none

/-- A fault at the fetch of lanes (R59, R84, R381). EPCV holds the header's offset, as R59 says, and not the offset of a reserved word
inside the clause, which R164 and its like would give (log 81). A lane that a RET sent to an offset that is no legal target stands at the
RET word, and EPCV says so (R84). XLAT and PERM make the party replayable. In a handler other causes kill the gang (R384). -/
def State.fetchFault (s : State) (lanesOf : LaneMask) (c : Cause) : State :=
  let p := s.me
  let bad (l : Fin 32) : Bool := lanesOf.has l && p.retFrom[l] != 0xFFFFFFFF && s.targetCause p.pcv[l].toNat == some .illi
  let q := { p with
    cause := p.cause &&& ~~~replayMask
    pcv := lanes fun l => if bad l then p.retFrom[l] else p.pcv[l]
    retFrom := lanes fun l => if lanesOf.has l then 0xFFFFFFFF else p.retFrom[l]
    epcv := if p.handler.isSome then p.epcv else lanes fun l => if bad l then p.retFrom[l] else if lanesOf.has l then p.pcv[l] else p.epcv[l] }
  let from0 := p.base + (((LaneMask.lanes lanesOf).head?.map fun l => p.pcv[l].toNat).getD 0)
  let word := (rangeFrom from0 4 9).find? fun a => match s.fetchAt (a % 2 ^ 64) with | .error x => x == c | .ok _ => false
  let t := (s.reportFault c (word.map fun a => (a % 2 ^ 64, .fetch))).setMe (q.setCause c)
  if c.mask &&& replayMask != 0 then t.setMe { ({ p with cause := p.cause &&& ~~~replayMask } : Party).setCause c with replayable := true }
  else if p.handler.isSome && c.mask &&& p.causem != 0 then t.killMe
  else t.deliver

/-! ## Breakpoints (R409) -/

/-- The armed breakpoint that a port about to issue a clause matches. -/
def State.bkptAt (s : State) (p : Party) (pc : Nat) (m : LaneMask) : Option Bkpt :=
  let va := (p.base + pc) % 2 ^ 64
  if p.isThread || p.bkptPast.contains va then none
  else s.debug[p.part].bkpts.toList.find? fun b => b.armed && b.va == va && b.asid == p.asid && b.lanes &&& m != 0

/-- Take a breakpoint of the primary or the secondary port: the port halts at the header, and an EVENT record names the port (R406). BRKP is a
synchronous cause of the word: in a handler it kills the gang where it is enabled (R384). -/
def State.takeBkpt (s : State) (b : Bkpt) (second : Bool) : State :=
  let at0 := s.setMe { s.me with port := { s.me.port with secondary := second } }
  let s1 := (at0.traceEvent 8 (if b.brkp then 11 else 12)).setMe s.me
  let p := { s1.me with bkptPast := b.va :: s1.me.bkptPast }
  let t := s1.setMe (p.setCause (if b.brkp then .brkp else .halt))
  if b.brkp && p.handler.isSome && Cause.mask .brkp &&& p.causem != 0 then t.killMe else t.deliver

/-! ## The vote -/

/-- Lanes of a mask at a PC. -/
def Party.at (p : Party) (pc : Word) : LaneMask := maskOf fun l => p.live.has l && p.pcv[l] == pc

/-- The lowest PC of live lanes, above a bound when one is given. -/
def Party.lowest (p : Party) (above : Option Word) : Option Word :=
  ((LaneMask.lanes p.live).map fun l => p.pcv[l]).foldl (fun (m : Option Word) x =>
    if above.any (fun b => x.ule b) then m
    else match m with | none => some x | some y => if x.ult y then some x else some y) none

/-- A port that takes a clause; the guard is sampled here (R46, R77). -/
def Party.take (p : Party) (pc : Nat) (h : Header) (ws : List Word) (m : LaneMask) (second : Bool) : Port :=
  { Port.free with
    held := true, secondary := second, head := pc, hdr := h, words := ws, lanes := m
    active := m &&& (p.pred h.gp ^^^ (if h.gi then 0xFFFFFFFF else 0)) }

/-- A SYNC record at a vote in which k ports issue a clause, where one is due: none has been written since what R408 names, or the ports have
issued 4096 clauses since the last (R406, R408). -/
def State.traceSync (s : State) (pc k : Nat) : State :=
  let p := s.me
  if !s.debugBit p.part 2 || !s.debugBit p.part 0 then s.setMe { p with sync := none, synced := false }
  else if p.sync.any (· < 4096) then s.setMe { p with sync := p.sync.map (· + k) }
  else (s.trace 0x04 (le8 (p.base + pc) ++ le8 p.ident.toNat ++ p.pcv.toList.flatMap fun x => bytesLE 4 x.toNat)).setMe
    { p with sync := some k, synced := true }

/-- The vote of the party at the issue slot, both of whose ports are free (R77, R78). A fetch that passes clears the XLAT or PERM it was
retried for (R381). -/
def State.voteMe (s0 : State) : State :=
  let s := s0.setMe { s0.me with votes := s0.me.votes + 1, yielding := none }
  let p := s.me
  match p.lowest none with
  | none => s0
  | some p1 =>
    let m1 := p.at p1
    match s.fetchClause p1.toNat with
    | .error c => s.fetchFault m1 c
    | .ok (s1, h1, ws1) =>
      let skip := BitVec.ofNat 32 (p1.toNat + 4 + 4 * h1.n) :: fbTargets p.role p1.toNat h1 ws1
      let second := match p.lowest (some p1) with
        | none => none
        | some p2 => if skip.contains p2 then none else some p2
      let both : Except (LaneMask × Cause) (State × Port × LaneMask) := match second with
        | none => .ok (s1, .free, m1)
        | some p2 =>
          let m2 := p.at p2
          match s1.fetchClause p2.toNat with
          | .error c => .error (m2, c)
          | .ok (s2, h2, ws2) => .ok (s2, p.take p2.toNat h2 ws2 m2 true, m1 ||| m2)
      match both with
      | .error (m2, c) => s.fetchFault m2 c
      | .ok (s2, mate, m) =>
        let hit := match s2.bkptAt p p1.toNat m1 with
          | some b => some (b, false)
          | none => (second.bind fun p2 => s2.bkptAt p p2.toNat (p.at p2)).map fun b => (b, true)
        match hit with
        | some (b, k) => s2.takeBkpt b k
        | none =>
          let s3 := s2.traceSync p1.toNat (1 + second.isSome.toNat)
          let q := s3.me
          let heads := [(p.base + p1.toNat) % 2 ^ 64] ++ (second.map fun p2 => (p.base + p2.toNat) % 2 ^ 64).toList
          s3.setMe { q with
            port := p.take p1.toNat h1 ws1 m1 false
            mate
            issued := p.issued ||| m
            retFrom := lanes fun l => if m.has l then 0xFFFFFFFF else p.retFrom[l]
            cause := q.cause &&& ~~~replayMask
            bkptPast := q.bkptPast.filter fun va => !heads.contains va }

/-! ## Selection (R336) -/

/-- The next word of a port may be tried. -/
def Port.runnable (q : Port) : Bool := q.held && !q.halted && q.wait.isNone && !q.stall

/-- A word of the party is in a wait (R255, R336); a RET whose refills have not returned is in none. -/
def Party.inWait (p : Party) : Bool :=
  [p.port, p.mate].any fun q => match q.wait with
    | none | some (.refill _) => false
    | some _ => true

/-- The header's waits let the port issue (R47). -/
def Party.portReady (p : Party) (q : Port) : Bool := q.runnable && (q.started || p.waitsMet q.hdr)

/-- A pre-emption that stops the party is pending, and the party stands where it is taken: a vote boundary, for an M-thread after an
MSYNC with PP = 1 (R213, R388-R391). -/
def State.preempting (s : State) (p : Party) : Bool :=
  p.handler.isNone && (p.atPoint || (p.role != .mThread && !p.port.held && !p.mate.held)) &&
    (s.crews.any fun c => c.isOf p && match c.prmp with
    | some (_, a) => a != 1
    | none => false)

/-- A cause that the party is to take where it stands waits for room in the journal: nothing of it issues (R405). -/
def State.stuck (s : State) (p : Party) : Bool :=
  p.due != 0 && s.asyncFull p && ((!p.port.held && !p.mate.held) || (p.isThread && p.port.micro.isNone))

/-- Nothing but its own words keeps the party from issuing: it is resident and not stopped, its die runs, and no pre-emption and no journal
entry holds it. -/
def State.able (s : State) (p : Party) : Bool :=
  p.live != 0 && !p.switchedOut && !p.halted && !p.stopped && !p.replayable && !(s.die p.die).busy && !(s.die p.die).failed &&
    !s.preempting p && !s.stuck p

/-- The party can issue or be voted: not while a word of it waits, nor while each of its ports in a clause is held (R336, R307). -/
def State.eligible (s : State) (p : Party) : Bool :=
  s.able p && !p.inWait && ((!p.port.held && !p.mate.held) || p.portReady p.port || p.portReady p.mate)

/-- Scheduler a party belongs to: 4 * core + k, or 2048 + cluster. -/
def Party.scheduler (p : Party) : Nat := if p.isThread then 2048 + p.cluster else 4 * p.core + p.sched

/-- A yielding gang is eligible again once 8 cycles have passed; a yielding thread lets the other one issue first (R342). -/
def State.yieldOver (s : State) (p : Party) : Bool := p.yielding.all fun n => p.isThread || decide (n ≤ (s.die p.die).cycr.toNat)

/-- The party a scheduler selects: round-robin after the last one, parties that yield coming after the others (R336, R342). -/
def State.select (s : State) (c : Nat) : Option Ident :=
  let mine := sortBy (fun x y => x.ident.ule y.ident) (s.parties.filter fun p => p.scheduler == c && s.eligible p)
  let ready := mine.filter (·.yielding.isNone)
  let pool := if ready.isEmpty then mine.filter s.yieldOver else ready
  let last := if c < 2048 then (s.core (c / 4)).lastSel[c % 4]?.getD 0
    else if (s.cluster (c - 2048)).lastThread then 2 ^ 65 else 0
  if c < 2048 then
    match pool.find? fun p => decide (p.ident.toNat + 1 > last) with
    | some p => some p.ident
    | none => pool.head?.map (·.ident)
  else
    match pool.find? fun p => (p.role == .mThread) == (s.cluster (c - 2048)).lastThread with
    | some p => some p.ident
    | none => pool.head?.map (·.ident)

/-- Remember a selection (R336); another party's yield ends with it (R342). -/
def State.noteSelect (s : State) (c : Nat) (i : Ident) : State :=
  let clear (p : Party) : Party := if p.scheduler == c && p.ident != i then { p with yielding := none } else p
  let s1 : State := { s with others := s.others.map clear }
  if c < 2048 then s1.changeCore (c / 4) fun x => { x with lastSel := x.lastSel.setIfInBounds (c % 4) (i.toNat + 1) }
  else s1.changeCluster (c - 2048) fun x => { x with lastThread := s1.me.role == .cThread }

/-- The port whose word issues first stands at the issue slot: the primary port when its word can issue, else the secondary port (R77, R79).
-/
def Party.frontPort (p : Party) : Party :=
  let q := if p.port.secondary then p.swapPorts else p
  if !q.portReady q.port && q.portReady q.mate then q.swapPorts else if q.port.held then q else p

/-- VOTE of a scheduler: its selected party comes to the issue slot, its primary port first; pending causes are taken at a vote boundary,
and with both ports free the party is voted (R77, R79, R336, R380). -/
def execVote (c : Nat) (s : State) : Out :=
  match s.select c with
  | none => .next s
  | some i =>
    let s1 := (s.focus i).noteSelect c i
    let p := s1.me
    let s2 := { s1 with fresh := s1.fresh + 1 }
    if p.port.held || p.mate.held then .next (s2.setMe p.frontPort)
    else
      let s3 := s2.deliverAsync
      if s3.me == p then .next s3.voteMe else .next s3

end Sys2Proof.Machine
end

