-- ==== Sys2Proof/Machine/Dispatch.lean ====
section
/-! DEFINITION. One arm per instruction and event: a direct call of its meaning. -/

namespace Sys2Proof.Machine

open Sys2Proof

/-- The meaning of every instruction and event. -/
def exec (i : Instr) (s : State) : Host.Outcome State Fault Refusal :=
  match i with
  | .iadd f m => Sys2Proof.Machine.execIadd f m s
  | .isub f m => Sys2Proof.Machine.execIsub f m s
  | .imul f => Sys2Proof.Machine.execImul f s
  | .imulh f u => Sys2Proof.Machine.execImulh f u s
  | .imad f => Sys2Proof.Machine.execImad f s
  | .imin f u => Sys2Proof.Machine.execImin f u s
  | .imax f u => Sys2Proof.Machine.execImax f u s
  | .iabs f => Sys2Proof.Machine.execIabs f s
  | .and f => Sys2Proof.Machine.execAnd f s
  | .or f => Sys2Proof.Machine.execOr f s
  | .xor f => Sys2Proof.Machine.execXor f s
  | .andn f => Sys2Proof.Machine.execAndn f s
  | .shl f => Sys2Proof.Machine.execShl f s
  | .shr f => Sys2Proof.Machine.execShr f s
  | .sar f => Sys2Proof.Machine.execSar f s
  | .rol f => Sys2Proof.Machine.execRol f s
  | .popc f => Sys2Proof.Machine.execPopc f s
  | .clz f => Sys2Proof.Machine.execClz f s
  | .brev f => Sys2Proof.Machine.execBrev f s
  | .bfx f => Sys2Proof.Machine.execBfx f s
  | .bfi f => Sys2Proof.Machine.execBfi f s
  | .isets f c => Sys2Proof.Machine.execIsets f c s
  | .isetu f c => Sys2Proof.Machine.execIsetu f c s
  | .sel f p => Sys2Proof.Machine.execSel f p s
  | .mov f => Sys2Proof.Machine.execMov f s
  | .bpick f => Sys2Proof.Machine.execBpick f s
  | .plop f o => Sys2Proof.Machine.execPlop f o s
  | .pmovToP f => Sys2Proof.Machine.execPmovToP f s
  | .pmovToV f => Sys2Proof.Machine.execPmovToV f s
  | .iaddi f => Sys2Proof.Machine.execIaddi f s
  | .shi f => Sys2Proof.Machine.execShi f s
  | .andi f => Sys2Proof.Machine.execAndi f s
  | .movi w d imm => Sys2Proof.Machine.execMovi w d imm s
  | .movhi w d imm => Sys2Proof.Machine.execMovhi w d imm s
  | .fadd f r => Sys2Proof.Machine.execFadd f r s
  | .fsub f r => Sys2Proof.Machine.execFsub f r s
  | .fmul f r => Sys2Proof.Machine.execFmul f r s
  | .ffma f r => Sys2Proof.Machine.execFfma f r s
  | .fmin f n => Sys2Proof.Machine.execFmin f n s
  | .fmax f n => Sys2Proof.Machine.execFmax f n s
  | .fmov f o => Sys2Proof.Machine.execFmov f o s
  | .fsetp f c => Sys2Proof.Machine.execFsetp f c s
  | .frcp f => Sys2Proof.Machine.execFrcp f s
  | .frsq f => Sys2Proof.Machine.execFrsq f s
  | .fsqrt f => Sys2Proof.Machine.execFsqrt f s
  | .fexp2 f => Sys2Proof.Machine.execFexp2 f s
  | .flog2 f => Sys2Proof.Machine.execFlog2 f s
  | .fred f => Sys2Proof.Machine.execFred f s
  | .fsinr f => Sys2Proof.Machine.execFsinr f s
  | .fcosr f => Sys2Proof.Machine.execFcosr f s
  | .fcvt f c r => Sys2Proof.Machine.execFcvt f c r s
  | .faddp f h z => Sys2Proof.Machine.execFaddp f h z s
  | .fmulp f h z => Sys2Proof.Machine.execFmulp f h z s
  | .ffmap f h z => Sys2Proof.Machine.execFfmap f h z s
  | .fclass f => Sys2Proof.Machine.execFclass f s
  | .fscale f r => Sys2Proof.Machine.execFscale f r s
  | .lxch f k => Sys2Proof.Machine.execLxch f k s
  | .lxchi f => Sys2Proof.Machine.execLxchi f s
  | .pfold w d a o => Sys2Proof.Machine.execPfold w d a o s
  | .pmask f c => Sys2Proof.Machine.execPmask f c s
  | .redx f o => Sys2Proof.Machine.execRedx f o s
  | .argmx f x => Sys2Proof.Machine.execArgmx f x s
  | .rand f => Sys2Proof.Machine.execRand f s
  | .gumb f => Sys2Proof.Machine.execGumb f s
  | .ldb f => Sys2Proof.Machine.execLdb f s
  | .ldbs f => Sys2Proof.Machine.execLdbs f s
  | .ldh f => Sys2Proof.Machine.execLdh f s
  | .ldhs f => Sys2Proof.Machine.execLdhs f s
  | .ldw f => Sys2Proof.Machine.execLdw f s
  | .ldd f => Sys2Proof.Machine.execLdd f s
  | .ldq f => Sys2Proof.Machine.execLdq f s
  | .stb f => Sys2Proof.Machine.execStb f s
  | .sth f => Sys2Proof.Machine.execSth f s
  | .stw f => Sys2Proof.Machine.execStw f s
  | .std f => Sys2Proof.Machine.execStd f s
  | .stq f => Sys2Proof.Machine.execStq f s
  | .aadd f => Sys2Proof.Machine.execAadd f s
  | .amin f => Sys2Proof.Machine.execAmin f s
  | .amax f => Sys2Proof.Machine.execAmax f s
  | .aminu f => Sys2Proof.Machine.execAminu f s
  | .amaxu f => Sys2Proof.Machine.execAmaxu f s
  | .aand f => Sys2Proof.Machine.execAand f s
  | .aor f => Sys2Proof.Machine.execAor f s
  | .axor f => Sys2Proof.Machine.execAxor f s
  | .axch f => Sys2Proof.Machine.execAxch f s
  | .acas f => Sys2Proof.Machine.execAcas f s
  | .afadd f => Sys2Proof.Machine.execAfadd f s
  | .fence w k x => Sys2Proof.Machine.execFence w k x s
  | .mon w a x1 x => Sys2Proof.Machine.execMon w a x1 x s
  | .mwait w x => Sys2Proof.Machine.execMwait w x s
  | .pref w l e a x1 x => Sys2Proof.Machine.execPref w l e a x1 x s
  | .cmo w o l x => Sys2Proof.Machine.execCmo w o l x s
  | .claim w x => Sys2Proof.Machine.execClaim w x s
  | .smap w n x => Sys2Proof.Machine.execSmap w n x s
  | .sunmap w n x => Sys2Proof.Machine.execSunmap w n x s
  | .mqput w d x1 x o => Sys2Proof.Machine.execMqput w d x1 x o s
  | .mqget w d x o => Sys2Proof.Machine.execMqget w d x o s
  | .vspill w d x1 x => Sys2Proof.Machine.execVspill w d x1 x s
  | .vfill w d x => Sys2Proof.Machine.execVfill w d x s
  | .dwopen w c x => Sys2Proof.Machine.execDwopen w c x s
  | .dwacc w x => Sys2Proof.Machine.execDwacc w x s
  | .bar w k x o => Sys2Proof.Machine.execBar w k x o s
  | .bra f => Sys2Proof.Machine.execBra f s
  | .brx w a l => Sys2Proof.Machine.execBrx w a l s
  | .call f => Sys2Proof.Machine.execCall f s
  | .callx w a l => Sys2Proof.Machine.execCallx w a l s
  | .ret w => Sys2Proof.Machine.execRet w s
  | .exit w => Sys2Proof.Machine.execExit w s
  | .mcall w n p q t => Sys2Proof.Machine.execMcall w n p q t s
  | .nop w => Sys2Proof.Machine.execNop w s
  | .sread w d n => Sys2Proof.Machine.execSread w d n s
  | .swrite w a n => Sys2Proof.Machine.execSwrite w a n s
  | .icinv w a b m => Sys2Proof.Machine.execIcinv w a b m s
  | .tmark w imm => Sys2Proof.Machine.execTmark w imm s
  | .rdv w d v x => Sys2Proof.Machine.execRdv w d v x s
  | .sleept w a imm => Sys2Proof.Machine.execSleept w a imm s
  | .yield w => Sys2Proof.Machine.execYield w s
  | .wdog w a => Sys2Proof.Machine.execWdog w a s
  | .trap w imm => Sys2Proof.Machine.execTrap w imm s
  | .rte w => Sys2Proof.Machine.execRte w s
  | .cclr w imm => Sys2Proof.Machine.execCclr w imm s
  | .bkpt w imm => Sys2Proof.Machine.execBkpt w imm s
  | .halt w => Sys2Proof.Machine.execHalt w s
  | .sadd f => Sys2Proof.Machine.execSadd f s
  | .ssub f => Sys2Proof.Machine.execSsub f s
  | .smul f => Sys2Proof.Machine.execSmul f s
  | .smulh f => Sys2Proof.Machine.execSmulh f s
  | .sdivu f => Sys2Proof.Machine.execSdivu f s
  | .sand f => Sys2Proof.Machine.execSand f s
  | .sor f => Sys2Proof.Machine.execSor f s
  | .sxor f => Sys2Proof.Machine.execSxor f s
  | .sshl f => Sys2Proof.Machine.execSshl f s
  | .sshr f => Sys2Proof.Machine.execSshr f s
  | .ssar f => Sys2Proof.Machine.execSsar f s
  | .smin f => Sys2Proof.Machine.execSmin f s
  | .smax f => Sys2Proof.Machine.execSmax f s
  | .sset f c => Sys2Proof.Machine.execSset f c s
  | .saddi w d a imm => Sys2Proof.Machine.execSaddi w d a imm s
  | .smovi w d imm => Sys2Proof.Machine.execSmovi w d imm s
  | .slit w d m lit => Sys2Proof.Machine.execSlit w d m lit s
  | .sbra w z a imm => Sys2Proof.Machine.execSbra w z a imm s
  | .sld w d a imm => Sys2Proof.Machine.execSld w d a imm s
  | .sst w d a imm => Sys2Proof.Machine.execSst w d a imm s
  | .sv2s w d a n => Sys2Proof.Machine.execSv2s w d a n s
  | .ss2v w d a h => Sys2Proof.Machine.execSs2v w d a h s
  | .wload w a b c => Sys2Proof.Machine.execWload w a b c s
  | .wswap w => Sys2Proof.Machine.execWswap w s
  | .azero w g b => Sys2Proof.Machine.execAzero w g b s
  | .mma w a b c m => Sys2Proof.Machine.execMma w a b c m s
  | .mmaq w q b m => Sys2Proof.Machine.execMmaq w q b m s
  | .mmag w c b u => Sys2Proof.Machine.execMmag w c b u s
  | .again w a b => Sys2Proof.Machine.execAgain w a b s
  | .ascan w a k b => Sys2Proof.Machine.execAscan w a k b s
  | .carryld w a b z => Sys2Proof.Machine.execCarryld w a b z s
  | .carryst w a b => Sys2Proof.Machine.execCarryst w a b s
  | .drain w a b c m => Sys2Proof.Machine.execDrain w a b c m s
  | .drainq w q b m => Sys2Proof.Machine.execDrainq w q b m s
  | .draing w d a b c => Sys2Proof.Machine.execDraing w d a b c s
  | .draingQ w d q b c => Sys2Proof.Machine.execDraingQ w d q b c s
  | .msync w p k x => Sys2Proof.Machine.execMsync w p k x s
  | .mstat w d c => Sys2Proof.Machine.execMstat w d c s
  | .cpy w d a => Sys2Proof.Machine.execCpy w d a s
  | .cpyr w d a => Sys2Proof.Machine.execCpyr w d a s
  | .gath w d a => Sys2Proof.Machine.execGath w d a s
  | .scat w d a => Sys2Proof.Machine.execScat w d a s
  | .jwait w n => Sys2Proof.Machine.execJwait w n s
  | .jstat w d c => Sys2Proof.Machine.execJstat w d c s
  | .enq f => Sys2Proof.Machine.execEnq f s
  | .swriteTdead w a => Sys2Proof.Machine.execSwriteTdead w a s
  | .swriteChkmode w a => Sys2Proof.Machine.execSwriteChkmode w a s
  | .swriteInj w a => Sys2Proof.Machine.execSwriteInj w a s
  | .swriteDvfsreq w a => Sys2Proof.Machine.execSwriteDvfsreq w a s
  | .swriteCauseset w a => Sys2Proof.Machine.execSwriteCauseset w a s
  | .vote c => Sys2Proof.Machine.execVote c s
  | .longResultWriteback p n => Sys2Proof.Machine.execLongResultWriteback p n s
  | .storePerformed p n => Sys2Proof.Machine.execStorePerformed p n s
  | .releaseComplete p n => Sys2Proof.Machine.execReleaseComplete p n s
  | .reorderCheck c => Sys2Proof.Machine.execReorderCheck c s
  | .intervalCheck l k imm => Sys2Proof.Machine.execIntervalCheck l k imm s
  | .horizonBroadcast t => Sys2Proof.Machine.execHorizonBroadcast t s
  | .lineEviction u l => Sys2Proof.Machine.execLineEviction u l s
  | .engineJobStart j => Sys2Proof.Machine.execEngineJobStart j s
  | .copyJobComplete j r => Sys2Proof.Machine.execCopyJobComplete j r s
  | .matrixJobComplete j => Sys2Proof.Machine.execMatrixJobComplete j s
  | .promiseMissed j => Sys2Proof.Machine.execPromiseMissed j s
  | .timerExpiry p => Sys2Proof.Machine.execTimerExpiry p s
  | .watchdogExpiry p => Sys2Proof.Machine.execWatchdogExpiry p s
  | .mwaitWake p => Sys2Proof.Machine.execMwaitWake p s
  | .mwaitTimeout p => Sys2Proof.Machine.execMwaitTimeout p s
  | .sleeptEnd p => Sys2Proof.Machine.execSleeptEnd p s
  | .barWaitEnd p => Sys2Proof.Machine.execBarWaitEnd p s
  | .jwaitEnd p => Sys2Proof.Machine.execJwaitEnd p s
  | .rdvReady p => Sys2Proof.Machine.execRdvReady p s
  | .causeDelivery p => Sys2Proof.Machine.execCauseDelivery p s
  | .replayRetry p => Sys2Proof.Machine.execReplayRetry p s
  | .gangRetire p => Sys2Proof.Machine.execGangRetire p s
  | .killRequest p => Sys2Proof.Machine.execKillRequest p s
  | .doorbell q t => Sys2Proof.Machine.execDoorbell q t s
  | .nopCommand q => Sys2Proof.Machine.execNopCommand q s
  | .launch q => Sys2Proof.Machine.execLaunch q s
  | .waitsem q => Sys2Proof.Machine.execWaitsem q s
  | .signal q => Sys2Proof.Machine.execSignal q s
  | .semaphoreChange q => Sys2Proof.Machine.execSemaphoreChange q s
  | .semaphorePoll q => Sys2Proof.Machine.execSemaphorePoll q s
  | .stageFinish b g => Sys2Proof.Machine.execStageFinish b g s
  | .bundleRetire b => Sys2Proof.Machine.execBundleRetire b s
  | .crewAdmit b g c u => Sys2Proof.Machine.execCrewAdmit b g c u s
  | .crewSteal d u => Sys2Proof.Machine.execCrewSteal d u s
  | .queueStallPreempt b g c => Sys2Proof.Machine.execQueueStallPreempt b g c s
  | .preemptRequest b g c => Sys2Proof.Machine.execPreemptRequest b g c s
  | .drainTimeout b g c => Sys2Proof.Machine.execDrainTimeout b g c s
  | .preemptWithdraw b g c => Sys2Proof.Machine.execPreemptWithdraw b g c s
  | .flush b g c => Sys2Proof.Machine.execFlush b g c s
  | .save b g c => Sys2Proof.Machine.execSave b g c s
  | .crewRestore b g c u => Sys2Proof.Machine.execCrewRestore b g c u s
  | .instanceRestore b g c u => Sys2Proof.Machine.execInstanceRestore b g c u s
  | .relockStart d => Sys2Proof.Machine.execRelockStart d s
  | .relockEnd d => Sys2Proof.Machine.execRelockEnd d s
  | .powerLimitCheck d => Sys2Proof.Machine.execPowerLimitCheck d s
  | .thermalLimit d => Sys2Proof.Machine.execThermalLimit d s
  | .thermalRestore d => Sys2Proof.Machine.execThermalRestore d s
  | .corePowerGate c => Sys2Proof.Machine.execCorePowerGate c s
  | .corePowerUp c => Sys2Proof.Machine.execCorePowerUp c s
  | .dieFailure d => Sys2Proof.Machine.execDieFailure d s
  | .hostMemoryAccess a => Sys2Proof.Machine.execHostMemoryAccess a s
  | .peerInboundAccess a => Sys2Proof.Machine.execPeerInboundAccess a s
  | .claimMove p n => Sys2Proof.Machine.execClaimMove p n s
  | .controlStoreWrite c o v => Sys2Proof.Machine.execControlStoreWrite c o v s
  | .ascreate t => Sys2Proof.Machine.execAscreate t s
  | .asdestroy a => Sys2Proof.Machine.execAsdestroy a s
  | .map a va e lv => Sys2Proof.Machine.execMap a va e lv s
  | .unmap a va lv => Sys2Proof.Machine.execUnmap a va lv s
  | .unmapComplete a va lv => Sys2Proof.Machine.execUnmapComplete a va lv s
  | .keynew t => Sys2Proof.Machine.execKeynew t s
  | .keyretire k => Sys2Proof.Machine.execKeyretire k s
  | .partset ms ks => Sys2Proof.Machine.execPartset ms ks s
  | .peeropen o pa len k rw => Sys2Proof.Machine.execPeeropen o pa len k rw s
  | .peerclose o n => Sys2Proof.Machine.execPeerclose o n s
  | .dvfsset d x => Sys2Proof.Machine.execDvfsset d x s
  | .svnset v => Sys2Proof.Machine.execSvnset v s
  | .coldStart e => Sys2Proof.Machine.execColdStart e s
  | .warmStartPackage e => Sys2Proof.Machine.execWarmStartPackage e s
  | .warmStartPartition m e => Sys2Proof.Machine.execWarmStartPartition m e s
  | .debugHalt t c => Sys2Proof.Machine.execDebugHalt t c s
  | .debugResume t c => Sys2Proof.Machine.execDebugResume t c s
  | .debugDump t c => Sys2Proof.Machine.execDebugDump t c s
  | .sinkheadWrite t v => Sys2Proof.Machine.execSinkheadWrite t v s
  | .jrnheadWrite t v => Sys2Proof.Machine.execJrnheadWrite t v s
  | .sampleTick c => Sys2Proof.Machine.execSampleTick c s
  | .syncPeriodic p => Sys2Proof.Machine.execSyncPeriodic p s
  | .registerWrite o v => Sys2Proof.Machine.execRegisterWrite o v s
  | .getVersion => Sys2Proof.Machine.execGetVersion s
  | .getCapabilities => Sys2Proof.Machine.execGetCapabilities s
  | .negotiateAlgorithms => Sys2Proof.Machine.execNegotiateAlgorithms s
  | .getDigests => Sys2Proof.Machine.execGetDigests s
  | .getCertificate x o n => Sys2Proof.Machine.execGetCertificate x o n s
  | .challenge x nonce => Sys2Proof.Machine.execChallenge x nonce s
  | .getMeasurements imm sg nonce => Sys2Proof.Machine.execGetMeasurements imm sg nonce s
  | .spdmUnsupported c => Sys2Proof.Machine.execSpdmUnsupported c s
  | .queueOperationComplete p n => Sys2Proof.Machine.execQueueOperationComplete p n s
  | .readReturned p n => Sys2Proof.Machine.execReadReturned p n s
  | .malformedCommand q => Sys2Proof.Machine.execMalformedCommand q s
  | .softError e => Sys2Proof.Machine.execSoftError e s
  | .ewelothLinkDown o => Sys2Proof.Machine.execEwelothLinkDown o s
  | .ewelothLinkUp o => Sys2Proof.Machine.execEwelothLinkUp o s
  | .powerLoss => Sys2Proof.Machine.execPowerLoss s

end Sys2Proof.Machine
end

