-- ==== Sys2Proof/Machine/Issue.lean ====
section
/-! DEFINITION. What happens next (R336): the head of the agenda, the selected party's next word, an event that is due, or the selection
of a party by the next scheduler (log 3, 4). Also the placement of one word to be issued next (log 2). -/

namespace Sys2Proof.Machine

open Sys2Proof

/-! ## The word at the issuing port -/

/-- The word at the issuing port, of the clause or of the microprogram that runs there (R46, R67, R86); none for words that no fetch or
MCALL would have let through. -/
def Port.nextInstr (q : Port) : Option Instr :=
  let at0 (c : Cls) (ws : List Word) (k : Nat) : Option Instr := match ws[k]? with
    | some w => (decodeWord c w.toNat ws[k + 1]?).toOption
    | none => none
  match q.micro with
  | some m => at0 m.hdr.cls m.words m.idx
  | none => at0 q.hdr.cls q.words q.idx

/-- The party at the issue slot can issue its next word (R47, R307, R336). In the cycle in which its primary port has issued, a wait of that
port's word does not hold the secondary port's word. -/
def State.canIssue (s : State) : Bool :=
  s.able s.me && (s.slot == .second || !s.me.inWait) && s.me.portReady s.me.port

/-- The first word of a clause issues: its header's waits are behind it (R47). -/
def State.startWord (s : State) : State := s.setMe { s.me with port := { s.me.port with started := true } }

/-- A change that leaves its outcome a next state is visible. -/
def State.fires (s : State) (e : Instr) : Bool :=
  match exec e s with
  | .next t => t != s
  | _ => true

/-! ## Words that would be held (R336) -/

/-- A word was held: its port has stalled. -/
def State.wasHeld (s : State) (p : Party) : Bool := s.me.ident == p.ident && s.me.port == { p.port with started := true, stall := true }

/-- The next word of the issuing port of a party, tried as it stands, would be held: by a header wait, a switch marker, a queue stall, a
full counter or checker, or a release under checking (R29, R47, R56, R277, R279). -/
def State.wouldHold (s : State) (p : Party) : Bool :=
  let t := ((s.focus p.ident).setMe p).startWord
  match p.port.nextInstr with
  | none => false
  | some i => match exec i t with
    | .next u => u.wasHeld p
    | _ => false

/-- A party with each port whose word would be held marked as stalled, and no other. -/
def State.withStalls (s : State) (p : Party) : Party :=
  let q : Party := { p with port := { p.port with stall := false }, mate := { p.mate with stall := false } }
  if !s.eligible q then p
  else
    let held (x : Party) : Bool := x.portReady x.port && s.wouldHold x
    { q with port := { q.port with stall := held q }, mate := { q.mate with stall := held q.swapPorts } }

/-- Every party so marked: what the schedulers see of the words' waits when they select (R336). -/
def State.markStalls (s : State) : State := { s with me := s.withStalls s.me, others := s.others.map s.withStalls }

/-! ## Events that are due -/

/-- What an outstanding word waits for next. -/
def Pend.event (i : Ident) (e : Pend) : List Instr :=
  match e.kind with
  | .claim .. => [.claimMove i e.id]
  | .fence _ | .arrive => [.releaseComplete i (.whole e.id)]
  | .mqput .. | .enq .. => if e.isRelease && !e.performed then [.releaseComplete i (.whole e.id)] else [.queueOperationComplete i e.id]
  | .mqget .. => if e.active == 0 then [.queueOperationComplete i e.id] else [.longResultWriteback i e.id]
  | .store .. | .cmo .. | .sunmap _ => if e.isRelease then [.releaseComplete i (.whole e.id)] else [.storePerformed i (.whole e.id)]
  | .job _ => []
  | .value .. | .svalue .. => [.longResultWriteback i e.id]
  | .load .. | .sld _ | .atomic .. | .vfill _ | .mon | .refill =>
    if e.isRelease && !e.performed then [.releaseComplete i (.whole e.id)]
    else if e.isLong then [.longResultWriteback i e.id]
    else [.readReturned i (.whole e.id)]

/-- How a wait may end. -/
def Wait.events (i : Ident) (w : Wait) : List Instr :=
  match w with
  | .mwait _ => [.mwaitWake i, .mwaitTimeout i]
  | .sleept _ => [.sleeptEnd i]
  | .jwait _ => [.jwaitEnd i]
  | .bar .. => [.barWaitEnd i]
  | .rdv .. => [.rdvReady i]
  | .refill _ => []

/-- Events of one party. -/
def Party.events (p : Party) : List Instr :=
  let waits := ([p.port, p.mate].filterMap fun (q : Port) => q.wait).flatMap (Wait.events p.ident)
  let causes := if p.pendingCauses == 0 then [] else [.causeDelivery p.ident]
  let timer := if p.tdead == 0xFFFFFFFFFFFFFFFF then [] else [.timerExpiry p.ident]
  let back := (if p.replayable && p.remapped then [.replayRetry p.ident] else []) ++ (if p.done then [.gangRetire p.ident] else [])
  timer ++ causes ++ waits ++ p.pend.flatMap (Pend.event p.ident) ++ back

/-- Events of one engine job; an access that the host or a peer refuses comes from the agenda (R265). -/
def Job.events (j : Job) : List Instr :=
  (if j.copy && !j.missed then [.promiseMissed j.id] else []) ++
    if !j.started then [.engineJobStart j.id]
    else if j.complete then []
    else if j.copy then [.copyJobComplete j.id none]
    else [.matrixJobComplete j.id]

/-- Events of the checkers (R275, R276, R278). -/
def State.checkEvents (s : State) : List Instr :=
  ((s.cores.filter fun c => !c.2.reorder.isEmpty).map fun c => .reorderCheck c.1) ++
    (((s.records.map fun r => (r.line, r.kid, r.interval)).eraseDups).map fun r => .intervalCheck r.1 r.2.1 r.2.2) ++
    ((List.finRange 4).filter fun p => s.parts[p].dies != 0).map fun p => .horizonBroadcast p.val

/-- Handling of an event of the vent queue (R323). -/
def VentEvent.events (e : VentEvent) : List Instr :=
  match e.ask with
  | .doorbell => []
  | .semaphore => [.semaphoreChange e.queue]
  | .stageOver b g => [.stageFinish b g]
  | .preempt b g c => [.preemptRequest b g c]

/-- Events of a command queue (R320, R324). -/
def State.queueEvents (s : State) (q : Nat) : List Instr :=
  if (s.queue q).watch.isSome then [.semaphorePoll q]
  else if s.commandDue q then [.nopCommand q, .launch q, .waitsem q, .signal q, .malformedCommand q]
  else []

/-- Events of a crew that a pre-emption concerns, or that stalls on full queues (R335, R388-R391). -/
def State.crewEvents (s : State) (k : Crew) : List Instr :=
  match k.prmp with
  | some _ => [.flush k.bundle k.stage k.crew, .save k.bundle k.stage k.crew, .drainTimeout k.bundle k.stage k.crew,
               .preemptWithdraw k.bundle k.stage k.crew]
  | none =>
    if (s.bundle k.bundle).any fun b => b.queues.any (·.fullSince.isSome) then [.queueStallPreempt k.bundle k.stage k.crew] else []

/-- Events of the admin mailbox (R360, R362). -/
def State.adminEvents (s : State) : List Instr :=
  match s.mailbox.unmapping with
  | some (a, va, lv, _) => [.unmapComplete a va lv]
  | none => if s.mailbox.busy then (adminRequest s.mailbox.latched).toList else []

/-- Relocks that begin or end (R307). -/
def State.relockEvents (s : State) : List Instr :=
  ((List.finRange 4).filter fun d => s.dies[d].busy).flatMap fun d => [.relockEnd d, .relockStart d]

/-- Every event that may be due but those that place crews. -/
def State.events (s : State) : List Instr :=
  s.relockEvents ++ s.parties.flatMap Party.events ++ s.jobs.flatMap Job.events ++ s.checkEvents ++
    (s.bundles.map fun b => .bundleRetire b.id) ++ s.vent.flatMap VentEvent.events ++
    ((s.vent.map (·.queue) ++ s.queues.map (·.1)).eraseDups).flatMap s.queueEvents ++
    s.crews.flatMap s.crewEvents ++ s.held.map Instr.hostMemoryAccess ++ s.heldPeers.map Instr.peerInboundAccess ++ s.adminEvents

/-! ## Crews that may be placed (R332-R334, R392) -/

/-- The first unit that could take a saved crew, or the place of its stage (R392, R397). -/
def State.restorePlace (s : State) (b : Bundle) (x : StageRec) (v : Saved) : Option (Nat × Nat) :=
  if s.nowhere b x v.crew then some (v.crew, 0)
  else if x.coresident then
    (s.planFor b v.stage x x.perdie ((b.saved.filter fun w => w.stage == v.stage).map (·.crew))).bind (·.head?)
  else ((List.range (if x.kind == 0 then 512 else 128)).find? (s.unitFits b v.stage x)).map fun u => (v.crew, u)

/-- A saved crew that can be restored. -/
def State.restoreEvent (s : State) : Option Instr :=
  s.bundles.findSome? fun b => b.saved.findSome? fun v => (b.desc.stages[v.stage]?).bind fun x =>
    (s.restorePlace b x v).map fun k =>
      if x.kind == 0 then .crewRestore b.id v.stage k.1 k.2 else .instanceRestore b.id v.stage k.1 k.2

/-- A CORESIDENT stage that can start (R334). -/
def State.wholeEvent (s : State) : Option Instr :=
  (s.bundles.filter fun b => !b.retired).findSome? fun b => (List.range b.stages.length).findSome? fun g =>
    match b.stages[g]?, b.desc.stages[g]? with
    | some st, some x =>
      if x.coresident && st.together x.gridN then
        ((s.planFor b g x true st.pending).bind (·.head?)).map fun k => .crewAdmit b.id g k.1 k.2
      else none
    | _, _ => none

/-- A crew or instance that a distributor starts (R333). -/
def State.startEvent (s : State) : Option Instr :=
  let place (u : Nat) (k : Cand) : Instr := .crewAdmit k.b.id k.g k.crew u
  match (List.range 512).findSome? fun u => (s.nextFor true 0 u).map (place u) with
  | some e => some e
  | none => (List.range 256).findSome? fun u => (s.nextFor false (1 + u % 2) (u / 2)).map (place (u / 2))

/-- A core whose distributor steals a crew (R333). -/
def State.stealEvent (s : State) : Option Instr :=
  ((List.range 512).find? fun u => s.fires (.crewSteal (u / 128) u)).map fun u => .crewSteal (u / 128) u

/-- A crew or instance that is placed next. -/
def State.placeEvent (s : State) : Option Instr :=
  let waiting := s.bundles.any fun b => !b.retired && b.stages.any fun st => !st.pending.isEmpty
  let first := if waiting then (s.wholeEvent.or s.startEvent).or s.stealEvent else none
  first.or s.restoreEvent

/-- The event that happens next, where one is due (log 3). -/
def State.dueEvent (s : State) : Option Instr := (s.events.find? s.fires).or (s.placeEvent.filter s.fires)

/-! ## The next scheduler (R336) -/

/-- A scheduler number that no party has. -/
def noScheduler : Nat := 4096

/-- The next scheduler, in turn, with a party to select. -/
def State.nextScheduler (s : State) : Nat :=
  let all := sortBy (fun a b => decide (a ≤ b)) (s.parties.map (·.scheduler)).eraseDups
  let cur := s.me.scheduler
  let turn := all.filter (fun c => decide (cur < c)) ++ all.filter fun c => decide (c ≤ cur)
  (turn.find? fun c => (s.select c).isSome).getD noScheduler

/-! ## What happens next -/

/-- What a step does: an event, the word at the issue slot, or a word there that is not legal. -/
inductive Choice where
  | event (e : Instr)
  | word (i : Instr)
  | illegal
  deriving DecidableEq, Repr

/-- A relock that begins or ends now: it does so on its tick, before any event (R307, log 3). -/
def State.relockDue (s : State) : Option Instr := s.relockEvents.find? s.fires

/-- What happens next but for a relock that is due, and the state without the agenda entry it took; an entry that is not an event is dropped
(log 3). A selection sees which words would be held. -/
def State.chooseNext (s : State) : State × Choice :=
  match s.agenda with
  | .vote c :: rest => (State.markStalls { s with agenda := rest }, .event (.vote c))
  | e :: rest => ({ s with agenda := rest }, .event (if e.cls.isNone then e else .vote noScheduler))
  | [] =>
    if s.slot != .spent && s.canIssue then
      (s.startWord, match s.me.port.nextInstr with | some i => .word i | none => .illegal)
    else match s.dueEvent with
      | some e => (s, .event e)
      | none => (s.markStalls, .event (.vote s.markStalls.nextScheduler))

/-- What happens next: no time passes at the tick of a relock, so a word that can issue there may still come before it. -/
def State.choose (s : State) : State × Choice :=
  if s.agenda.isEmpty && s.slot != .spent && s.canIssue then s.chooseNext
  else match s.relockDue with
    | some e => (s, .event e)
    | none => s.chooseNext

/-! ## The cycle of the issue slot (R79, R336, log 4) -/

/-- The scheduler of a gang for the lane-cycle counters; none for a thread. -/
def Party.gangScheduler (p : Party) : Nat := if p.isThread then noScheduler else p.scheduler

/-- Words issued in the cycle so far. -/
def Slot.issued : Slot → Nat
  | .second => 1
  | _ => 0

/-- The secondary port at the issue slot. -/
def Party.secondPort (p : Party) : Party := if p.port.secondary then p else p.swapPorts

/-- After a word of party p: when its primary port had the slot, its secondary port may issue in the same cycle, whether the primary word
has been performed or is held (R77, R79); else the cycle is over. `held` says that the word did not issue. -/
def State.afterWord (s : State) (p : Party) (held : Bool) : State :=
  let n := s.slot.issued + (if held then 0 else 1)
  let t := if held then s else s.countIssue p
  let next := t.setMe t.me.secondPort
  let go : State := { next with slot := if held then .ready else .second }
  if s.slot == .ready && s.me.ident == p.ident && !p.port.secondary && next.me.port.held && go.canIssue then go
  else { t.elapse p.die (1 + Config.waitCycles s.fresh) p.gangScheduler n with slot := .spent, picked := none }

/-- After a selection: the party issues in the same cycle, or a cycle passes. -/
def State.afterVote (s : State) : State :=
  let t0 := if s.slot == .second then s.elapse s.me.die 1 noScheduler 0 else s
  let t := { t0.setMe t0.me.frontPort with picked := t0.pick }
  if t.canIssue then { t with slot := .ready }
  else { t.elapse s.me.die (1 + Config.waitCycles s.fresh) noScheduler 0 with slot := .spent }

/-- After any other event. -/
def State.afterEvent (s : State) : State := s.elapse s.me.die (Config.waitCycles s.fresh) noScheduler 0

/-- The rest of a step in which party p stood at the issue slot; what has arisen for the vent cores enters their queue (R323). -/
def State.after (s : State) (c : Choice) (p : Party) : State :=
  (match c with
  | .event (.vote _) => s.afterVote
  | .event _ => s.afterEvent
  | .word _ | .illegal => s.afterWord p (s.wasHeld p)).noteVent

/-! ## Placing one word (log 2) -/

/-- Words of an instruction of nbits bits, with a literal of zeros where it takes one beyond them. -/
def tableWords (nbits w : Nat) : Cls × List Word :=
  let first := BitVec.ofNat 32 w
  let second := if nbits ≤ 32 then 0 else BitVec.ofNat 32 (w / 2 ^ 32)
  match decodeBare (w % 2 ^ 32) second classOrder with
  | some (c, i) => (c, if i.takesLiteral then [first, second] else [first])
  | none => (.vi, [first])

/-- The party at the issue slot made to hold a clause of the instruction at its issuing port: a gang, or the M-thread for an MX word; where
no lane is live, all of them are, at offset 0. -/
def Party.holding (p : Party) (c : Cls) (ws : List Word) : Party :=
  let dead := p.live == 0
  let role := if c == .mx then .mThread else .gang
  let present := if dead then 0xFFFFFFFF else p.present
  let pcv := if dead then Vector.replicate 32 0 else p.pcv
  let live := if dead then 0xFFFFFFFF else p.live
  let port : Port :=
    { Port.free with
      held := true, hdr := { Port.free.hdr with n := ws.length, cls := c }, words := ws, lanes := live, active := live }
  { p with role, present, pcv, port, mate := .free, switchedOut := false, halted := false, stopped := false, replayable := false
           atPoint := false }

/-- Nothing comes before the word at the issue slot. -/
def State.placeWord (s : State) (nbits w : Nat) : State :=
  let (c, ws) := tableWords nbits w
  { s with agenda := [], slot := .ready, me := s.me.holding c ws }.changeDie s.me.die fun d =>
    { d with busy := false, relockEnd := none, failed := false }

end Sys2Proof.Machine
end

