-- ==== Sys2Proof/Machine/Step.lean ====
section
/-! DEFINITION. One step of the machine, and one word placed where the next step issues it. -/

namespace Sys2Proof.Machine

open Sys2Proof

/-- s with the instruction of nbits bits w at the issue slot (log 2). -/
def State.withFetchWord (s : State) (nbits w : Nat) : State := s.placeWord nbits w

/-- What a choice does. A word that no fetch would have let through raises ILLI (R59). -/
def Choice.run (c : Choice) (s : State) : Host.Outcome State Fault Refusal :=
  match c with
  | .event e => exec e s
  | .word i => exec i s
  | .illegal => .next (s.stopWord (.cause .illi))

/-- One step: what happens next happens, and time passes. -/
def step (s : State) : Host.Outcome State Fault Refusal :=
  match s.choose.2.run s.choose.1 with
  | .next t => .next (t.after s.choose.2 s.me)
  | .fault f => .fault f
  | .refused r => .refused r

end Sys2Proof.Machine
end

