-- ==== Sys2Proof/Safety.lean ====
section
/-! DEFINITION. What counts as a safe state, and the conditions and effects that claims are stated in: when a word is performed, what it
reads, and what an access that its checks allow leaves behind. -/

namespace Sys2Proof.Machine

open Sys2Proof

/-! ## Safe states -/

/-- Memory stands in its one canonical form (R219, log 14). -/
def State.memOk (s : State) : Prop := Memory.wf s.mem

/-! ## When a word is performed -/

/-- A word of `len` words at the issuing port is performed when it reaches the issue slot: no switch marker holds it (R56), no wait, FENCE.FULL
or BAR does (R252, R254, R260), and as the last word of its clause it has a fall-through offset in range (R80). -/
def State.canRun (s : State) (sw : Bool) (len : Nat) : Bool :=
  !(sw && s.me.hasLong) && !s.me.blocked && !s.me.pastEnd len

/-- The state a word acts on. -/
def State.begun (s : State) : State := s.setMe { s.me with atPoint := false }

/-- Destinations of a word fit VREG, or no lane is active (R22, R24). -/
def State.fitsAll (s : State) (freed dests : List (Fin 116)) : Bool := s.me.active == 0 || s.me.fits freed dests

/-- No lane of a mask is poisoned in any of the registers. -/
def State.cleanIn (s : State) (act : LaneMask) (ns : List (Fin 116)) : Bool :=
  (ns.foldl (fun m n => m ||| (s.seeV n).poison) 0) &&& act == 0

/-! ## Allowed accesses -/

/-- A part of `len` bytes at a VA that every check of R117, R118, R357, R395 and R242 lets through, for the party at the issue slot: of an access
of `size` bytes, as a register window sees it, or of none of one size (R70). -/
def State.allowsAs (s : State) (k : Acc) (size : Nat) (sc : Scope) (len va : Nat) : Bool :=
  va % len == 0 && match s.translate s.me k va with
    | .ok t => !s.forbidden s.me k sc va size t && !s.homeLost s.me k t.pa t.kid &&
        (s.racedJob (k == .store || k == .atomic) t.pa).isNone
    | .error _ => false

/-- An allowed access of `len` bytes. -/
def State.allows (s : State) (k : Acc) (sc : Scope) (len va : Nat) : Bool := s.allowsAs k len sc len va

/-- The part of an allowed access that one lane makes. -/
def State.partAt (s : State) (k : Acc) (len : Nat) (x : Fin 32 × Nat × List Byte) : LaneAcc :=
  match s.translate s.me k x.2.1 with
  | .ok t => { lane := x.1, va := x.2.1, pa := t.pa, kid := t.kid, mt := t.mt, len, data := x.2.2,
               tent := s.draftStore s.me k x.2.1 }
  | .error _ => { lane := x.1, va := x.2.1, pa := 0, kid := 0, mt := 0, len, data := x.2.2, tent := false }

/-- The state after the page tables and the TLB have noted allowed accesses (R356, R359): no register changes, and no byte of memory but
those of A and D in the entries that the accesses used. -/
def State.noted (s : State) (k : Acc) (vas : List Nat) : State :=
  vas.foldl (fun t va => match s.translate s.me k va with
    | .ok x => t.noteAccess s.me k va x
    | .error _ => t) s

/-- Addresses of the active lanes of an FM word (R117). -/
def State.laneVas (s : State) (f : FMem) : List (Fin 32 × Nat) :=
  (LaneMask.lanes s.me.active).map fun l => (l, laneVa (s.seeS f.s).val (s.seeV f.a) l)

/-- Room for one more memory word: on the reorder checker of the core, and on the counters it takes part in (R47, R269, R277). -/
def State.room (s : State) (load store : Bool) : Bool :=
  s.checkerFree 1 && (!load || decide (s.me.loads < 30)) &&
    (!store || decide (s.me.stores < 30))

end Sys2Proof.Machine
end

