-- ==== Sys2Proof/Certificates/Slice0/Obligations.lean ====
section
/-! DEFINITION. The statements about the model: each is a Prop named Obligations.<Name>, with the tables and conditions it is stated in. -/

section

open Sys2Proof Sys2Proof.Machine

namespace Sys2Proof.Claims

/-! ## Words with a short vector result -/

/-- What a word with a short vector result is made of: its switch marker, destination, sources, whether it reads the old D, and the value and
flags of a lane from A, B and the old D. -/
structure LaneForm where
  sw : Bool
  d : VOp
  srcs : List Src
  old : Bool
  f : Party → Fin 32 → Word → Word → Word → Word × BitVec 32

/-- An integer result, which raises no flag. -/
def LaneForm.int (sw : Bool) (d : VOp) (srcs : List Src) (old : Bool) (f : Word → Word → Word → Word) : LaneForm :=
  { sw, d, srcs, old, f := fun _ _ a b o => (f a b o, 0) }

/-- An exact integer cut to s32, or clamped to a range. -/
def clamp (lo hi x : Int) : Word := BitVec.ofInt 32 (max lo (min hi x))

/-- IADD and ISUB in their three forms (R100). -/
def sumOf (m : Sat) (a b : Word) (neg : Bool) : Word :=
  match m with
  | .wrap => BitVec.ofInt 32 (a.toInt + (if neg then -b.toInt else b.toInt))
  | .ss => clamp (-(2 ^ 31)) (2 ^ 31 - 1) (a.toInt + (if neg then -b.toInt else b.toInt))
  | .us => clamp 0 (2 ^ 32 - 1) (Int.ofNat a.toNat + (if neg then -Int.ofNat b.toNat else Int.ofNat b.toNat))

/-- The value of a lane as s32 or u32 (R100). -/
def asInt (u : Bool) (a : Word) : Int := if u then Int.ofNat a.toNat else a.toInt

/-- The four shifts as arithmetic on the value (R101). -/
def shifted (k : ShKind) (a : Word) (n : Nat) : Word :=
  match k with
  | .left => if n < 32 then BitVec.ofNat 32 (a.toNat * 2 ^ n) else 0
  | .right => if n < 32 then BitVec.ofNat 32 (a.toNat / 2 ^ n) else 0
  | .arith => BitVec.ofInt 32 (a.toInt / 2 ^ (min n 31))
  | .rot => BitVec.ofNat 32 (a.toNat * 2 ^ (n % 32) + a.toNat / 2 ^ (32 - n % 32))

/-- The field control of BFX and BFI: position, and width cut to what lies above it (R102). -/
def fieldPos (c : Word) : Nat := c.toNat % 32
/-- Width. -/
def fieldWid (c : Word) : Nat := min (c.toNat / 2 ^ 8 % 64) (32 - fieldPos c)

/-- BFX as arithmetic (R102). -/
def fieldValue (a c : Word) : Word :=
  let v := a.toNat / 2 ^ fieldPos c % 2 ^ fieldWid c
  if c.getLsbD 15 && decide (0 < fieldWid c) && decide (2 ^ fieldWid c ≤ 2 * v) then
    BitVec.ofInt 32 (Int.ofNat v - 2 ^ fieldWid c)
  else BitVec.ofNat 32 v

/-- BFI as arithmetic (R102). -/
def fieldPut (a c o : Word) : Word :=
  let p := fieldPos c
  let w := fieldWid c
  BitVec.ofNat 32 (o.toNat / 2 ^ (p + w) * 2 ^ (p + w) + a.toNat % 2 ^ w * 2 ^ p + o.toNat % 2 ^ p)

/-- Byte i of a word. -/
def nthByte (a : Word) (i : Nat) : Nat := a.toNat / 256 ^ i % 256

/-- Result byte i of BPICK: a byte of A, 0, the old byte, or 255, as four bits of B select (R104). -/
def pickedByte (a b o : Word) (i : Nat) : Nat :=
  let c := b.toNat / 256 ^ i % 16
  if c < 4 then nthByte a c else if c < 8 then 0 else if c < 12 then nthByte o i else 255

/-- BPICK. -/
def picked (a b o : Word) : Word :=
  BitVec.ofNat 32 (pickedByte a b o 0 + 256 * pickedByte a b o 1 + 256 ^ 2 * pickedByte a b o 2 + 256 ^ 3 * pickedByte a b o 3)

/-- Two sources with their marks. -/
def bothOf (f : F3) : List Src := [(f.a, f.la), (f.b, f.lb)]

/-- The integer words with a vector result (R100-R104). -/
def intForm : Instr → Option LaneForm
  | .iadd f m => some (.int f.w f.d (bothOf f) false fun a b _ => sumOf m a b false)
  | .isub f m => some (.int f.w f.d (bothOf f) false fun a b _ => sumOf m a b true)
  | .imul f => some (.int f.w f.d (bothOf f) false fun a b _ => BitVec.ofInt 32 (a.toInt * b.toInt))
  | .imulh f u => some (.int f.w f.d (bothOf f) false fun a b _ => BitVec.ofInt 32 (asInt u a * asInt u b / 2 ^ 32))
  | .imad f => some (.int f.w f.d (bothOf f) true fun a b o => BitVec.ofInt 32 (a.toInt * b.toInt + o.toInt))
  | .imin f u => some (.int f.w f.d (bothOf f) false fun a b _ => if asInt u a ≤ asInt u b then a else b)
  | .imax f u => some (.int f.w f.d (bothOf f) false fun a b _ => if asInt u b ≤ asInt u a then a else b)
  | .iabs f => some (.int f.w f.d [(f.a, f.la)] false fun a _ _ => BitVec.ofNat 32 a.toInt.natAbs)
  | .and f => some (.int f.w f.d (bothOf f) false fun a b _ => a &&& b)
  | .or f => some (.int f.w f.d (bothOf f) false fun a b _ => a ||| b)
  | .xor f => some (.int f.w f.d (bothOf f) false fun a b _ => a ^^^ b)
  | .andn f => some (.int f.w f.d (bothOf f) false fun a b _ => a &&& ~~~b)
  | .shl f => some (.int f.w f.d (bothOf f) false fun a b _ => shifted .left a b.toNat)
  | .shr f => some (.int f.w f.d (bothOf f) false fun a b _ => shifted .right a b.toNat)
  | .sar f => some (.int f.w f.d (bothOf f) false fun a b _ => shifted .arith a b.toNat)
  | .rol f => some (.int f.w f.d (bothOf f) false fun a b _ => shifted .rot a b.toNat)
  | .popc f => some (.int f.w f.d [(f.a, f.la)] false fun a _ _ => BitVec.ofNat 32 ((List.range 32).countP fun i => a.getLsbD i))
  | .clz f => some (.int f.w f.d [(f.a, f.la)] false fun a _ _ => if a.toNat = 0 then 32 else BitVec.ofNat 32 (31 - Nat.log2 a.toNat))
  | .brev f => some (.int f.w f.d [(f.a, f.la)] false fun a _ _ => a.reverse)
  | .bfx f => some (.int f.w f.d (bothOf f) false fun a b _ => fieldValue a b)
  | .bfi f => some (.int f.w f.d (bothOf f) true fun a b o => fieldPut a b o)
  | .sel f p => some { sw := f.w, d := f.d, srcs := (bothOf f), old := false,
                       f := fun q l a b _ => (if (q.pred (p.castLE (by omega))).has l then a else b, 0) }
  | .mov f => some (.int f.w f.d [(f.a, f.la)] false fun a _ _ => a)
  | .bpick f => some (.int f.w f.d (bothOf f) true fun a b o => picked a b o)
  | .pmovToV f => some { sw := f.w, d := f.d, srcs := [], old := false, f := fun q l _ _ _ => (if (q.pred f.a).has l then 1 else 0, 0) }
  | .iaddi f => some (.int f.w f.d [(f.a, f.la)] false fun a _ _ => BitVec.ofInt 32 (a.toInt + f.imm.toInt))
  | .shi f => some (.int f.w f.d [(f.a, f.la)] false fun a _ _ => shifted f.k a f.n.val)
  | .andi f => some (.int f.w f.d [(f.a, f.la)] false fun a _ _ => a &&& BitVec.ofInt 32 f.imm.toInt)
  | .movi w d i => some (.int w d [] false fun _ _ _ => BitVec.ofInt 32 i.toInt)
  | .movhi w d i => some (.int w d [] true fun _ _ o => BitVec.ofNat 32 (i.toNat * 2 ^ 18 + o.toNat % 2 ^ 18))
  | _ => none


/-- The register a lane word's result fills, from its sources as registers. -/
def LaneForm.result (x : LaneForm) (s : State) (d : Fin 116) (ns : List (Fin 116)) : VReg :=
  let a := (ns[0]?.map s.seeV).getD .zero
  let b := (ns[1]?.map s.seeV).getD .zero
  let o := if x.old then s.seeV d else .zero
  { val := lanes fun l => (x.f s.me l a.val[l] b.val[l] o.val[l]).1, poison := 0 }

/-- The flags a lane word raises in its active lanes. -/
def LaneForm.flags (x : LaneForm) (s : State) (d : Fin 116) (ns : List (Fin 116)) : BitVec 32 :=
  let a := (ns[0]?.map s.seeV).getD .zero
  let b := (ns[1]?.map s.seeV).getD .zero
  let o := if x.old then s.seeV d else .zero
  flagsOver s.me.active fun l => (x.f s.me l a.val[l] b.val[l] o.val[l]).2

/-- A word of a table of forms, on registers, writes its value into the active lanes of D and nothing else: what every such word does where
its destination fits VREG and no lane it reads is poisoned (R22, R24, R95, R96). -/
def LaneForm.holds (table : Instr → Option LaneForm) : Prop :=
  ∀ (i : Instr) (x : LaneForm) (s : State) (d : Fin 116) (ns : List (Fin 116)),
    table i = some x → x.d = .v d → x.srcs.map (·.1) = ns.map VOp.v →
    s.canRun x.sw 1 = true → s.fitsAll (marked x.srcs) [d] = true →
    s.cleanIn s.me.active ((if x.old then [d] else []) ++ ns) = true →
    exec i s = .next (State.retire (s.begun.setMe
      (((s.begun.me.freeAll (marked x.srcs)).orFlags (x.flags s d ns)).writeV s.me.active d (x.result s d ns))) 1)

end Sys2Proof.Claims

open Sys2Proof.Claims

/-- Integer lane words: completion, value in the active lanes, and frame (R95, R96, R100-R104). -/
def Obligations.IntegerLaneWords : Prop := LaneForm.holds intForm


namespace Sys2Proof.Claims

/-- The floating-point words with a short vector result, and the lane masks as values (R168-R172, R176, R177, R180). -/
def floatForm : Instr → Option LaneForm
  | .fadd f r => some { sw := f.w, d := f.d, srcs := bothOf f, old := false, f := fun _ _ a b _ => fadd32 r a b }
  | .fsub f r => some { sw := f.w, d := f.d, srcs := bothOf f, old := false, f := fun _ _ a b _ => fsub32 r a b }
  | .fmul f r => some { sw := f.w, d := f.d, srcs := bothOf f, old := false, f := fun _ _ a b _ => fmul32 r a b }
  | .ffma f r => some { sw := f.w, d := f.d, srcs := bothOf f, old := true, f := fun _ _ a b o => ffma32 r a b o }
  | .fmin f n => some (.int f.w f.d (bothOf f) false fun a b _ => pick32 false n a b)
  | .fmax f n => some (.int f.w f.d (bothOf f) false fun a b _ => pick32 true n a b)
  | .fmov f o => some (.int f.w f.d [(f.a, f.la)] false fun a _ _ => fsign32 o a)
  | .fcvt f c r => some { sw := f.w, d := f.d, srcs := if c.val < 12 then [(f.a, f.la)] else pairOf f.a f.la,
                          old := [4, 5, 8, 9].contains c.val, f := fun _ _ a b o => fcvt32 c.val r a b o }
  | .faddp f h z => some { sw := f.w, d := f.d, srcs := bothOf f, old := false,
                           f := fun _ _ a b _ => packed h (fun x y _ => (packFmt h).add (packRnd z) x y) a b 0 }
  | .fmulp f h z => some { sw := f.w, d := f.d, srcs := bothOf f, old := false,
                           f := fun _ _ a b _ => packed h (fun x y _ => (packFmt h).mul (packRnd z) x y) a b 0 }
  | .ffmap f h z => some { sw := f.w, d := f.d, srcs := bothOf f, old := true,
                           f := fun _ _ a b o => packed h (fun x y c => (packFmt h).fma (packRnd z) x y c) a b o }
  | .fclass f => some (.int f.w f.d [(f.a, f.la)] false fun a _ _ => fclass32 a)
  | .fscale f r => some { sw := f.w, d := f.d, srcs := bothOf f, old := false, f := fun _ _ a b _ => fscale32 r a b }
  | .pmask f c => some { sw := f.w, d := f.d, srcs := [], old := false, f := fun p _ _ _ _ =>
                           (if c then BitVec.ofNat 32 ((List.finRange 32).countP fun l => (p.pred f.a).has l && p.active.has l)
                            else p.pred f.a &&& p.active, 0) }
  | _ => none

/-- What a word with a predicate result is made of. -/
structure PredForm where
  sw : Bool
  d : Fin 8
  srcs : List Src
  f : Party → Fin 32 → Word → Word → Bool

/-- Compares as integers (R97, R103). -/
def compares (c : Cmp) (a b : Int) : Bool :=
  match c with
  | .eq => decide (a = b) | .ne => decide (a ≠ b) | .lt => decide (a < b) | .le => decide (a ≤ b)

/-- PLOP on one lane (R103). -/
def plopLane (o : POp) (x y : Bool) : Bool :=
  match o with
  | .and => x && y | .or => x || y | .xor => x != y | .andn => x && !y

/-- PFOLD over the active lanes (R180). -/
def foldOver (o : Fold) (bits : List Bool) : Bool :=
  match o with
  | .and => bits.all id
  | .or => bits.any id
  | .same => bits.all id || bits.all (!·)
  | .par => decide (bits.countP id % 2 = 1)

/-- The words with a predicate result (R103, R170, R180). -/
def predForm : Instr → Option PredForm
  | .isets f c => some { sw := f.w, d := f.d, srcs := [(f.a, f.la), (f.b, f.lb)], f := fun _ _ a b => compares c a.toInt b.toInt }
  | .isetu f c => some { sw := f.w, d := f.d, srcs := [(f.a, f.la), (f.b, f.lb)],
                         f := fun _ _ a b => compares c (Int.ofNat a.toNat) (Int.ofNat b.toNat) }
  | .fsetp f c => some { sw := f.w, d := f.d, srcs := [(f.a, f.la), (f.b, f.lb)], f := fun _ _ a b => fcmp32 c a b }
  | .pmovToP f => some { sw := f.w, d := f.d, srcs := [(f.a, f.la)], f := fun _ _ a _ => decide (a.toNat ≠ 0) }
  | .plop f o => some { sw := f.w, d := f.d, srcs := [], f := fun p l _ _ => plopLane o ((p.pred f.a).has l) ((p.pred f.b).has l) }
  | .pfold w d a o => some { sw := w, d := d, srcs := [], f := fun p _ _ _ =>
                         foldOver o ((LaneMask.lanes p.active).map fun l => (p.pred a).has l) }
  | _ => none

/-- The mask a predicate word computes, from its sources as registers. -/
def PredForm.result (x : PredForm) (s : State) (ns : List (Fin 116)) : LaneMask :=
  maskOf fun l => x.f s.me l ((ns[0]?.map s.seeV).getD .zero).val[l] ((ns[1]?.map s.seeV).getD .zero).val[l]

/-- What a uniform word is made of: its switch marker, how many words it takes, destination, sources, and the value. -/
structure UniForm where
  sw : Bool
  len : Nat
  d : SOp
  srcs : List SOp
  f : DWord → DWord → DWord

/-- The shifts of a 64-bit value as arithmetic (R107). -/
def shifted64 (k : ShKind) (a : DWord) (n : Nat) : DWord :=
  match k with
  | .left => if n < 64 then BitVec.ofNat 64 (a.toNat * 2 ^ n) else 0
  | .right => if n < 64 then BitVec.ofNat 64 (a.toNat / 2 ^ n) else 0
  | _ => BitVec.ofInt 64 (a.toInt / 2 ^ (min n 63))

/-- Compares of SSET (R107). -/
def compares64 (c : SCmp) (a b : DWord) : Bool :=
  match c with
  | .eq => decide (a.toNat = b.toNat) | .ne => decide (a.toNat ≠ b.toNat)
  | .lt => decide (a.toInt < b.toInt) | .le => decide (a.toInt ≤ b.toInt)
  | .ltu => decide (a.toNat < b.toNat) | .leu => decide (a.toNat ≤ b.toNat)

/-- The uniform words that write a uniform register from uniform registers (R107, R109). -/
def uniForm : Instr → Option UniForm
  | .sadd f => some ⟨f.w, 1, f.d, [f.a, f.b], fun a b => BitVec.ofInt 64 (a.toInt + b.toInt)⟩
  | .ssub f => some ⟨f.w, 1, f.d, [f.a, f.b], fun a b => BitVec.ofInt 64 (a.toInt - b.toInt)⟩
  | .smul f => some ⟨f.w, 1, f.d, [f.a, f.b], fun a b => BitVec.ofInt 64 (a.toInt * b.toInt)⟩
  | .smulh f => some ⟨f.w, 1, f.d, [f.a, f.b], fun a b => BitVec.ofInt 64 (a.toInt * b.toInt / 2 ^ 64)⟩
  | .sand f => some ⟨f.w, 1, f.d, [f.a, f.b], fun a b => a &&& b⟩
  | .sor f => some ⟨f.w, 1, f.d, [f.a, f.b], fun a b => a ||| b⟩
  | .sxor f => some ⟨f.w, 1, f.d, [f.a, f.b], fun a b => a ^^^ b⟩
  | .sshl f => some ⟨f.w, 1, f.d, [f.a, f.b], fun a b => shifted64 .left a b.toNat⟩
  | .sshr f => some ⟨f.w, 1, f.d, [f.a, f.b], fun a b => shifted64 .right a b.toNat⟩
  | .ssar f => some ⟨f.w, 1, f.d, [f.a, f.b], fun a b => shifted64 .arith a b.toNat⟩
  | .smin f => some ⟨f.w, 1, f.d, [f.a, f.b], fun a b => if a.toInt ≤ b.toInt then a else b⟩
  | .smax f => some ⟨f.w, 1, f.d, [f.a, f.b], fun a b => if a.toInt ≤ b.toInt then b else a⟩
  | .sset f c => some ⟨f.w, 1, f.d, [f.a, f.b], fun a b => if compares64 c a b then 1 else 0⟩
  | .saddi w d a i => some ⟨w, 1, d, [a], fun x _ => BitVec.ofInt 64 (x.toInt + i.toInt)⟩
  | .smovi w d i => some ⟨w, 1, d, [], fun _ _ => BitVec.ofInt 64 i.toInt⟩
  | .slit w d .zx lit => some ⟨w, 2, d, [], fun _ _ => BitVec.ofNat 64 lit.toNat⟩
  | .slit w d .sx lit => some ⟨w, 2, d, [], fun _ _ => BitVec.ofInt 64 lit.toInt⟩
  | .slit w d .hi lit => some ⟨w, 2, d, [d], fun old _ => BitVec.ofNat 64 (lit.toNat * 2 ^ 32 + old.toNat % 2 ^ 32)⟩
  | _ => none

/-- What a word with a long result is made of: the lanes of its sources that must not be poisoned, and the result registers and flags, from
whole source registers (R163, R164). -/
structure LongForm where
  sw : Bool
  d : VOp
  n : Nat
  srcs : List Src
  bad : Party → List VReg → LaneMask
  f : Party → List VReg → List (Lanes Word) × BitVec 32

/-- Source k of a long word. -/
def src (vs : List VReg) (k : Nat) : VReg := vs.getD k .zero

/-- Poison in the active lanes of any source. -/
def anyBad (p : Party) (vs : List VReg) : LaneMask := (vs.foldl (fun m v => m ||| v.poison) 0) &&& p.active

/-- A lane-wise function with flags, over one source. -/
def longLanes (sw : Bool) (d a : VOp) (la : Bool) (g : Word → Word × BitVec 32) : LongForm :=
  { sw, d, n := 1, srcs := [(a, la)], bad := anyBad
    f := fun p vs => ([lanes fun l => (g (src vs 0).val[l]).1], flagsOver p.active fun l => (g (src vs 0).val[l]).2) }

/-- The lane that lane l reads, as arithmetic modulo 32 (R178). -/
def partner (k : LxKind) (l : Fin 32) (n : Nat) : Fin 32 :=
  match k with
  | .sel => Fin.ofNat 32 n
  | .flip => Fin.ofNat 32 (l.val ^^^ n % 32)
  | .rotu => Fin.ofNat 32 (l.val + (32 - n % 32))
  | .rotd => Fin.ofNat 32 (l.val + n)

/-- The words with long results (R173, R174, R178, R181-R184). -/
def longForm : Instr → Option LongForm
  | .frcp f => some (longLanes f.w f.d f.a f.la frcp32)
  | .frsq f => some (longLanes f.w f.d f.a f.la frsq32)
  | .fsqrt f => some (longLanes f.w f.d f.a f.la fsqrt32)
  | .fexp2 f => some (longLanes f.w f.d f.a f.la fexp2_32)
  | .flog2 f => some (longLanes f.w f.d f.a f.la flog2_32)
  | .fsinr f => some (longLanes f.w f.d f.a f.la fsinr32)
  | .fcosr f => some (longLanes f.w f.d f.a f.la fcosr32)
  | .fred f => some { sw := f.w, d := f.d, n := 2, srcs := [(f.a, f.la)], bad := anyBad, f := fun p vs =>
      ([lanes fun l => (fred32 (src vs 0).val[l]).1, lanes fun l => (fred32 (src vs 0).val[l]).2.1],
       flagsOver p.active fun l => (fred32 (src vs 0).val[l]).2.2) }
  | .lxch f k => some {
      sw := f.w, d := f.d, n := 1, srcs := bothOf f,
      bad := fun p vs => maskOf fun l => p.active.has l &&
        ((src vs 1).poison.has l || (src vs 0).poison.has (partner k l (src vs 1).val[l].toNat)),
      f := fun _ vs => ([lanes fun l => (src vs 0).val[partner k l (src vs 1).val[l].toNat]], 0) }
  | .lxchi f => some {
      sw := f.w, d := f.d, n := 1, srcs := [(f.a, f.la)],
      bad := fun p vs => maskOf fun l => p.active.has l && (src vs 0).poison.has (partner f.k l f.n.val),
      f := fun _ vs => ([lanes fun l => (src vs 0).val[partner f.k l f.n.val]], 0) }
  | .redx f o => some { sw := f.w, d := f.d, n := 1, srcs := [(f.a, f.la)], bad := anyBad, f := fun p vs =>
      ([Vector.replicate 32 (reduce o p.active (src vs 0).val).1],
       if p.active == 0 then 0 else (reduce o p.active (src vs 0).val).2) }
  | .argmx f s => some { sw := f.w, d := f.d, n := 1, srcs := bothOf f, bad := anyBad, f := fun p vs =>
      ([Vector.replicate 32 (src vs 1).val[winner s p.active (src vs 0).val]], 0) }
  | .rand f => some { sw := f.w, d := f.d, n := 1, srcs := pairOf f.a f.la ++ pairOf f.b f.lb, bad := anyBad, f := fun _ vs =>
      ([lanes fun l => rng32 ((src vs 1).val[l] ++ (src vs 0).val[l]) ((src vs 3).val[l] ++ (src vs 2).val[l])], 0) }
  | .gumb f => some { sw := f.w, d := f.d, n := 1, srcs := bothOf f, bad := anyBad, f := fun p vs =>
      ([lanes fun l => (gumb32 (src vs 0).val[l] (src vs 1).val[l]).1],
       flagsOver p.active fun l => (gumb32 (src vs 0).val[l] (src vs 1).val[l]).2) }
  | _ => none

/-- The result registers as they are bound. -/
def boundOf (vals : List (Lanes Word)) : List VReg := vals.map fun v => { val := v, poison := 0 }

end Sys2Proof.Claims

/-- Floating-point lane words and PMASK: completion, value and flags in the active lanes, and frame (R163, R168-R172, R176, R177, R180). -/
def Obligations.FloatLaneWords : Prop := LaneForm.holds floatForm

/-- Words with a predicate result, on registers: the predicate is written in the active lanes and nothing else changes; P7 ignores the
write (R32, R103, R170, R180). -/
def Obligations.PredicateWords : Prop :=
  ∀ (i : Instr) (x : PredForm) (s : State) (ns : List (Fin 116)),
    predForm i = some x → x.srcs.map (·.1) = ns.map VOp.v →
    s.canRun x.sw 1 = true → s.fitsAll (marked x.srcs) [] = true → s.cleanIn s.me.active ns = true →
    exec i s = .next (State.retire (s.begun.setMe ((s.begun.me.freeAll (marked x.srcs)).setPred s.me.active x.d (x.result s ns))) 1)

/-- Uniform words on registers: one register is written with a value that carries no poison; nothing else changes (R31, R105, R107, R109). -/
def Sys2Proof.Claims.UniformWords : Prop :=
  ∀ (i : Instr) (x : UniForm) (s : State) (d : Fin 56) (ns : List (Fin 56)),
    uniForm i = some x → x.d = .s d → x.srcs = ns.map SOp.s →
    s.canRun x.sw x.len = true → (∀ n ∈ ns, (s.seeS n).poison = false) →
    exec i s = .next (State.retire (s.begun.setMe (s.begun.me.setS d
      { val := x.f ((ns[0]?.map fun n => (s.seeS n).val).getD 0) ((ns[1]?.map fun n => (s.seeS n).val).getD 0), poison := false })) x.len)

/-- SDIVU leaves its quotient, all ones for a divisor of 0, as a long result on no counter; SV2S reads one lane whether it is active or not;
SS2V writes a half into the active lanes (R108, R112). -/
def Sys2Proof.Claims.UniformVectorMoves : Prop :=
  (∀ (f : FS) (s : State) (d a b : Fin 56), f.d = .s d → f.a = .s a → f.b = .s b → s.canRun f.w 1 = true →
    (s.seeS a).poison = false → (s.seeS b).poison = false →
    exec (.sdivu f) s = .next (State.retire (s.begun.setMe (s.begun.me.addPend
      (.svalue d (if (s.seeS b).val.toNat = 0 then 0xFFFFFFFFFFFFFFFF else BitVec.ofNat 64 ((s.seeS a).val.toNat / (s.seeS b).val.toNat)))
      s.me.active [] false .none (some []) [])) 1)) ∧
  (∀ (w : Bool) (d : Fin 56) (a : Fin 116) (l : Fin 32) (s : State), s.canRun w 1 = true → (s.seeV a).poison.has l = false →
    exec (.sv2s w (.s d) (.v a) l) s = .next (State.retire (s.begun.setMe (s.begun.me.setS d
      { val := BitVec.ofNat 64 (s.seeV a).val[l].toNat, poison := false })) 1)) ∧
  (∀ (w : Bool) (d : Fin 116) (a : Fin 56) (h : Bool) (s : State), s.canRun w 1 = true → s.fitsAll [] [d] = true →
    (s.seeS a).poison = false →
    exec (.ss2v w (.v d) (.s a) h) s = .next (State.retire (s.begun.setMe (s.begun.me.writeV s.me.active d
      (.clean fun _ => BitVec.ofNat 32 (if h then (s.seeS a).val.toNat / 2 ^ 32 else (s.seeS a).val.toNat)))) 1))

/-- Words of class UN and the words that move values between uniform and vector registers (R31, R105, R107-R109, R112). -/
def Obligations.UniformLaneWords : Prop := Sys2Proof.Claims.UniformWords ∧ Sys2Proof.Claims.UniformVectorMoves

/-- Words with long results, on registers: the results wait among the outstanding words, and no register is written yet; the flags of the
active lanes are set at once (R56, R163, R164). -/
def Obligations.LongResultWords : Prop :=
  ∀ (i : Instr) (x : LongForm) (s : State) (d : Fin 116) (ns : List (Fin 116)),
    longForm i = some x → x.d = .v d → x.srcs.map (·.1) = ns.map VOp.v →
    s.canRun x.sw 1 = true → s.fitsAll (marked x.srcs) ((List.range x.n).map (vnext d)) = true →
    x.bad s.me (ns.map s.seeV) = 0 →
    exec i s = .next (State.retire (s.begun.setMe
      (let p := (s.begun.me.freeAll (marked x.srcs)).orFlags (x.f s.me (ns.map s.seeV)).2
       if s.me.active == 0 then p
       else p.addPend (.value d (x.f s.me (ns.map s.seeV)).1) s.me.active [] false .none
         (some (boundOf (x.f s.me (ns.map s.seeV)).1)) ((List.range x.n).map (vnext d)))) 1)

/-- Every short and uniform word with any operands, queue ports included: once its operands have been read, it completes with its value
written, or pushed, to its destination (R29, R31, R95, R105). -/
def Obligations.WordsOnPorts : Prop :=
  (∀ (i : Instr) (x : LaneForm) (s s1 s2 : State) (a b o : VReg), (intForm i = some x ∨ floatForm i = some x) →
    s.canRun x.sw 1 = true → laneReads (namesOf x.d) x.d x.srcs x.old s.begun = .ok ((a, b, o), s1) →
    writeDest x.d (.clean fun l => (x.f s.me l a.val[l] b.val[l] o.val[l]).1)
      (s1.setMe (s1.me.orFlags (flagsOver s.me.active fun l => (x.f s.me l a.val[l] b.val[l] o.val[l]).2))) = .ok ((), s2) →
    exec i s = .next (s2.retire 1)) ∧
  (∀ (i : Instr) (x : PredForm) (s s1 : State) (a b o : VReg), predForm i = some x → s.canRun x.sw 1 = true →
    laneReads [] (.v 0) x.srcs false s.begun = .ok ((a, b, o), s1) →
    exec i s = .next ((s1.setMe (s1.me.setPred s.me.active x.d (maskOf fun l => x.f s.me l a.val[l] b.val[l]))).retire 1)) ∧
  (∀ (i : Instr) (x : UniForm) (s s1 s2 : State) (vs : List DWord), uniForm i = some x → s.canRun x.sw x.len = true →
    readClean x.srcs s.begun = .ok (vs, s1) → writeS x.d (x.f (vs.getD 0 0) (vs.getD 1 0)) s1 = .ok ((), s2) →
    exec i s = .next (s2.retire x.len))

/-- A read of a port pops one entry, and a port named twice in a word pops once; a push appends one entry, with 0 in the inactive lanes; an
empty queue and a full one hold the word, as does an incomplete release fence before a push, and a closed empty one raises QERR (R29, R30,
R231, R330). -/
def Obligations.QueuePorts : Prop :=
  ∀ (s : State) (k : Fin 8) (j : Nat) (b : Bundle) (q : Queue) (r : QueueRec),
    s.bundle s.me.bundle = some b → b.queues[j]? = some q → b.desc.queues[j]? = some r →
    (∀ (v : VReg) (rest : List QEntry), s.me.qports[k] = some j → r.dst = s.me.stage → q.entries = .vec v :: rest →
      ∃ t, readVs [.q k, .q k] [] s = .ok ([v, v], t) ∧ t.mem = s.mem ∧ t.me = { s.me with noFlush := true } ∧
        t.bundles = updateFirst (·.id == b.id) (fun b => { b with
          queues := updateAt (fun q => { q with entries := rest, fullSince := none }) j b.queues }) s.bundles) ∧
    (s.me.qports[k] = some j → r.dst = s.me.stage → q.entries = [] →
      readVs [.q k] [] s = if q.closed then .error (.cause .qerr) else .error .hold) ∧
    (∀ v : VReg, s.me.qports[k] = some j → r.src = s.me.stage → (b.stages[r.dst]?).any (·.finished) = false →
      (q.entries.length < r.depth → s.me.releasing = false → ∃ t, writeDest (.q k) v s = .ok ((), t) ∧ t.mem = s.mem ∧
        t.me = { s.me with noFlush := true } ∧ t.bundles = updateFirst (·.id == b.id) (fun b => { b with
          queues := updateAt (fun q => { q with
            entries := q.entries ++ [.vec { val := lanes fun l => if s.me.active.has l then v.val[l] else 0,
                                            poison := v.poison &&& s.me.active }],
            fullSince := if q.entries.length + 1 == r.depth then some s.rtime.toNat else none }) j b.queues }) s.bundles) ∧
      (r.depth ≤ q.entries.length ∨ s.me.releasing = true → writeDest (.q k) v s = .error .hold)) ∧
    (∀ (v : SReg) (rest : List QEntry), s.me.sqports[k] = some j → r.dst = s.me.stage → q.entries = .sca v :: rest →
      ∃ t, readSs [.sq k, .sq k] [] s = .ok ([v, v], t) ∧ t.mem = s.mem ∧ t.me = { s.me with noFlush := true })


namespace Sys2Proof.Claims

/-- Vector loads: fields, extension, bytes per lane, names written (R119). -/
def loadForm : Instr → Option (FMem × LoadExt × Nat × Nat)
  | .ldb f => some (f, .zero, 1, 1)
  | .ldbs f => some (f, .sign, 1, 1)
  | .ldh f => some (f, .zero, 2, 1)
  | .ldhs f => some (f, .sign, 2, 1)
  | .ldw f => some (f, .zero, 4, 1)
  | .ldd f => some (f, .zero, 8, 2)
  | .ldq f => some (f, .zero, 16, 4)
  | _ => none

/-- Vector stores: fields, bytes per lane, names read (R119). -/
def storeForm : Instr → Option (FMem × Nat × Nat)
  | .stb f => some (f, 1, 1)
  | .sth f => some (f, 2, 1)
  | .stw f => some (f, 4, 1)
  | .std f => some (f, 8, 2)
  | .stq f => some (f, 16, 4)
  | _ => none

/-- Atomics: fields, operation, names read (R248). -/
def atomForm : Instr → Option (FMem × AtomOp × Nat)
  | .aadd f => some (f, .add, 1)
  | .amin f => some (f, .min, 1)
  | .amax f => some (f, .max, 1)
  | .aminu f => some (f, .minu, 1)
  | .amaxu f => some (f, .maxu, 1)
  | .aand f => some (f, .and, 1)
  | .aor f => some (f, .or, 1)
  | .axor f => some (f, .xor, 1)
  | .axch f => some (f, .xch, 1)
  | .acas f => some (f, .cas, 2)
  | .afadd f => some (f, .fadd, 1)
  | _ => none

/-- Names d, d+1, ... of a group (R25). -/
def group (d : Fin 116) (n : Nat) : List (Fin 116) := (List.range n).map (vnext d)

/-- The base register of a memory word may be consumed (R27, R31): a lane is active and the register is clean, or no lane is. -/
def baseOk (s : State) (n : Fin 56) : Bool := s.me.active == 0 || !(s.seeS n).poison

/-- The lane parts of a vector memory word, with the bytes that a lane stores. -/
def lanesOf (s : State) (f : FMem) (data : Fin 32 → List Byte) : List (Fin 32 × Nat × List Byte) :=
  (s.laneVas f).map fun x => (x.1, x.2, data x.1)

/-- Every lane's access is allowed. -/
def allAllowed (s : State) (k : Acc) (sc : Scope) (len : Nat) (parts : List (Fin 32 × Nat × List Byte)) : Bool :=
  parts.all fun x => s.allows k sc len x.2.1

/-- Every part of a word that reads or stores a block as a whole is allowed (R70). -/
def wholeAllowed (s : State) (k : Acc) (len : Nat) (parts : List (Fin 32 × Nat × List Byte)) : Bool :=
  parts.all fun x => s.allowsAs k 0 .none len x.2.1

/-- No copy of a line differs from the line. -/
def noDiffering (s : State) (n : Nat) : Bool := (s.line n).holders.all fun h => h.own.isNone

/-- The state after the accesses of a word have been noted in page tables and TLB. -/
def afterNote (s : State) (k : Acc) (parts : List (Fin 32 × Nat × List Byte)) : State := s.begun.noted k (parts.map (·.2.1))

/-- Device or host memory. -/
def ordinary (pa : Nat) : Bool := regionOf pa == .device || regionOf pa == .host

/-- A read that sees memory as it stands: no store of its own party or crew-mates over its bytes is still to be performed, none of its bytes is
tentative, and no copy differs or is about to (R136, R225, R287). -/
def plainRead (s : State) (p : Party) (e : Pend) : Prop :=
  (∀ n, noDiffering s n = true) ∧ p.injOp ≠ 2 ∧ ∀ a ∈ e.accs,
    ordinary a.pa = true ∧ s.tentativeAt p a.va a.len = [] ∧ (s.line (a.pa / 128)).salvaged = [] ∧
    ∀ b ∈ (s.earlyStores p).map (·.2) ++ ((p.pend.takeWhile fun x => x.id != e.id).flatMap fun x => if x.performed then [] else x.accs),
      overlaps a.pa a.len b.pa b.len = false

/-- A word can read these 4-byte parts as it issues: each is allowed, the party's earlier words are performed, and nothing holds the read itself
(R56, R118, R224). -/
def readable (s : State) (parts : List (Fin 32 × Nat × List Byte)) : Bool :=
  let t := s.noted .load (parts.map (·.2.1))
  wholeAllowed s .load 4 parts && s.me.pend.all (·.performed) &&
    !t.obstructed t.me (t.me.wordNow (.sld 0) (parts.map (s.partAt .load 4)))

/-- The state that the read leaves, and what it has read: the bytes of each part, and whether an element of it is poisoned. -/
def readIssued (s : State) (parts : List (Fin 32 × Nat × List Byte)) : State × List (List Byte × Bool) :=
  let t := s.noted .load (parts.map (·.2.1))
  let x := t.loadLanes t.me (t.me.wordNow (.sld 0) (parts.map (s.partAt .load 4))) (parts.map (s.partAt .load 4))
  (t.keepPort fun _ => x.1.logNow (.sld 0) x.2.1, x.2.2.map fun y => (y.2.1, y.2.2.any id))

/-- What a read made at issue is worth: where it sees memory as it stands it changes no register and no byte beyond A in the page tables, and has
the bytes of each part, with the poison of its element (R119, R378). -/
def ReadsAtIssue : Prop :=
  ∀ (s : State) (parts : List (Fin 32 × Nat × List Byte)), s.memOk → readable s parts = true →
    (let t := s.noted .load (parts.map (·.2.1))
     let accs := parts.map (s.partAt .load 4)
     plainRead t t.me (t.me.wordNow (.sld 0) accs) → (∀ a ∈ accs, a.pa % 4 = 0) →
     (readIssued s parts).1.mem = t.mem ∧ (readIssued s parts).1.poison = t.poison ∧
       (readIssued s parts).1.me.vregs = s.me.vregs ∧ (readIssued s parts).1.me.sregs = s.me.sregs ∧
       (readIssued s parts).2 = accs.map fun a => (t.keyedBytes a.kid a.pa 4, t.poison.contains (a.pa / 4)))

/-- The value of a uniform operand that is not poisoned, and the state once it has been read: a port pops the entry at the head of its queue (R29,
R30, R105). -/
def operandOf (s : State) : SOp → Option (DWord × State)
  | .s n => if (s.seeS n).poison = true then none else some ((s.seeS n).val, s)
  | .sq k => do
    let j ← s.me.sqports[k]
    let b ← s.bundle s.me.bundle
    let q ← b.queues[j]?
    let r ← b.desc.queues[j]?
    let (v, rest) ← match q.entries with
      | .sca x :: rest => if x.poison = false ∧ r.dst = s.me.stage then some (x.val, rest) else none
      | _ => none
    let taken (c : Bundle) : Bundle :=
      { c with queues := updateAt (fun q => { q with entries := rest, fullSince := none }) j c.queues }
    some (v, { s with bundles := updateFirst (·.id == b.id) taken s.bundles, me := { s.me with noFlush := true } })

/-- A word that accesses memory: its access, its scope, its lane parts of `len` bytes each; and whether it may issue, its registers fit and no
operand that it consumes is poisoned. -/
structure MemForm where
  k : Acc
  sc : Scope
  len : Nat
  parts : List (Fin 32 × Nat × List Byte)
  issues : Bool
  fits : Bool
  clean : Bool

/-- The loads, stores and atomics of FM, SLD and SST (R111, R117-R121, R246). -/
def memForm (s : State) (i : Instr) : Option MemForm :=
  match loadForm i, storeForm i, atomForm i with
  | some (f, _, len, n), _, _ => some
    { k := .load, sc := f.scope, len, parts := lanesOf s f fun _ => [], issues := s.canRun f.w 1 && s.room true false
      fits := s.fitsAll (if f.lx then [f.a] else []) (group f.d n), clean := baseOk s f.s && s.cleanIn s.me.active [f.a] }
  | _, some (f, len, n), _ => some
    { k := .store, sc := f.scope, len, parts := lanesOf s f (storeBytes ((group f.d n).map s.seeV) len)
      issues := s.canRun f.w 1 && s.room false true, fits := true
      clean := baseOk s f.s && s.cleanIn s.me.active (f.a :: group f.d n) }
  | _, _, some (f, _, n) => some
    { k := .atomic, sc := f.scope, len := 4, parts := lanesOf s f fun _ => [], issues := s.canRun f.w 1 && s.room true false
      fits := s.fitsAll (if f.lx then group f.d n ++ [f.a] else []) [f.d], clean := baseOk s f.s && s.cleanIn s.me.active (f.a :: group f.d n) }
  | _, _, _ => match i with
    | .sld w _ a imm => some
      { k := .load, sc := .none, len := 8, parts := [(0, ((s.seeS a).val + imm.signExtend 64).toNat, [])]
        issues := s.canRun w 1 && s.room true false, fits := true, clean := !(s.seeS a).poison }
    | .sst w (.s d) a imm => some
      { k := .store, sc := .none, len := 8
        parts := [(0, ((s.seeS a).val + imm.signExtend 64).toNat, bytesLE 8 (s.seeS d).val.toNat)]
        issues := s.canRun w 1 && s.room false false, fits := true, clean := !(s.seeS a).poison && !(s.seeS d).poison }
    | _ => none

/-- The cause that a memory word stops with, the first that any lane has in this order: ILLI for a write-back beyond VREG, POIS, ALGN, XLAT, PERM;
then HOME, and FPRT with the record of the race (R118, R242, R251, R357, R395). -/
def MemForm.stop (m : MemForm) (s : State) : Option Stop :=
  let place (x : Fin 32 × Nat × List Byte) : Except Cause Trans := s.translate s.me m.k x.2.1
  let lost (x : Fin 32 × Nat × List Byte) : Bool := match place x with | .ok t => s.homeLost s.me m.k t.pa t.kid | .error _ => false
  let denied (x : Fin 32 × Nat × List Byte) : Bool := match place x with
    | .ok t => s.forbidden s.me m.k m.sc x.2.1 m.len t
    | .error _ => true
  let race (x : Fin 32 × Nat × List Byte) : Option Stop := match place x with
    | .ok t => (s.racedJob (m.k != .load) t.pa).map fun j => .race (s.raceRecord s.me m.sc t.pa t.kid j)
    | .error _ => none
  if !m.fits then some (.cause .illi)
  else if !m.clean then some (.cause .pois)
  else if m.parts.any fun x => x.2.1 % m.len != 0 then some (.cause .algn)
  else match m.parts.find? fun x => match place x with | .error .xlat => true | _ => false with
    | some x => some (.refused .xlat x.2.1 m.k)
    | none => match m.parts.find? denied with
      | some x => some (.refused .perm x.2.1 m.k)
      | none => if m.parts.any lost then some (.cause .home) else m.parts.findSome? race

/-- What the rules of an access forbid on a page that a leaf allows: peers but at system scope, by gangs, over a link that is up; other memory
types in a stash window and in a draft window, slots beyond the tentative ones, atomics on the tentative ones; register windows but in the access
size of their registers by the supervisor, and a store to a slot that the gang itself runs from; atomics on uncached and write-combined pages (R70,
R86, R125, R136, R236, R251, R301, R370). -/
def ruledOut (s : State) (k : Acc) (sc : Scope) (va size : Nat) (t : Trans) : Prop :=
  let writes := k = .store ∨ k = .atomic
  (regionOf t.pa = .peer ∧ (sc ≠ .sys ∨ s.me.isThread = true ∨ (s.ports[t.pa / 2 ^ 44 % 16]?).any (·.up) = false)) ∨
  (∃ (c : Crew) (n : Nat) (x : Window), s.crewOf s.me = some c ∧ c.windows.toList[n]? = some (some x) ∧ x.va ≤ va ∧ va < x.va + x.len ∧ (t.mt = 1 ∨ t.mt = 2)) ∨
  (∃ (c : Crew) (d : Draft), s.crewOf s.me = some c ∧ c.draft = some d ∧ d.base ≤ va ∧ va < d.base + d.nslot * d.slotsz ∧
    (t.mt ≠ 0 ∨ (writes ∧ d.c + 16 ≤ (va - d.base) / d.slotsz) ∨
      (k = .atomic ∧ d.c ≤ (va - d.base) / d.slotsz ∧ (va - d.base) / d.slotsz < min (d.c + 16) d.nslot))) ∨
  (regionOf t.pa = .window ∧
    (let slots := t.pa < 0xFFF0000000000 + 0x4000 * 512
     let counters := 0xFFF0001000000 ≤ t.pa ∧ t.pa < 0xFFF0001000000 + 0x1000 * 4
     (slots ∧ (s.me.sup = false ∨ size ≠ 4 ∨ (writes ∧ t.pa / 0x4000 % 512 = s.me.core ∧ s.me.holdsSlot (t.pa / 256 % 64) = true))) ∨
       (counters ∧ (s.me.sup = false ∨ size ≠ 8)) ∨ ¬(slots ∨ counters))) ∨
  (k = .atomic ∧ (t.mt = 1 ∨ t.mt = 2))

/-- A malformed entry at a level: W without R; a leaf at the root, or whose PA is not aligned to its size; a next table with any of the bits set
that only a leaf has (R355). -/
def faultyEntry (e : BitVec 64) (level : Nat) : Prop :=
  let n := e.toNat
  let leaf := n / 2 % 8 ≠ 0
  (n / 4 % 2 = 1 ∧ n / 2 % 2 = 0) ∨ (leaf ∧ (level = 4 ∨ n / 2 ^ 12 % 2 ^ 40 * 4096 % 2 ^ (12 + 9 * level) ≠ 0)) ∨
    (¬ leaf ∧ (n / 16 % 256 ≠ 0 ∨ n / 2 ^ 52 ≠ 0))

/-- A leaf of a level allows an access: the right it needs, the privilege, and a placement that its region and the partition allow (R357, R358). -/
def leafAllows (dies : BitVec 4) (sup : Bool) (k : Acc) (level : Nat) (e : BitVec 64) : Prop :=
  let n := e.toNat
  let r := n / 2 % 2 = 1
  let w := n / 4 % 2 = 1
  let u := n / 16 % 2 = 1
  let mt := n / 2 ^ 8 % 4
  let pl := n / 2 ^ 10 % 4
  let pa := n / 2 ^ 12 % 2 ^ 40 * 4096
  (match k with | .load => r | .store => w | .atomic => r ∧ w | .fetch => n / 8 % 2 = 1) ∧
  (sup = false → u) ∧ (sup = true → k = .fetch → ¬ u) ∧
  ((pa < 2 ^ 39 ∧ (pl = 0 ∨ (pl = 1 ∧ dies.getLsbD (n / 2 ^ 52 % 4) = true)) ∧
      ∀ a, pa ≤ a → a < pa + 2 ^ (12 + 9 * level) → dies.getLsbD (a / 2 ^ 37) = true) ∨
    (2 ^ 48 ≤ pa ∧ pa < 2 ^ 49 ∧ pl = 2 ∧ (mt = 1 ∨ mt = 3)) ∨
    (2 ^ 49 ≤ pa ∧ pa < 3 * 2 ^ 48 ∧ pl = 0 ∧ mt = 1 ∧ dies.getLsbD (pa / 2 ^ 44 % 16 / 4) = true) ∨
    (0xFFF0000000000 ≤ pa ∧ pl = 0 ∧ mt = 1 ∧ ¬ u))

/-- EARLYREL acts on a store word: it is a release, and it stores something, no lane of it into a draft window (R136, R287). -/
def sendsEarly (s : State) (ord : Bool) (parts : List (Fin 32 × Nat × List Byte)) : Bool :=
  ord && s.me.injOp == 1 && !parts.isEmpty && parts.all fun x => !s.draftStore s.me .store x.2.1

end Sys2Proof.Claims

/-- Vector loads issue: an outstanding word that names each lane's address and key; no register but the marked offset
changes, and of memory only A in the page tables (R47, R356, R56, R117-R121). -/
def Obligations.LoadsIssue : Prop :=
  ∀ (i : Instr) (f : FMem) (ext : LoadExt) (len regs : Nat) (s : State),
    loadForm i = some (f, ext, len, regs) → s.canRun f.w 1 = true → s.room true false = true →
    s.fitsAll (if f.lx then [f.a] else []) (group f.d regs) = true → baseOk s f.s = true → s.cleanIn s.me.active [f.a] = true →
    allAllowed s .load f.scope len (lanesOf s f fun _ => []) = true →
    exec i s = .next (State.retire ((afterNote s .load (lanesOf s f fun _ => [])).setMe
      ((s.begun.me.freeAll (if f.lx then [f.a] else [])).addPend (.load ext f.d regs) s.me.active
        ((lanesOf s f fun _ => []).map (s.partAt .load len)) f.ord f.scope none
        (if s.me.active == 0 then [] else group f.d regs))) 1)

/-- Vector stores issue: an outstanding word that holds each lane's address and bytes, marked where the lane lies in the tentative range of the
crew's draft window; a release under EARLYREL goes to its home at once (R47, R117-R121, R136, R287). -/
def Obligations.StoresIssue : Prop :=
  ∀ (i : Instr) (f : FMem) (len regs : Nat) (s : State),
    storeForm i = some (f, len, regs) → s.canRun f.w 1 = true → s.room false true = true → baseOk s f.s = true →
    s.cleanIn s.me.active (f.a :: group f.d regs) = true →
    (let parts := lanesOf s f (storeBytes ((group f.d regs).map s.seeV) len)
     allAllowed s .store f.scope len parts = true →
     let t := (afterNote s .store parts).setMe
       ((s.begun.me.freeAll (if f.lx then group f.d regs ++ [f.a] else [])).addPend (.store true true) s.me.active
         (parts.map (s.partAt .store len)) f.ord f.scope none [])
     exec i s = .next ((if sendsEarly s f.ord parts then t.injEarly s.me.ident s.me.nextId else t).retire 1))

/-- Atomics issue: an outstanding word that holds each lane's address, and the operands of the arithmetic; D awaits the old values
(R47, R117, R246-R248). -/
def Obligations.AtomicsIssue : Prop :=
  ∀ (i : Instr) (f : FMem) (op : AtomOp) (n : Nat) (s : State),
    atomForm i = some (f, op, n) → s.canRun f.w 1 = true → s.room true false = true → baseOk s f.s = true →
    s.fitsAll (if f.lx then group f.d n ++ [f.a] else []) [f.d] = true → s.cleanIn s.me.active (f.a :: group f.d n) = true →
    allAllowed s .atomic f.scope 4 (lanesOf s f fun _ => []) = true →
    exec i s = .next (State.retire ((afterNote s .atomic (lanesOf s f fun _ => [])).setMe
      ((s.begun.me.freeAll (if f.lx then group f.d n ++ [f.a] else [])).addPend
          (.atomic op f.d (((group f.d n).map s.seeV).getD 0 .zero).val (((group f.d n).map s.seeV).getD 1 .zero).val) s.me.active
          ((lanesOf s f fun _ => []).map (s.partAt .atomic 4)) f.ord f.scope none (if s.me.active == 0 then [] else [f.d]))) 1)

/-- SLD and SST issue: one access of 8 bytes at SA + IMM13, SLD on the load counter and SST on none (R47, R111). -/
def Obligations.UniformMemoryIssue : Prop :=
  (∀ (w : Bool) (d a : Fin 56) (imm : BitVec 13) (s : State), s.canRun w 1 = true → s.room true false = true →
    (s.seeS a).poison = false →
    (let parts := [((0 : Fin 32), ((s.seeS a).val + imm.signExtend 64).toNat, ([] : List Byte))]
     allAllowed s .load .none 8 parts = true →
     exec (.sld w d a imm) s = .next (State.retire ((afterNote s .load parts).setMe
       (s.begun.me.addPend (.sld d) 0xFFFFFFFF (parts.map (s.partAt .load 8)) false .none none [])) 1))) ∧
  (∀ (w : Bool) (d a : Fin 56) (imm : BitVec 13) (s : State), s.canRun w 1 = true → s.room false false = true →
    (s.seeS a).poison = false → (s.seeS d).poison = false →
    (let parts := [((0 : Fin 32), ((s.seeS a).val + imm.signExtend 64).toNat, bytesLE 8 (s.seeS d).val.toNat)]
     allAllowed s .store .none 8 parts = true →
     exec (.sst w (.s d) a imm) s = .next (State.retire ((afterNote s .store parts).setMe
       (s.begun.me.addPend (.store false false) 0xFFFFFFFF (parts.map (s.partAt .store 8)) false .none none [])) 1)))

/-- FENCE issues: an outstanding word without data, on no counter (R228, R252). -/
def Sys2Proof.Claims.FenceIssues : Prop :=
  ∀ (w : Bool) (k : FenceKind) (o : Scope) (s : State), s.canRun w 1 = true → s.room false false = true →
    exec (.fence w k o) s = .next (State.retire (s.begun.setMe (s.begun.me.addPend (.fence k) 0 [] true o none [])) 1)

/-- MON watches the line of its lowest active lane once it has read it, the newest MON alone, and with no active lane disarms the monitor; MWAIT
completes at once without a monitor, with a zero time, or when the line has changed, or as a replayed journal says, journaling why; otherwise it waits at its port,
and an entry that it has popped for its time is kept until the wait ends (R253-R255, R411, R412). -/
def Sys2Proof.Claims.MonitorWords : Prop :=
  (∀ (w : Bool) (a : Fin 116) (n : Fin 56) (x : Bool) (s : State), s.canRun w 1 = true → s.room true false = true →
    LaneMask.lanes s.me.active = [] →
    exec (.mon w a n x) s = .next (State.retire (s.begun.setMe { s.begun.me.freeAll (if x then [a] else []) with monitor := none, monPend := none }) 1)) ∧
  (∀ (w : Bool) (a : Fin 116) (n : Fin 56) (x : Bool) (s : State) (l : Fin 32) (r : List (Fin 32)) (y : Trans),
    s.canRun w 1 = true → s.room true false = true → LaneMask.lanes s.me.active = l :: r → (s.seeS n).poison = false →
    (s.seeV a).poison.has l = false →
    (let va := laneVa (s.seeS n).val (s.seeV a) l
     s.translate s.me .load va = .ok y → y.mt = 0 ∨ y.mt = 3 → s.allows .load .none 4 va = true →
     exec (.mon w a n x) s = .next (State.retire ((afterNote s .load [(l, va, [])]).setMe
       { (s.begun.me.freeAll (if x then [a] else [])).addPend .mon 0 [s.partAt .load 4 (l, va, [])] false .none none [] with
         monitor := none, monPend := some s.me.nextId }) 1))) ∧
  (∀ (w : Bool) (r : SOp) (s u : State) (v : DWord), s.canRun w 1 = true → s.checkerFree 1 = true → s.me.loads = 0 →
    operandOf s.begun r = some (v, u) → s.journalRoom s.me.part (journalBytes 3) = true →
    (s.me.monitor = none → exec (.mwait w r) s = .next (u.retire 1)) ∧
    (∀ m, s.me.monitor = some m → s.monitorFired s.me m = true → s.wakeRecorded s.me ≠ some 1 →
      exec (.mwait w r) s = .next (State.retire ((u.journalWake 0).setMe { (u.journalWake 0).me with monitor := none }) 1)) ∧
    (∀ m, s.me.monitor = some m → s.monitorFired s.me m = false → v = 0 → s.wakeRecorded s.me = none →
      exec (.mwait w r) s = .next ((u.journalWake 1).retire 1)) ∧
    (∀ m, s.me.monitor = some m → s.wakeRecorded s.me = some 1 → exec (.mwait w r) s = .next ((u.journalWake 1).retire 1)) ∧
    (s.debugBit s.me.part 7 = false → s.wakeRecorded s.me = none) ∧
    (s.debugBit s.me.part 6 = false → s.debugBit s.me.part 7 = false → ∀ k, s.journalWake k = s) ∧
    (∀ m, s.me.monitor = some m → s.monitorFired s.me m = false → s.wakeRecorded s.me ≠ some 1 → v ≠ 0 ∨ s.wakeRecorded s.me = some 0 →
      (let popped := s.me.poppedBy r v
       exec (.mwait w r) s = .next (State.deliverAsync { u.setMe { u.me with
         port := { u.me.port with
           wait := some (.mwait (if v = 0xFFFFFFFFFFFFFFFF then none else some (s.rtime.toNat + v.toNat))), popped }
         noFlush := if popped.isSome then s.me.noFlush else u.me.noFlush } with fresh := u.fresh + 1 }))))

/-- PREF raises nothing and writes no register, but that an injected FLIP that it meets is over; where no copy of a line differs from it, it changes
no byte of memory either (R133, R287). -/
def Sys2Proof.Claims.PrefetchCompletes : Prop :=
  ∀ (w l e : Bool) (a : Fin 116) (n : Fin 56) (x : Bool) (s : State), s.canRun w 1 = true → s.checkerFree 1 = true →
    ∃ t : State, exec (.pref w l e a n x) s = .next (t.retire 1) ∧ t.me = { s.begun.me.freeAll (if x then [a] else []) with inj := t.me.inj } ∧
      (s.me.injOp ≠ 2 → t.me.inj = s.me.inj) ∧ t.others = s.others ∧ t.spaces = s.spaces ∧ t.poison = s.poison ∧ ((∀ k, noDiffering s k = true) → ∀ b, t.byte b = s.byte b)

/-- Whom a scope includes, relative to a party: itself alone, its crew, its cluster with the engine's jobs, its die, its partition with the vent
cores, and the host and the peers at system scope alone; a pair includes both when each lies in the other's scope (R221). -/
def Sys2Proof.Claims.ScopesInclude : Prop :=
  (∀ (s : State) (p q : Party),
    (s.inScope .none (.party p) (.party q) = true ↔ p = q) ∧ (s.inScope .gang (.party p) (.party q) = true ↔ p = q) ∧
    (s.inScope .crew (.party p) (.party q) = true ↔
      p = q ∨ (p.isThread = false ∧ q.isThread = false ∧ q.bundle = p.bundle ∧ q.stage = p.stage ∧ q.crew = p.crew)) ∧
    (s.inScope .clu (.party p) (.party q) = true ↔ p.cluster = q.cluster) ∧
    (s.inScope .die (.party p) (.party q) = true ↔ p.cluster / 32 = q.cluster / 32) ∧
    ((∀ (d : Nat) (t u : Fin 4), s.parts[t].dies.getLsbD d = true → s.parts[u].dies.getLsbD d = true → t = u) →
      (s.inScope .dev (.party p) (.party q) = true ↔
        p = q ∨ ∃ t : Fin 4, s.parts[t].dies.getLsbD (p.cluster / 32) = true ∧ s.parts[t].dies.getLsbD (q.cluster / 32) = true))) ∧
  (∀ (s : State) (p : Party) (j : Job) (n o : Nat) (c : Scope),
    (s.inScope .clu (.party p) (.job j) = true ↔ p.cluster = j.cluster) ∧
    (s.inScope .dev (.party p) (.vent n) = true ↔ ∃ t : Fin 4, s.parts[t].dies.getLsbD (p.cluster / 32) = true) ∧
    (s.inScope c (.party p) .host = true ↔ c = .sys) ∧ (s.inScope c (.party p) (.peer o) = true ↔ c = .sys)) ∧
  (∀ (s : State) (c : Scope) (x y : Agent), s.inScopeBoth c x y = true ↔ s.inScope c x y = true ∧ s.inScope c y x = true)

/-- Fences and prefetches, and the parties that scopes include (R133, R221, R228, R252). -/
def Obligations.FencesAndPrefetch : Prop :=
  Sys2Proof.Claims.FenceIssues ∧ Sys2Proof.Claims.PrefetchCompletes ∧ Sys2Proof.Claims.ScopesInclude

/-- CMO issues where every page of its range translates and no line of it races with a job: an outstanding word that names the lines of the
range, on the store counter; the level of the salvage form is for the supervisor (R242, R256, R257). -/
def Sys2Proof.Claims.CacheWordsIssue : Prop :=
  ∀ (w : Bool) (op : CmoOp) (lv : Fin 6) (r : Fin 56) (s : State), s.canRun w 1 = true → s.room false true = true →
    (s.seeS r).poison = false → (s.seeS (snext r 1)).poison = false → (lv.val = 5 → s.me.sup = true) →
    (let vas := linesOf (s.seeS r).val.toNat (s.seeS (snext r 1)).val.toNat
     (∀ va ∈ vas, ∃ y, s.translate s.me .load va = .ok y ∧ (y.mt ≠ 1 → s.racedJob false y.pa = none)) →
     exec (.cmo w op lv r) s = .next (State.retire ((s.begun.noted .load vas).setMe (s.begun.me.addPend (.cmo op lv.val) 0
       (vas.filterMap fun va => match s.translate s.me .load va with
         | .ok y => if y.mt != 1 then some { lane := 0, va, pa := y.pa, kid := y.kid, mt := y.mt, len := 128, data := [] } else none
         | .error _ => none) false .none none [])) 1))

/-- CLAIM issues where every leaf of its range may move and the new home has room: an outstanding word that names the leaves (R258). -/
def Sys2Proof.Claims.ClaimIssues : Prop :=
  ∀ (w : Bool) (r : Fin 56) (s : State) (va len : Nat) (ls : List (Nat × Nat × BitVec 64)),
    s.canRun w 1 = true → s.room false true = true → (s.seeS r).poison = false → (s.seeS (snext r 1)).poison = false →
    (s.seeS r).val.toNat = va → (s.seeS (snext r 1)).val.toNat = len → va % 4096 = 0 → len % 4096 = 0 →
    (let stop := if len == 0 then va else rangeEnd va len
     s.leavesIn s.me ((stop - va) / 4096) va stop = ls.map fun x => (x.1, .ok x.2)) →
    (∀ x ∈ ls, claimable s.me.sup x.2.2 = true ∧ s.extentMixed s.me.part x.2.1 x.2.2 = false) →
    (((s.homedPages.filter (·.2 == s.me.die)).map (·.1) ++ s.reservedPages s.me.die ++
      ls.flatMap fun x => leafPages x.2.1 x.2.2).eraseDups).length ≤ diePages →
    exec (.claim w r) s = .next (State.retire (s.begun.setMe (s.begun.me.addPend
      (.claim (ls.map (·.1)) (s.parties.map fun q => (q.ident, q.nextId)) s.nextJob) 0 [] false .none none [])) 1)

/-- Cache maintenance words and CLAIM (R256-R258). -/
def Obligations.CacheAndClaimWords : Prop := Sys2Proof.Claims.CacheWordsIssue ∧ Sys2Proof.Claims.ClaimIssues

/-- BAR issues: its arrive part is an outstanding release at the barrier's first 16 bytes, and its wait part keeps the word at its port
(R255, R259, R260). -/
def Sys2Proof.Claims.BarrierWords : Prop :=
  ∀ (w : Bool) (r : Fin 56) (o : Scope) (s : State) (y : Trans), s.canRun w 1 = true → s.checkerFree 2 = true → s.me.stores < 30 →
    (s.seeS r).poison = false → (s.seeS (snext r 1)).poison = false →
    (let va := (s.seeS r).val.toNat
     let ph : Word := (s.seeS (snext r 1)).val.truncate 32
     let a := s.partAt .atomic 16 (0, va, [])
     let arrived (p : Party) : Party := p.addPend .arrive 0 [a] true o none []
     let waits (p : Party) (n : Option Nat) : Party := { p.passed with port := { p.passed.port with wait := some (.bar a ph o n) } }
     s.translate s.me .atomic va = .ok y → y.mt = 0 → s.allows .atomic o 16 va = true →
     (exec (.bar w .arrive r o) s = .next (State.retire ((afterNote s .atomic [(0, va, [])]).setMe (arrived s.begun.me)) 1) ∧
      exec (.bar w .wait r o) s = .next (State.deliverAsync
        { (afterNote s .atomic [(0, va, [])]).setMe (waits s.begun.me none) with fresh := s.fresh + 1 }) ∧
      exec (.bar w .arwait r o) s = .next (State.deliverAsync
        { (afterNote s .atomic [(0, va, [])]).setMe (waits (arrived s.begun.me) (some s.me.nextId)) with fresh := s.fresh + 1 })))

/-- MON, MWAIT and BAR (R253-R255, R259, R260). -/
def Obligations.MonitorAndBarrierWords : Prop := Sys2Proof.Claims.MonitorWords ∧ Sys2Proof.Claims.BarrierWords

/-- SMAP maps a window and moves nothing; SUNMAP unmaps it once no access of the crew to it is outstanding: with DISCARD its lines are dropped
at once, as a relaxed store to each dirty one that waits for what is ordered before it, and without it stays on the store counter until its lines
have left the stash (R124, R126, R228, R237). -/
def Sys2Proof.Claims.StashWords : Prop :=
  (∀ (w : Bool) (n : Fin 8) (r : Fin 56) (s : State) (c : Crew), s.canRun w 1 = true → s.checkerFree 1 = true → s.crewOf s.me = some c →
    (s.seeS r).poison = false → (s.seeS (snext r 1)).poison = false → (s.seeS (snext r 2)).poison = false →
    (let va := (s.seeS r).val.toNat
     let len := (s.seeS (snext r 1)).val.toNat
     let off := (s.seeS (snext r 2)).val.toNat
     smapLegal (s.core s.me.core) c n va len off = true →
     exec (.smap w n r) s = .next (State.retire (s.begun.changeCrew s.begun.me fun c =>
       { c with windows := c.windows.set n (some { va, len, off, asid := s.me.asid, lines := [], dirty := [] }) }) 1))) ∧
  (∀ (w : Bool) (n : Fin 8) (s : State) (c : Crew) (x : Window), s.canRun w 1 = true → s.room false true = true →
    s.crewOf s.me = some c → c.windows[n] = some x → s.crewTouches s.me x.va x.len = false →
    (let t := s.begun.changeCrew s.begun.me fun c => { c with windows := c.windows.set n none }
     let accs (ns : List Nat) : List LaneAcc :=
       ns.map fun k => { lane := 0, va := 0, pa := k * 128, kid := (s.line k).kid, mt := 0, len := 128, data := [] }
     (s.me.ready (s.me.wordNow (.store false false) (accs (x.dirty.map (·.1)))) = true →
       (let u := t.discardWindow s.me.unit x
        let v := u.stampAll u.me (accs (x.dirty.map (·.1)))
        exec (.sunmap w n true) s = .next (State.retire (v.1.logNow (.store false false) v.2) 1))) ∧
     exec (.sunmap w n false) s = .next (State.retire (t.setMe (s.begun.me.addPend (.sunmap n.val) 0 (accs x.lines) false .none none [])) 1)))

/-- MQPUT takes a credit and leaves an entry on its way, with 0 in its inactive lanes; MQGET takes the head entry, and the credit goes back to
the core that sent it (R127-R129). -/
def Sys2Proof.Claims.MessageQueueWords : Prop :=
  (∀ (w : Bool) (d : Fin 116) (r : Fin 56) (x : Bool) (o : Scope) (s : State), s.canRun w 1 = true → s.room false false = true →
    (s.seeS r).poison = false → (s.seeS r).val.toNat < 16 →
    (let k := (s.seeS r).val.toNat % 4
     let q := (s.seeS r).val.toNat / 4
     let u := s.me.core / 4 * 4 + k
     s.mqServes u s.me = true → s.me.engines < 6 →
     0 < (s.core s.me.core).credits[4 * k + q]?.getD 0 → s.cleanIn s.me.active [d] = true →
     exec (.mqput w d r x o) s = .next (State.retire ((s.begun.changeCore s.me.core fun c =>
         { c with credits := c.credits.setIfInBounds (4 * k + q) (c.credits[4 * k + q]?.getD 1 - 1) }).setMe
       { (s.begun.me.freeAll (if x then [d] else [])).addPend
           (.mqput u q { val := lanes fun l => if s.me.active.has l then (s.seeV d).val[l] else 0,
                          poison := (s.seeV d).poison &&& s.me.active }) s.me.active [] (o != .none) o none [] with
         noFlush := true }) 1))) ∧
  (∀ (w : Bool) (d : Fin 116) (r : Fin 56) (o : Scope) (s : State) (e : MqEntry) (rest : List MqEntry),
    s.canRun w 1 = true → s.room false false = true → (s.seeS r).poison = false → (s.seeS r).val.toNat < 4 →
    s.fitsAll [] [d] = true → s.mqServes s.me.core s.me = true → s.me.engines < 6 →
    (s.core s.me.core).mq[(s.seeS r).val.toNat]?.getD [] = e :: rest →
    ∃ t : State, exec (.mqget w d r o) s = .next (t.retire 1) ∧ t.mem = s.mem ∧
      t.me = { s.begun.me.addPend (.mqget d e.entry) s.me.active [] (o != .none) o (some [e.entry])
                 (if s.me.active == 0 then [] else [d]) with noFlush := true } ∧
      (t.core s.me.core).mq[(s.seeS r).val.toNat]?.getD [] = rest ∧
      (t.core (s.me.core / 4 * 4 + e.sender)).credits[4 * (s.me.core % 4) + (s.seeS r).val.toNat]?.getD 0 =
        (s.core (s.me.core / 4 * 4 + e.sender)).credits[4 * (s.me.core % 4) + (s.seeS r).val.toNat]?.getD 0 + 1)

/-- The stash and the message queues (R124, R126-R129). -/
def Obligations.StashAndMessageWords : Prop := Sys2Proof.Claims.StashWords ∧ Sys2Proof.Claims.MessageQueueWords

/-- VSPILL stores a register's record, with the poison bits in it, as words of 4 bytes from an address aligned to 16, and may free the register;
no lane needs to be active (R130, R131). -/
def Sys2Proof.Claims.SpillIssues : Prop :=
  ∀ (w : Bool) (d : Fin 116) (n : Fin 56) (x : Bool) (s : State), s.canRun w 1 = true → s.room false true = true →
    (s.seeS n).poison = false → (s.seeS n).val.toNat % 16 = 0 →
    (let r := spillRecord (s.spillSource d)
     let parts := (List.range (r.length / 4)).map fun k =>
       ((0 : Fin 32), ((s.seeS n).val.toNat + 4 * k) % 2 ^ 64, (r.drop (4 * k)).take 4)
     wholeAllowed s .store 4 parts = true →
     exec (.vspill w d n x) s = .next (State.retire ((afterNote s .store parts).setMe
       ((s.begun.me.freeAll (if x then [d] else [])).addPend (.store true true) 0 (parts.map (s.partAt .store 4)) false .none none [])) 1))

/-- A fill gives back what a spill recorded: the record of a register or of an unbound name decodes to that register, poison included, or to an
unbound name (R130-R132). -/
def Sys2Proof.Claims.SpillRoundTrip : Prop :=
  ∀ v : Option VReg, fillReg ((List.range ((spillRecord v).length / 4)).map fun k => (((spillRecord v).drop (4 * k)).take 4, false)) = v

/-- VFILL reads its tag and then the payload that a good tag names, and leaves the register among the outstanding words, on the load counter
(R47, R132). -/
def Sys2Proof.Claims.FillIssues : Prop :=
  ∀ (w : Bool) (d : Fin 116) (n : Fin 56) (s : State), s.canRun w 1 = true → s.checkerFree 2 = true → s.me.loads < 30 →
    s.me.fits [] [d] = true → (s.seeS n).poison = false → (s.seeS n).val.toNat % 16 = 0 →
    readable s.begun (wordParts (s.seeS n).val.toNat 4) = true →
    (let x := readIssued s.begun (wordParts (s.seeS n).val.toNat 4)
     let t := natLE ((x.2.flatMap (·.1)).take 4)
     let good := decide (t / 2 ^ 16 = 0x5653) && decide (t % 256 ≤ 4) && decide (t / 256 % 256 = spillLen (t % 256)) &&
       decide (natLE ((x.2.flatMap (·.1)).drop 8) = 0) && x.2.all (!·.2)
     let rest := if good then wordParts ((s.seeS n).val.toNat + 16) (spillLen (t % 256) / 4) else []
     readable x.1 rest = true →
     (let y := readIssued x.1 rest
      ∃ u : State, exec (.vfill w d n) s = .next (u.retire 1) ∧ u.mem = y.1.mem ∧ u.me.vregs = y.1.me.vregs ∧
        u.me.loads = y.1.me.loads + 1 ∧
        ∃ e ∈ u.me.pend, e.kind = .vfill d ∧ e.performed = true ∧ e.dests = [d] ∧
          e.bound = some (match fillReg (x.2 ++ y.2) with | some v => [v] | none => [])))

/-- VSPILL and VFILL issue, and a fill gives back what a spill recorded (R47, R130-R132). -/
def Obligations.SpillsAndFills : Prop :=
  Sys2Proof.Claims.SpillIssues ∧ Sys2Proof.Claims.FillIssues ∧ Sys2Proof.Claims.SpillRoundTrip

/-- One part of the stores that a draft word makes: they go to memory, whatever window they lie in (R137). -/
def Sys2Proof.Claims.storePart (s : State) (x : Fin 32 × Nat × List Byte) : LaneAcc :=
  { s.partAt .store 1 x with len := x.2.2.length, tent := false }

/-- DWOPEN opens the crew's draft window from a descriptor that passes its checks, DWOPEN.CLOSE closes it, and DWACC hands exactly the accepted
slots' bytes to memory as relaxed stores, the descriptor's after them, moves C up and forgets the rest (R134, R135, R137). -/
def Sys2Proof.Claims.DraftWords : Prop :=
  (∀ (w : Bool) (r : Fin 56) (s : State) (c : Crew), s.canRun w 1 = true → s.room false false = true → s.crewOf s.me = some c →
    (s.seeS r).poison = false → (s.seeS r).val.toNat % 32 = 0 → readable s.begun (wordParts (s.seeS r).val.toNat 8) = true →
    (let x := readIssued s.begun (wordParts (s.seeS r).val.toNat 8)
     let bs := x.2.flatMap (·.1)
     let d : Draft :=
       { holder := s.me.ident, desc := (s.seeS r).val.toNat, base := natLE (bs.take 8), slotsz := natLE ((bs.drop 8).take 4)
         c := natLE ((bs.drop 12).take 4), t := 0, nslot := natLE ((bs.drop 20).take 4), stashoff := natLE ((bs.drop 24).take 4), bytes := [] }
     (∀ y ∈ x.2, y.2 = false) → draftLegal (s.core s.me.core) c d bs = true →
     exec (.dwopen w false r) s = .next (State.retire (x.1.changeCrew x.1.me fun c => { c with draft := some d }) 1))) ∧
  (∀ (w : Bool) (r : Fin 56) (s : State) (c : Crew) (d : Draft), s.canRun w 1 = true → s.checkerFree 1 = true →
    s.crewOf s.me = some c → c.draft = some d → d.holder = s.me.ident → s.draftQuiet s.me d = true →
    (let desc := [((0 : Fin 32), d.desc + 12, bytesLE 4 d.c), (0, d.desc + 16, bytesLE 4 0)]
     wholeAllowed s .store 1 desc = true →
     exec (.dwopen w true r) s = .next (State.retire (((afterNote s .store desc).setMe (s.begun.me.addPend (.store false false) 0
       (desc.map (storePart s)) false .none none [])).changeCrew s.begun.me fun c => { c with draft := none }) 1))) ∧
  (∀ (w : Bool) (r : Fin 56) (s : State) (c : Crew) (d : Draft) (n : Nat), s.canRun w 1 = true → s.checkerFree 2 = true →
    (s.seeS r).poison = false → (s.seeS r).val.toNat = n → s.crewOf s.me = some c → c.draft = some d → d.holder = s.me.ident →
    s.draftQuiet s.me d = true → n ≤ d.t → d.c + n ≤ d.nslot →
    (let desc := [((0 : Fin 32), d.desc + 12, bytesLE 4 (d.c + n)), (0, d.desc + 16, bytesLE 4 0)]
     wholeAllowed s .store 1 (d.commits n ++ desc) = true →
     exec (.dwacc w r) s = .next (State.retire (((afterNote s .store (d.commits n ++ desc)).setMe
       ((s.begun.me.addPend (.store false false) 0 ((d.commits n).map (storePart s)) false .none none []).addPend (.store false false) 0
         (desc.map (storePart s)) false .none none [])).changeCrew s.begun.me
       fun c => { c with draft := some { d with c := d.c + n, t := 0, bytes := [] } }) 1))) ∧
  (∀ (d : Draft) (n va : Nat) (b : Byte), Tbl.sorted d.bytes = true →
    (((va, b) ∈ d.bytes ∧ d.slot va < d.c + n) ↔ ∃ x ∈ d.commits n, ∃ k, x.2.2[k]? = some b ∧ x.2.1 + k = va))

namespace Sys2Proof.Claims

/-- Lanes that a predicated branch takes (R82). -/
def takenBy (s : State) (f : FB) : LaneMask :=
  maskOf fun l => s.me.active.has l && ((s.me.pred f.p).has l != f.n)

/-- Target of a relative branch: the offset of its word plus four times the immediate, modulo 2^32 (R82, R110). -/
def targetOf (s : State) (k : Int) : Word := BitVec.ofInt 32 (Int.ofNat (s.me.port.head + 4 + 4 * s.me.port.idx) + 4 * k)

/-- Targets of the taken lanes are legal clause headers that may be fetched (R81). -/
def targetsOk (s : State) (m : LaneMask) (t : Lanes Word) : Bool :=
  (LaneMask.lanes m).all fun l => (s.targetCause (t[l]).toNat).isNone

/-- Lanes of a mask stand at their targets; the rest of the party is as it was (R82). -/
def moved (p : Party) (m : LaneMask) (t : Lanes Word) : Party :=
  { p with
    pcv := lanes fun l => if m.has l then t[l] else p.pcv[l]
    retFrom := lanes fun l => if m.has l then 0xFFFFFFFF else p.retFrom[l]
    port := { p.port with moved := p.port.moved ||| m } }

/-- A return offset is pushed in the lanes of a mask, none of which has four entries on chip (R34, R83). -/
def pushed (p : Party) (m : LaneMask) (ret : Word) : Party :=
  { p with
    rstack := lanes fun l => if m.has l then ret :: p.rstack[l] else p.rstack[l]
    rsdepth := lanes fun l => if m.has l then p.rsdepth[l] + 1 else p.rsdepth[l] }

/-- Every lane of a mask has room on chip (R34). -/
def roomOnChip (s : State) (m : LaneMask) : Bool := (LaneMask.lanes m).all fun l => decide ((s.me.rstack[l]).length < 4)

end Sys2Proof.Claims

/-- BRA, BRX and a taken SBRA move the taken lanes to their targets and change nothing else; a gang whose lanes do not take it goes on
(R81, R82, R110). -/
def Sys2Proof.Claims.Branches : Prop :=
  (∀ (f : FB) (s : State), s.canRun f.w 1 = true →
    (let t : Lanes Word := Vector.replicate 32 (targetOf s f.off.toInt)
     targetsOk s (takenBy s f) t = true →
     exec (.bra f) s = .next (((s.begun.setMe (moved s.begun.me (takenBy s f) t)).traceFlow (takenBy s f) t false).retire 1))) ∧
  (∀ (w : Bool) (a : Fin 116) (la : Bool) (s : State), s.canRun w 1 = true → s.cleanIn s.me.active [a] = true →
    targetsOk s s.me.active (s.seeV a).val = true →
    exec (.brx w (.v a) la) s = .next (((s.begun.setMe (moved (s.begun.me.freeAll (if la then [a] else [])) s.me.active
      (s.seeV a).val)).traceFlow s.me.active (s.seeV a).val true).retire 1)) ∧
  (∀ (w z : Bool) (a : Fin 56) (imm : BitVec 13) (s : State), s.canRun w 1 = true → (s.seeS a).poison = false →
    (let t : Lanes Word := Vector.replicate 32 (targetOf s imm.toInt)
     ((s.seeS a).val.toNat = 0 ↔ z = true) → targetsOk s s.me.active t = true →
     exec (.sbra w z (.s a) imm) s =
       .next (((s.begun.setMe (moved s.begun.me s.me.active t)).traceFlow s.me.active t false).retire 1)) ∧
    (¬((s.seeS a).val.toNat = 0 ↔ z = true) → exec (.sbra w z (.s a) imm) s = .next (s.begun.retire 1)))

/-- CALL and CALLX push the fall-through offset of their clause and move the lanes; a lane with four entries on chip sends its oldest to memory
just below RSP (R34, R83). -/
def Sys2Proof.Claims.Calls : Prop :=
  (∀ (f : FB) (s : State), s.canRun f.w 1 = true →
    (let t : Lanes Word := Vector.replicate 32 (targetOf s f.off.toInt)
     targetsOk s (takenBy s f) t = true → roomOnChip s (takenBy s f) = true →
     exec (.call f) s = .next (((s.begun.setMe (moved (pushed s.begun.me (takenBy s f) (BitVec.ofNat 32 s.me.port.fallThrough))
       (takenBy s f) t)).traceFlow (takenBy s f) t false).retire 1))) ∧
  (∀ (w : Bool) (a : Fin 116) (la : Bool) (s : State), s.canRun w 1 = true → s.cleanIn s.me.active [a] = true →
    targetsOk s s.me.active (s.seeV a).val = true → roomOnChip s s.me.active = true →
    exec (.callx w (.v a) la) s = .next (((s.begun.setMe (moved (pushed (s.begun.me.freeAll (if la then [a] else [])) s.me.active
      (BitVec.ofNat 32 s.me.port.fallThrough)) s.me.active (s.seeV a).val)).traceFlow s.me.active (s.seeV a).val true).retire 1)) ∧
  (∀ (f : FB) (s : State), s.canRun f.w 1 = true → s.room false true = true →
    (let t : Lanes Word := Vector.replicate 32 (targetOf s f.off.toInt)
     let sp := s.me.spills (takenBy s f)
     let parts := sp.map fun l => (l, (s.me.rsp[l] - 4).toNat, bytesLE 4 ((s.me.rstack[l]).getLastD 0).toNat)
     targetsOk s (takenBy s f) t = true → sp ≠ [] → (∀ l ∈ sp, s.me.inRegion l (s.me.rsp[l] - 4) = true) →
     allAllowed s .store .gang 4 parts = true →
     ∃ u : State, exec (.call f) s = .next (u.retire 1) ∧ u.mem = s.mem ∧
       u.me.pend = s.me.pend ++ [{ id := s.me.nextId, kind := .store true true, active := maskOf fun l => sp.contains l,
                                   accs := parts.map (s.partAt .store 4), past := [], vals := [], ord := false, scope := .gang, bound := none, performed := false,
                                   early := 0, flags := 0, tp := 0, pos := s.me.position, dests := [] }] ∧
       (∀ l : Fin 32, u.me.rsp[l] = if sp.contains l then s.me.rsp[l] - 4 else s.me.rsp[l]) ∧
       (∀ l : Fin 32, (takenBy s f).has l = true → u.me.pcv[l] = targetOf s f.off.toInt ∧ u.me.rsdepth[l] = s.me.rsdepth[l] + 1 ∧
         u.me.rstack[l] = (BitVec.ofNat 32 s.me.port.fallThrough :: s.me.rstack[l]).take 4)))

/-- RET pops the newest entry of every active lane, from the chip or, where the chip holds none, from memory at RSP: its refills then are an
outstanding word on the load counter, and the RET is performed when they have returned, or raises POIS with nothing performed where one of them is
poisoned. A lane of depth 0 raises ILLI and nothing happens (R34, R47, R84, R345). -/
def Sys2Proof.Claims.Returns : Prop :=
  (∀ (w : Bool) (s : State), s.canRun w 1 = true → (∀ l ∈ LaneMask.lanes s.me.active, s.me.rsdepth[l] ≠ 0 ∧ s.me.rstack[l] ≠ []) →
    ∃ u : State, exec (.ret w) s = .next (u.retire 1) ∧ u.mem = s.mem ∧ u.me.vregs = s.me.vregs ∧ u.me.sregs = s.me.sregs ∧
      u.me.pend = s.me.pend ∧ u.me.rsp = s.me.rsp ∧
      ∀ l : Fin 32, if s.me.active.has l then
          u.me.pcv[l] = (s.me.rstack[l]).headD 0 ∧ u.me.rstack[l] = (s.me.rstack[l]).tail ∧ u.me.rsdepth[l] = s.me.rsdepth[l] - 1
        else u.me.pcv[l] = s.me.pcv[l] ∧ u.me.rstack[l] = s.me.rstack[l] ∧ u.me.rsdepth[l] = s.me.rsdepth[l]) ∧
  (∀ (w : Bool) (s : State) (l : Fin 32), s.canRun w 1 = true → s.me.active.has l = true → s.me.rsdepth[l] = 0 →
    exec (.ret w) s = .next (s.stopWord (.cause .illi))) ∧
  (∀ (w : Bool) (s : State), s.canRun w 1 = true → s.room true false = true → (∀ l ∈ LaneMask.lanes s.me.active, s.me.rsdepth[l] ≠ 0) →
    (let refill : LaneMask := maskOf fun l => s.me.active.has l && (s.me.rstack[l]).isEmpty
     let parts := (LaneMask.lanes refill).map fun l => (l, (s.me.rsp[l]).toNat, ([] : List Byte))
     refill ≠ 0 → allAllowed s .load .gang 4 parts = true →
     exec (.ret w) s = .next (State.deliverAsync { (afterNote s .load parts).setMe
       (let p := (s.begun.me.addPend .refill refill (parts.map (s.partAt .load 4)) false .gang none []).passed
        { p with port := { p.port with wait := some (.refill s.me.nextId) } }) with fresh := s.fresh + 1 }))) ∧
  (∀ (s t : State) (i : Ident) (n : Portion) (q : Party) (e0 e : Pend) (r : VReg) (rest : List VReg),
    s.pendOf i n.word = some (q, e0) → e0.kind = .refill → s.performIn i n.word false n.lanes = t → t.me.ident = i →
    t.pendOf i n.word = some (t.me, e) → e.kind = .refill → e.performed = true → e.bound = some (r :: rest) →
    t.me.port.wait = some (.refill n.word) →
    (let u := ({ t with fresh := t.fresh + 1 }.dropPend i n.word)
     let v := u.setMe { u.me with port := { u.me.port with wait := none } }
     (r.poison &&& e.active = 0 →
       exec (.readReturned i n) s = .next ((((v.return r.val).retire 1).dropFinished i n.word).openJobs)) ∧
     (r.poison &&& e.active ≠ 0 →
       exec (.readReturned i n) s = .next (((v.stopWord (.cause .pois)).dropFinished i n.word).openJobs)))) ∧
  (∀ (s : State) (back : Lanes Word),
    (let u := s.return back
     u.mem = s.mem ∧ u.me.vregs = s.me.vregs ∧ u.me.sregs = s.me.sregs ∧ u.me.pend = s.me.pend ∧
     ∀ l : Fin 32, if s.me.active.has l then
         u.me.pcv[l] = (s.me.rstack[l]).headD back[l] ∧ u.me.rstack[l] = (s.me.rstack[l]).tail ∧ u.me.rsdepth[l] = s.me.rsdepth[l] - 1 ∧
           u.me.rsp[l] = if (s.me.rstack[l]).isEmpty then s.me.rsp[l] + 4 else s.me.rsp[l]
       else u.me.pcv[l] = s.me.pcv[l] ∧ u.me.rstack[l] = s.me.rstack[l] ∧ u.me.rsdepth[l] = s.me.rsdepth[l] ∧ u.me.rsp[l] = s.me.rsp[l]))

/-- CALL and its kin, and RET (R34, R83, R84). -/
def Obligations.CallsAndReturns : Prop := Sys2Proof.Claims.Calls ∧ Sys2Proof.Claims.Returns

/-- EXIT ends the active lanes: their PC reads all ones, what they still await is dropped, and no other lane, no register and no memory changes
(R33, R85). -/
def Sys2Proof.Claims.ExitEndsLanes : Prop :=
  ∀ (w : Bool) (s : State), s.canRun w 1 = true →
    ∃ u : State, exec (.exit w) s = .next (u.retire 1) ∧ u.mem = s.mem ∧ u.me.vregs = s.me.vregs ∧ u.me.sregs = s.me.sregs ∧
      u.me.preds = s.me.preds ∧ (∀ e ∈ u.me.pend, match e.kind with
        | .load .. | .atomic .. | .mqget .. | .vfill .. | .value .. => e.active &&& s.me.active = 0
        | _ => e ∈ s.me.pend) ∧
      ∀ l : Fin 32, u.me.pcv[l] = if s.me.active.has l then 0xFFFFFFFF else s.me.pcv[l]

/-- Branches and EXIT (R33, R81, R82, R85, R110). -/
def Obligations.BranchesAndExit : Prop := Sys2Proof.Claims.Branches ∧ Sys2Proof.Claims.ExitEndsLanes

/-- MCALL puts the body of a legal slot at its place, with its placeholders replaced and the lanes of the slot's guard active; NOP changes
nothing; ICINV drops the cached words of its range once every store of the gang is performed; TMARK forms a MARK record, with the active lanes,
while instruction trace is on (R67-R69, R86, R87, R91, R93). -/
def Obligations.MicroprogramsAndFetch : Prop :=
  (∀ (w : Bool) (n : Fin 64) (p q : VOp) (t : Fin 32) (s : State) (h : Header) (ws : List Word), s.canRun w 1 = true →
    s.slotBody s.me.core n.val p.code q.code t.val = some (h, ws) → s.me.waitsMet h = true →
    exec (.mcall w n p q t) s = .next { s.setMe { s.me with port := { s.me.port with
      micro := some { slot := n.val, hdr := h, words := ws, idx := 0,
                      active := maskOf fun l => s.me.port.active.has l && ((s.me.pred h.gp).has l != h.gi) } } } with
      fresh := s.fresh + 1 }) ∧
  (∀ (w : Bool) (s : State), s.canRun w 1 = true → exec (.nop w) s = .next (s.begun.retire 1)) ∧
  (∀ (w : Bool) (a b : Fin 56) (s : State), s.canRun w 1 = true → s.me.stores = 0 → (∀ e ∈ s.me.pend, e.performed = true ∨ e.writes = false) →
    (s.seeS a).poison = false → (s.seeS b).poison = false → ∃ u : State, exec (.icinv w (.s a) (.s b) false) s = .next (u.retire 1) ∧ u.me = s.begun.me ∧
      u.mem = s.mem ∧ (∀ n, n ≠ s.me.core → u.core n = s.core n) ∧
      ∀ e : IWord, e ∈ (u.core s.me.core).icache ↔ (e ∈ (s.core s.me.core).icache ∧
        ¬(e.asid = s.me.asid ∧ (s.seeS b).val.toNat ≠ 0 ∧ (s.seeS a).val.toNat / 128 ≤ e.va / 128 ∧
          e.va / 128 ≤ (rangeEnd (s.seeS a).val.toNat (s.seeS b).val.toNat - 1) / 128))) ∧
  (∀ (w : Bool) (a b : Fin 56) (s : State), s.canRun w 1 = true → s.me.stores = 0 → (∀ e ∈ s.me.pend, e.performed = true ∨ e.writes = false) →
    (s.seeS a).poison = false → (s.seeS b).poison = false → ∃ u : State, exec (.icinv w (.s a) (.s b) true) s = .next (u.retire 1) ∧ u.me = s.begun.me ∧
      u.mem = s.mem ∧ ∀ c ∈ u.cores, (s.partOf s.me).dies.getLsbD (c.1 / 128) = true → ∀ e ∈ c.2.icache,
        ¬(e.asid = s.me.asid ∧ (s.seeS b).val.toNat ≠ 0 ∧ (s.seeS a).val.toNat / 128 ≤ e.va / 128 ∧
          e.va / 128 ≤ (rangeEnd (s.seeS a).val.toNat (s.seeS b).val.toNat - 1) / 128)) ∧
  (∀ (w : Bool) (imm : BitVec 18) (s : State), s.canRun w 1 = true → ∃ u : State, exec (.tmark w imm) s = .next (u.retire 1) ∧
    u.me = s.begun.me ∧ u.mem = s.mem ∧
    (s.debugBit s.me.part 0 = true → s.debugBit s.me.part 2 = true → ∃ r ∈ u.trail, r.kind = 0x07 ∧ r.source = s.me.source ∧
      r.stamp = s.rtime ∧ r.active = s.me.active ∧ r.payload = le8 (imm.toNat + s.me.port.wordOffset * 2 ^ 32) ++ le8 s.me.ident.toNat))


namespace Sys2Proof.Claims

/-- The special registers with one value per gang or thread, as R36 lists them. -/
def uniformSreg (s : State) (n : Nat) : Option DWord :=
  let p := s.me
  if n = 0x001 then some (BitVec.ofNat 64 p.gang)
  else if n = 0x002 then some (BitVec.ofNat 64 p.crew)
  else if n = 0x003 then some (BitVec.ofNat 64 (p.core / 4 % 32))
  else if n = 0x004 then some (BitVec.ofNat 64 (p.core / 128))
  else if n = 0x005 then some (BitVec.ofNat 64 p.crewN)
  else if n = 0x006 then some (BitVec.ofNat 64 p.gridN)
  else if n = 0x007 then some (BitVec.ofNat 64 p.stage)
  else if n = 0x008 then some (BitVec.ofNat 64 p.codebase)
  else if n = 0x009 then some (BitVec.ofNat 64 (p.core % 4))
  else if n = 0x012 then some (p.cause.zeroExtend 64)
  else if n = 0x013 then some (p.causem.zeroExtend 64)
  else if n = 0x014 then some p.contrec[0]
  else if n = 0x015 then some p.contrec[1]
  else if n = 0x016 then some p.contrec[2]
  else if n = 0x017 then some p.contrec[3]
  else if n = 0x018 then some (p.flags.zeroExtend 64)
  else if n = 0x01B then some (BitVec.ofNat 64 p.psp)
  else if n = 0x01C then some (p.wdogv.zeroExtend 64)
  else if n = 0x01D then some 0
  else if n = 0x020 then some s.rtime
  else if n = 0x021 then some (s.die p.die).cycr
  else if n = 0x022 then some (BitVec.ofNat 64 ((s.die p.die).acc.toNat / 2 ^ 16))
  else if n = 0x023 then some p.grun
  else if n = 0x024 then some p.tdead
  else if n = 0x025 then some ((s.partOf p).chkhz.zeroExtend 64)
  else if n = 0x026 then some ((s.clock p.clockUnit).zeroExtend 64)
  else if n = 0x030 then some p.inj
  else if n = 0x031 then some ((s.partOf p).chkmode.zeroExtend 64)
  else if n = 0x032 then some (BitVec.ofNat 64 ((s.die p.die).busy.toNat * 2 ^ 31 + (s.die p.die).cur * 2 ^ 16 + (s.die p.die).req))
  else none

/-- The special registers with one value per lane (R36). -/
def laneSreg (p : Party) (n : Nat) (l : Fin 32) : Option DWord :=
  if n = 0x000 then some (BitVec.ofNat 64 l.val)
  else if n = 0x010 then some (p.pcv[l].zeroExtend 64)
  else if n = 0x011 then some (p.epcv[l].zeroExtend 64)
  else if n = 0x019 then some p.rsp[l]
  else if n = 0x01A then some (p.rsdepth[l].zeroExtend 64)
  else none

/-- The privilege that R36 gives a register: its numbers for supervisor code only. -/
def supOnly (n : Nat) : Bool := [0x014, 0x015, 0x016, 0x017, 0x019, 0x01D, 0x030, 0x031, 0x032].contains n

/-- The registers a sequencer thread has (R36). -/
def seqHas (n : Nat) : Bool :=
  [0x003, 0x004, 0x007, 0x008, 0x010, 0x011, 0x012, 0x013, 0x014, 0x015, 0x016, 0x017, 0x020, 0x021, 0x022, 0x023, 0x024, 0x025, 0x026,
    0x030, 0x031, 0x032].contains n

/-- The party may name register n (R37). -/
def mayName (p : Party) (n : Nat) : Bool := (!supOnly n || p.sup) && (seqHas n || !p.isThread)

/-- Neither record mode nor replay mode is on in the party's partition (R411, R412). -/
def notJournaled (s : State) : Bool := !s.debugBit s.me.part 6 && !s.debugBit s.me.part 7

/-- The party after a write of a special register that is its own, from a uniform value (R39, R41, R42, R90). -/
def writtenSreg (p : Party) (n : Nat) (v : DWord) : Party :=
  if n = 0x013 then { p with causem := (p.causem &&& ~~~0xAC0) ||| (v.truncate 32 &&& 0xAC0) }
  else if n = 0x018 then { p with flags := p.flags &&& ~~~(v.truncate 32) }
  else p

/-- Every counter of the party reads 0, and no access is outstanding that no counter counts (R90, R285, R287, R307). -/
def countersZero (p : Party) : Bool :=
  p.loads == 0 && p.stores == 0 && p.engines == 0 && p.pend.all fun e => e.performed || !e.accesses

end Sys2Proof.Claims

/-- SREAD of every register R36 lists: to a uniform register the value, of a per-lane register the lowest active lane's; to a vector register
its low half in the active lanes; ILLI where the party may not name it, or the number is not listed (R36-R38, R88). -/
def Obligations.SpecialRegisterReads : Prop :=
  (∀ (w : Bool) (d : Fin 56) (n : BitVec 9) (s : State) (v : DWord), s.canRun w 1 = true → mayName s.me n.toNat = true →
    notJournaled s = true → uniformSreg s n.toNat = some v →
    exec (.sread w (.s (.s d)) n) s = .next (State.retire (s.begun.setMe (s.begun.me.setS d { val := v, poison := false })) 1)) ∧
  (∀ (w : Bool) (d : Fin 56) (n : BitVec 9) (s : State) (l : Fin 32) (r : List (Fin 32)) (v : DWord), s.canRun w 1 = true →
    mayName s.me n.toNat = true → s.me.isThread = false → LaneMask.lanes s.me.active = l :: r → n.toNat ≠ 0x011 →
    laneSreg s.me n.toNat l = some v →
    exec (.sread w (.s (.s d)) n) s = .next (State.retire (s.begun.setMe (s.begun.me.setS d { val := v, poison := false })) 1)) ∧
  (∀ (w : Bool) (d : Fin 56) (s : State), s.canRun w 1 = true →
    exec (.sread w (.s (.s d)) 0x011) s = .next (State.retire (s.begun.setMe (s.begun.me.setS d
      { val := BitVec.ofNat 64 (s.me.inmac.toNat * 32 + s.me.midx), poison := false })) 1)) ∧
  (∀ (w : Bool) (d : Fin 116) (n : BitVec 9) (s : State) (f : Fin 32 → DWord), s.canRun w 1 = true → mayName s.me n.toNat = true →
    notJournaled s = true → s.fitsAll [] [d] = true →
    (∀ l, laneSreg s.me n.toNat l = some (f l) ∨ uniformSreg s n.toNat = some (f l)) →
    exec (.sread w (.v (.v d)) n) s = .next (State.retire (s.begun.setMe
      (s.begun.me.writeV s.me.active d (.clean fun l => (f l).truncate 32))) 1)) ∧
  (∀ (w : Bool) (d : Dest) (n : BitVec 9) (s : State), s.canRun w 1 = true →
    mayName s.me n.toNat = false ∨ (uniformSreg s n.toNat = none ∧ laneSreg s.me n.toNat 0 = none) →
    exec (.sread w d n) s = .next (s.stopWord (.cause .illi)))

/-- SWRITE from a uniform register: CAUSEM takes its four writable bits, FLAGS clears the bits written as 1, RSP is written in the active
lanes, and a read-only register ignores the write (R36, R39, R89, R90). -/
def Sys2Proof.Claims.SpecialRegisterWrites : Prop :=
  (∀ (w : Bool) (a : Fin 56) (n : BitVec 9) (s : State), ownSwrite n = false → s.canRun w 1 = true → mayName s.me n.toNat = true →
    (s.seeS a).poison = false → (uniformSreg s n.toNat).isSome = true →
    exec (.swrite w (.s (.s a)) n) s = .next (State.retire (s.begun.setMe (writtenSreg s.begun.me n.toNat (s.seeS a).val)) 1)) ∧
  (∀ (w : Bool) (a : Fin 56) (s : State), s.canRun w 1 = true → mayName s.me 0x019 = true → (s.seeS a).poison = false →
    exec (.swrite w (.s (.s a)) 0x019) s = .next (State.retire (s.begun.setMe { s.begun.me with
      rsp := lanes fun l => if s.me.active.has l then (s.seeS a).val else s.me.rsp[l] }) 1)) ∧
  (∀ (w la : Bool) (a : Fin 116) (s : State), s.canRun w 1 = true → mayName s.me 0x011 = true → s.cleanIn s.me.active [a] = true →
    exec (.swrite w (.v (.v a) la) 0x011) s = .next (State.retire (s.begun.setMe { s.begun.me.freeAll (if la then [a] else []) with
      epcv := lanes fun l => if s.me.active.has l then (s.seeV a).val[l] else s.me.epcv[l] }) 1)) ∧
  (∀ (w : Bool) (src : Source) (n : BitVec 9) (s : State), s.canRun w 1 = true →
    mayName s.me n.toNat = false ∨ (uniformSreg s n.toNat = none ∧ laneSreg s.me n.toNat 0 = none) → supOnly n.toNat = false ∨ n.toNat ≤ 0x01D →
    exec (.swrite w src n) s = .next (s.stopWord (.cause .illi)))

/-- SWRITE of TDEAD sets the deadline, CAUSESET sets user causes, INJ and CHKMODE keep their writable bits, and DVFSREQ requests a step for the
die; the last three wait for every earlier access, and are for supervisor code, as CAUSESET is (R41, R42, R90, R285, R287, R306, R307). -/
def Sys2Proof.Claims.SystemRegisterWrites : Prop :=
  ∀ (w : Bool) (a : Fin 56) (s : State), s.canRun w 1 = true → (s.seeS a).poison = false →
    (let v := (s.seeS a).val
     exec (.swriteTdead w (.s (.s a))) s = .next (State.retire (s.begun.setMe { s.begun.me with tdead := v }) 1) ∧
     (s.me.sup = true → s.me.isThread = false →
       exec (.swriteCauseset w (.s (.s a))) s = .next (State.retire (s.begun.setMe { s.begun.me with
         cause := s.me.cause ||| (v.truncate 32 &&& 0xFC0), causeset := s.me.causeset ||| (v.truncate 32 &&& 0xFC0) }) 1)) ∧
     (s.me.sup = true → countersZero s.me = true → v.toNat % 16 ≤ 3 →
       exec (.swriteInj w (.s (.s a))) s = .next (State.retire (s.begun.setMe { s.begun.me with inj := v &&& 0x3FF0F }) 1)) ∧
     (s.me.sup = true → countersZero s.me = true → v.toNat % 4 ≤ 1 →
       exec (.swriteChkmode w (.s (.s a))) s = .next (State.retire (s.begun.changePart s.me.part fun x =>
         { x with chkmode := v.truncate 32 &&& 0xF3 }) 1)) ∧
     (s.me.sup = true → countersZero s.me = true → v.toNat % 16 ≤ 11 →
       exec (.swriteDvfsreq w (.s (.s a))) s = .next (State.retire (s.begun.changeDie s.me.die fun d =>
         { d with req := v.toNat % 16, lastSup := v.toNat % 16, busy := d.busy || decide (v.toNat % 16 ≠ d.cur),
                  since := if d.busy then d.since else s.rtime.toNat }) 1)) ∧
     (s.me.sup = false → countersZero s.me = true →
       exec (.swriteInj w (.s (.s a))) s = .next (s.stopWord (.cause .illi)) ∧
       exec (.swriteChkmode w (.s (.s a))) s = .next (s.stopWord (.cause .illi)) ∧
       exec (.swriteDvfsreq w (.s (.s a))) s = .next (s.stopWord (.cause .illi)) ∧
       exec (.swriteCauseset w (.s (.s a))) s = .next (s.stopWord (.cause .illi))))

/-- SWRITE of every register (R36, R39, R41, R42, R89, R90, R285, R287, R306, R307). -/
def Obligations.WritesOfSpecialRegisters : Prop := Sys2Proof.Claims.SpecialRegisterWrites ∧ Sys2Proof.Claims.SystemRegisterWrites

/-- RDV answers at once when a named port is ready and waits otherwise; SLEEPT waits for a time to come, and keeps an entry that it has popped for
it until the wait ends; YIELD of a gang marks its clause, which yields once it has completed, and of a thread gives the next slot away; WDOG sets
the watchdog (R255, R337, R340-R343). -/
def Obligations.SchedulingWords : Prop :=
  (∀ (w : Bool) (d : Fin 56) (v q : BitVec 8) (s : State), s.canRun w 1 = true → notJournaled s = true →
    (∀ x ∈ s.me.named v q, x.2.isSome = true) →
    (s.rdvValue s.me v q % 2 ^ 16 ≠ 0 → exec (.rdv w d v q) s = .next (State.retire (s.begun.setMe (s.begun.me.setS d
      { val := BitVec.ofNat 64 (s.rdvValue s.me v q), poison := false })) 1)) ∧
    (s.rdvValue s.me v q % 2 ^ 16 = 0 → exec (.rdv w d v q) s = .next (State.deliverAsync { s.begun.setMe { s.begun.me.passed with
      port := { s.begun.me.passed.port with wait := some (.rdv d v q) } } with fresh := s.fresh + 1 }))) ∧
  (∀ (w : Bool) (a : Fin 56) (imm : BitVec 13) (s : State), s.canRun w 1 = true → (s.seeS a).poison = false →
    (let t := (s.seeS a).val + imm.signExtend 64
     (t.toNat ≤ s.rtime.toNat → exec (.sleept w (.s a) imm) s = .next (s.begun.retire 1)) ∧
     (s.rtime.toNat < t.toNat → exec (.sleept w (.s a) imm) s = .next (State.deliverAsync { s.begun.setMe { s.begun.me with
       port := { s.me.port with wait := some (.sleept t), popped := none } } with fresh := s.fresh + 1 })))) ∧
  (∀ (w : Bool) (a : SOp) (imm : BitVec 13) (s u : State) (x : DWord), s.canRun w 1 = true → operandOf s.begun a = some (x, u) →
    (let t := x + imm.signExtend 64
     let popped := s.me.poppedBy a x
     (t.toNat ≤ s.rtime.toNat → exec (.sleept w a imm) s = .next (u.retire 1)) ∧
     (s.rtime.toNat < t.toNat → exec (.sleept w a imm) s = .next (State.deliverAsync { u.setMe { u.me with
       port := { u.me.port with wait := some (.sleept t), popped }
       noFlush := if popped.isSome then s.me.noFlush else u.me.noFlush } with fresh := u.fresh + 1 })))) ∧
  (∀ (w : Bool) (s : State), s.canRun w 1 = true →
    exec (.yield w) s = .next (State.retire (s.begun.setMe
      (if s.me.isThread then { s.begun.me with yielding := some 0 }
       else { s.begun.me with port := { s.me.port with yields := true } })) 1)) ∧
  (∀ (w : Bool) (a : Fin 56) (s : State), s.canRun w 1 = true → (s.seeS a).poison = false →
    (let b := (s.seeS a).val.toNat
     exec (.wdog w (.s a)) s = .next (State.retire (s.begun.setMe
       (if b = 0 then { s.begun.me with wdogv := 0 }
        else if s.me.wdogv = 0 then { s.begun.me with wdogv := BitVec.ofNat 32 (min b 0xFFFFFFFF), issued := 0,
                                                      stalled := if s.me.cause &&& Cause.mask .wdog = 0 then 0 else s.me.stalled }
        else s.begun.me)) 1)))

/-- TRAP and BKPT set their cause and stop the clause behind them, and in a thread that they stop leave imm18 for its status; with no active lane they do nothing; CCLR clears the causes that its
privilege covers and, with them, the containment record; HALT sets its cause for supervisor code and raises ILLI for user code
(R385-R387). -/
def Sys2Proof.Claims.TrapWords : Prop :=
  (∀ (w : Bool) (imm : BitVec 18) (s : State) (c : Cause) (i : Instr), s.canRun w 1 = true → s.me.active ≠ 0 → s.me.isThread = false →
    (i = .trap w imm ∧ c = .swtr ∨ i = .bkpt w imm ∧ c = .brkp) →
    exec i s = .next (State.retire (s.begun.setMe { s.begun.me with
      cause := s.me.cause ||| c.mask, port := { s.me.port with trapped := c.mask &&& s.me.causem != 0 } }) 1)) ∧
  (∀ (w : Bool) (imm : BitVec 18) (s : State) (c : Cause) (i : Instr), s.canRun w 1 = true → s.me.active ≠ 0 → s.me.isThread = true →
    (i = .trap w imm ∧ c = .swtr ∨ i = .bkpt w imm ∧ c = .brkp) →
    exec i s = .next (State.retire (s.begun.setMe { s.begun.me with
      cause := s.me.cause ||| c.mask, port := { s.me.port with trapped := c.mask &&& s.me.causem != 0 }
      trapImm := if c.mask &&& s.me.causem = 0 then s.me.trapImm else imm.toNat }) 1)) ∧
  (∀ (w : Bool) (imm : BitVec 18) (s : State), s.canRun w 1 = true → s.me.active = 0 →
    exec (.trap w imm) s = .next (s.begun.retire 1) ∧ exec (.bkpt w imm) s = .next (s.begun.retire 1)) ∧
  (∀ (w : Bool) (imm : BitVec 18) (s : State), s.canRun w 1 = true →
    (let m : BitVec 32 := imm.zeroExtend 32 &&& (if s.me.sup then 0x3FFFF else 0xFC0)
     let c := s.me.cause &&& ~~~m
     exec (.cclr w imm) s = .next (State.retire (s.begun.setMe { s.begun.me with
       cause := c, causeset := s.me.causeset &&& ~~~m
       stalled := if c &&& Cause.mask .wdog = 0 then 0 else s.me.stalled
       contDue := s.me.contDue && c &&& Cause.mask .cont != 0
       dropFrom := if c &&& Cause.mask .cont = 0 then none else s.me.dropFrom
       contrec := if c &&& 0x8020 = 0 then Vector.replicate 4 0 else s.me.contrec }) 1))) ∧
  (∀ (w : Bool) (s : State), s.canRun w 1 = true →
    exec (.halt w) s = if s.me.sup then .next (State.retire (s.begun.setMe
        (if s.me.active = 0 then s.begun.me else { s.begun.me with cause := s.me.cause ||| 0x1000 })) 1)
      else .next (s.stopWord (.cause .illi)))

/-- RTE returns to the privilege before the handler: a live lane whose EPCV is all ones exits, one whose EPCV names its stop record goes on
there, and any other stands at its EPCV with bits 1:0 cleared; outside a handler, and as the last word of a clause whose fall-through is out of
range, it raises ILLI (R80, R383, R384). -/
def Sys2Proof.Claims.ReturnFromHandler : Prop :=
  (∀ (w : Bool) (s : State) (h : Handler), s.me.hasLong = false → s.me.blocked = false → s.me.pastEnd 1 = false → s.me.handler = some h →
    s.me.pendingCauses = 0 → s.debugBit s.me.part 7 = false → h.stops = [] →
    ∃ t : State, exec (.rte w) s = .next t ∧ t.mem = s.mem ∧ t.me.handler = none ∧ t.me.sup = h.privBefore ∧
      t.me.vregs = s.me.vregs ∧ t.me.sregs = s.me.sregs ∧ t.me.preds = s.me.preds ∧ t.me.cause = s.me.cause ∧
      ∀ l : Fin 32, t.me.pcv[l] =
        if h.live.has l && s.me.pcv[l] != 0xFFFFFFFF then
          (if s.me.epcv[l] = 0xFFFFFFFF then 0xFFFFFFFF else s.me.epcv[l] &&& 0xFFFFFFFC)
        else s.me.pcv[l]) ∧
  (∀ (w : Bool) (s : State) (h : Handler) (r : Port), s.me.hasLong = false → s.me.blocked = false → s.me.pastEnd 1 = false →
    s.me.handler = some h →
    s.me.pendingCauses = 0 → s.debugBit s.me.part 7 = false → h.stops = [r] →
    (let m := maskOf fun l => r.lanes.has l && s.me.pcv[l] != 0xFFFFFFFF && s.me.epcv[l] != 0xFFFFFFFF &&
       s.me.epcv[l] &&& 0xFFFFFFFC == r.stopOffset
     (∀ l, h.live.has l = true → s.me.epcv[l] ≠ 0xFFFFFFFF) → m ≠ 0 →
     ∃ t : State, exec (.rte w) s = .next t ∧ t.mem = s.mem ∧ t.me.handler = none ∧ t.me.sup = h.privBefore ∧
       t.me.port.held = r.held ∧ t.me.port.lanes = m ∧ t.me.port.idx = r.idx ∧ t.me.port.words = r.words ∧ t.me.port.halted = false ∧
       t.me.port.active = r.active &&& m)) ∧
  (∀ (w : Bool) (s : State), s.me.hasLong = false → s.me.blocked = false → s.me.handler = none ∨ s.me.pastEnd 1 = true →
    exec (.rte w) s = .next (s.stopWord (.cause .illi)))


/-- The words that raise a cause, and RTE (R383-R387). -/
def Obligations.TrapsAndHandlerReturns : Prop := Sys2Proof.Claims.TrapWords ∧ Sys2Proof.Claims.ReturnFromHandler

namespace Sys2Proof.Claims

/-- Everything of the machine that passing on to the next word leaves as it is: memory, the directory, page tables, jobs, queues and every other
party. -/
def sameMachine (s t : State) : Prop :=
  t.mem = s.mem ∧ t.poison = s.poison ∧ t.lines = s.lines ∧ t.spaces = s.spaces ∧ t.jobs = s.jobs ∧ t.others = s.others ∧
    t.clusters = s.clusters ∧ t.dies = s.dies ∧ t.queues = s.queues ∧ t.parts = s.parts ∧ t.kids = s.kids ∧ t.rtime = s.rtime

/-- The registers of a party: vector, uniform, predicate and special ones but PCs, EPCV, CAUSE and its record. -/
def sameRegisters (p q : Party) : Prop :=
  q.vregs = p.vregs ∧ q.sregs = p.sregs ∧ q.preds = p.preds ∧ q.flags = p.flags ∧ q.causem = p.causem ∧ q.tdead = p.tdead ∧
    q.inj = p.inj ∧ q.wdogv = p.wdogv ∧ q.rstack = p.rstack ∧ q.rsp = p.rsp ∧ q.rsdepth = p.rsdepth ∧ q.grun = p.grun ∧
    q.ident = p.ident ∧ q.asid = p.asid ∧ q.codebase = p.codebase ∧ q.userh = p.userh

/-- The state in which a delivery finds the party: with CONT among the causes, what its containment drops is gone (R282, R311). -/
def afterDrops (s : State) : State := if s.me.pendingCauses &&& 0x20 = 0 then s else s.dropDue s.me.ident

end Sys2Proof.Claims

/-- Going on to the next word, whatever is delivered there, changes no register but PCs, EPCV, CAUSE and, where a containment drops words, DROPS
of its record, and no memory; a dropped ENQ alone touches a command queue (R56, R80, R282, R344, R380). -/
def Sys2Proof.Claims.GoingOnKeepsRegisters : Prop :=
  ∀ (s : State) (n : Nat),
    (let t := s.retire n
     sameMachine s { t with queues := s.queues } ∧ sameRegisters s.me t.me ∧
       (s.me.contDue = false → t.queues = s.queues ∧ t.me.contrec = s.me.contrec))

/-- A word that stops changes no register, no memory and no queue: of the stage queues of the bundles, but for an entry that a stopped wait of the
other port gives back, of the message queues of the cores, and of the command queues, but for what a due containment drops. Only CAUSE, the ports,
what the delivery of the cause writes, and for a race or an engine fault its record change (R255, R282, R377, R379). -/
def Sys2Proof.Claims.StopsChangeNothing : Prop :=
  ∀ (s : State) (e : Stop),
    (s.stopWord e).mem = s.mem ∧ (s.stopWord e).poison = s.poison ∧ (s.stopWord e).lines = s.lines ∧ (s.stopWord e).spaces = s.spaces ∧
    (s.stopWord e).jobs = s.jobs ∧ (s.stopWord e).others = s.others ∧ sameRegisters s.me (s.stopWord e).me ∧
    (s.me.contDue = false → (s.stopWord e).queues = s.queues) ∧ (∀ n, ((s.stopWord e).core n).mq = (s.core n).mq) ∧
    (s.me.port.popped = none → s.me.mate.popped = none → (s.stopWord e).bundles.map (·.queues) = s.bundles.map (·.queues))

/-- Inside a clause the port goes on to its next word; inside a microprogram to the next body word, and after its last one to the word behind the
MCALL; behind the last word of a clause the lanes that no branch moved stand at the fall-through offset and the port is free. An XLAT or PERM that the
word was retried for is cleared as it passes, unless the other port waits for the same (R46, R77, R80, R86, R381, R386). -/
def Sys2Proof.Claims.NextWord : Prop :=
  (∀ (s : State) (n : Nat), s.me.port.micro = none → s.me.port.idx + n < s.me.port.hdr.n → s.me.port.trapped = false →
    s.me.isThread = false → s.me.mate.held = false →
    s.retire n = { s.setMe { s.me.passed with port := { s.me.passed.port with idx := s.me.port.idx + n } } with fresh := s.fresh + 1 }) ∧
  (∀ (s : State) (n : Nat) (m : Micro), s.me.port.micro = some m → m.idx + n < m.words.length →
    s.retire n = { s.setMe { s.me.passed with port := { s.me.passed.port with micro := some { m with idx := m.idx + n } } } with
      fresh := s.fresh + 1 }) ∧
  (∀ (s : State) (n : Nat) (m : Micro), s.me.port.micro = some m → m.words.length ≤ m.idx + n →
    s.me.port.idx + 1 < s.me.port.hdr.n → s.me.port.trapped = false → s.me.isThread = false → s.me.mate.held = false →
    s.retire n = { s.setMe { s.me.passed with port := { s.me.passed.port with micro := none, idx := s.me.port.idx + 1 } } with
      fresh := s.fresh + 1 }) ∧
  (∀ (s : State) (n : Nat), s.me.port.micro = none → s.me.port.hdr.n ≤ s.me.port.idx + n → s.me.port.trapped = false →
    s.me.mate.held = false → s.me.mate.halted = false → s.me.pendingCauses = 0 → s.debugBit s.me.part 7 = false →
    (s.retire n).me.port = Port.free ∧ (s.retire n).me.clauses = s.me.clauses + 1 ∧
    ∀ l : Fin 32, (s.retire n).me.pcv[l] =
      if s.me.port.lanes.has l && !s.me.port.moved.has l && s.me.pcv[l] != 0xFFFFFFFF then
        BitVec.ofNat 32 (s.me.port.head + 4 + 4 * s.me.port.hdr.n)
      else s.me.pcv[l]) ∧
  (∀ (p : Party) (c : Cause), p.port.retry = some c →
    p.passed.cause = (if p.mate.retry = some c then p.cause else p.cause &&& ~~~c.mask) ∧ p.passed.port = { p.port with retry := none } ∧
      p.passed.mate = p.mate ∧ sameRegisters p p.passed) ∧
  (∀ p : Party, p.port.retry = none → p.passed = p)

/-- Passing on and stopping (R46, R56, R77, R80, R86, R377, R379-R381, R386). -/
def Obligations.PassingOnAndStopping : Prop :=
  Sys2Proof.Claims.GoingOnKeepsRegisters ∧ Sys2Proof.Claims.StopsChangeNothing ∧ Sys2Proof.Claims.NextWord

/-- Taking an exception in a gang: a supervisor cause enters the supervisor handler at offset 0, a user cause the user handler at USERH; EPCV
holds each live lane's stop or PC, with bit 0 set in the stalled lanes where WDOG is among the causes of the user handler, and all ones for the
others; the privilege is saved and no register changes; without a user handler the gang is killed (R337, R379, R380, R382). -/
def Obligations.HandlerEntry : Prop :=
  ∀ (s : State), s.me.switchedOut = false → s.me.replayable = false → s.me.stopped = false → s.me.halted = false → s.me.live ≠ 0 →
    s.me.isThread = false → s.me.handler = none → s.me.pendingCauses &&& 0x1000 = 0 →
    (s.me.pendingCauses &&& 0xC = 0 ∨ ((afterDrops s).me.port.retries = false ∧ (afterDrops s).me.mate.retries = false)) →
    (let sup := s.me.pendingCauses &&& 0x1C033 != 0
     let stops := [(afterDrops s).me.port, (afterDrops s).me.mate].filter fun q => q.held && q.halted
     let marked (l : Fin 32) : Bool := !sup && s.me.pendingCauses &&& Cause.mask .wdog != 0 && s.me.stalled.has l
     (sup = true ∨ (s.me.pendingCauses &&& 0xFC0 ≠ 0 ∧ s.me.userh ≠ 0xFFFFFFFF) →
       s.deliver.me.handler = some { sup, privBefore := s.me.sup, live := s.me.live, stops } ∧
       s.deliver.me.sup = (sup || s.me.sup) ∧ s.deliver.me.port = Port.free ∧ s.deliver.me.mate = Port.free ∧
       s.deliver.mem = s.mem ∧ sameRegisters s.me s.deliver.me ∧ s.deliver.me.cause = s.me.cause ∧
       ∀ l : Fin 32,
         s.deliver.me.pcv[l] = (if s.me.live.has l then (if sup then 0 else BitVec.ofNat 32 s.me.userh) else s.me.pcv[l]) ∧
         (s.me.live.has l = false → s.deliver.me.epcv[l] = 0xFFFFFFFF) ∧
         (s.me.live.has l = true → ∀ r, stops.find? (·.lanes.has l) = some r →
           s.deliver.me.epcv[l] = if marked l then r.stopOffset ||| 1 else r.stopOffset) ∧
         (s.me.live.has l = true → stops.find? (·.lanes.has l) = none →
           s.deliver.me.epcv[l] = if marked l then s.me.pcv[l] ||| 1 else s.me.pcv[l])) ∧
     (sup = false → s.me.pendingCauses &&& 0xFC0 ≠ 0 → s.me.userh = 0xFFFFFFFF →
       s.deliver.me.stopped = true ∧ s.deliver.me.handler = none ∧ s.deliver.mem = s.mem ∧
       ∀ l : Fin 32, s.me.live.has l = true → s.deliver.me.pcv[l] = 0xFFFFFFFF))

/-- HALT takes effect before any handler, XLAT and PERM of a word make its party replayable, and a cause that stops threads stops a sequencer
thread and gives its bundle a status, 4 where CONT is among its causes and 6 otherwise; a thread that nothing stops goes on, as do the words of its
waits that had been stopped (R379-R381, R387, R396). -/
def Sys2Proof.Claims.OtherDeliveries : Prop :=
  ∀ (s : State), s.me.switchedOut = false → s.me.replayable = false → s.me.stopped = false → s.me.halted = false → s.me.live ≠ 0 →
    (s.me.pendingCauses &&& 0x1000 ≠ 0 → s.deliver.me = { (afterDrops s).me with halted := true } ∧ s.deliver.mem = s.mem) ∧
    (s.me.pendingCauses &&& 0x1000 = 0 → s.me.pendingCauses &&& 0xC ≠ 0 →
      (afterDrops s).me.port.retries = true ∨ (afterDrops s).me.mate.retries = true →
      s.deliver = (afterDrops s).setMe { (afterDrops s).me with replayable := true }) ∧
    (s.me.pendingCauses &&& 0x1000 = 0 → s.me.pendingCauses &&& 0xC = 0 → s.me.isThread = true →
      (s.me.pendingCauses &&& 0x3CE73 ≠ 0 → s.deliver.me.stopped = true ∧ s.deliver.mem = s.mem ∧ sameRegisters s.me s.deliver.me ∧
        ∀ b, (afterDrops s).bundle s.me.bundle = some b → b.status = 0 → ∃ b', s.deliver.bundle s.me.bundle = some b' ∧
          b'.status = if s.me.pendingCauses &&& 0x20 = 0 then 6 else 4) ∧
      (s.me.pendingCauses &&& 0x3CE73 = 0 → s.deliver = s.setMe s.me.goOn))

/-- A synchronous cause other than XLAT and PERM kills a gang that is in a handler, when CAUSEM lets it through; its bundle gets status 7, and no
register and no memory changes (R384, R396). -/
def Sys2Proof.Claims.FaultInHandlerKills : Prop :=
  ∀ (s : State) (c : Cause) (h : Handler), s.me.handler = some h → c ≠ .xlat → c ≠ .perm → c.mask &&& s.me.causem ≠ 0 →
    (let t := s.stopWord (.cause c)
     t.me.stopped = true ∧ t.me.handler = none ∧ t.mem = s.mem ∧ sameRegisters s.me t.me ∧
     (∀ l : Fin 32, s.me.present.has l = true → t.me.pcv[l] = 0xFFFFFFFF) ∧
     ∀ b, s.bundle s.me.bundle = some b → b.status = 0 → ∃ b', t.bundle s.me.bundle = some b' ∧ b'.status = 7)


/-- Deliveries that enter no handler (R379-R381, R384, R387, R396). -/
def Obligations.OtherDeliveriesAndKills : Prop := Sys2Proof.Claims.OtherDeliveries ∧ Sys2Proof.Claims.FaultInHandlerKills

namespace Sys2Proof.Claims

/-- A page piece that a job may touch: it translates, its page suits the engine, for a copy job it lies outside the tentative
ranges of draft windows, and its home die has not failed (R118, R191, R192, R263, R395). -/
def pieceOk (s : State) (matrix : Bool) (k : Acc) (r : Nat × Nat) : Bool :=
  match s.translate s.me k r.1 with
  | .ok t => jobPage matrix t && (matrix || !s.draftHit s.me r.1 r.2) && !s.homeLost s.me k t.pa t.kid
  | .error _ => false

/-- Every piece of a footprint may be touched. -/
def footOk (s : State) (matrix : Bool) (reads writes : List (Nat × Nat)) : Bool :=
  (piecesOf reads).all (pieceOk s matrix .load) && (piecesOf writes).all (pieceOk s matrix .store)

/-- The extents of a footprint. -/
def extentsOf (s : State) (k : Acc) (rs : List (Nat × Nat)) : List Extent :=
  (piecesOf rs).filterMap fun r => match s.translate s.me k r.1 with
    | .ok t => some { va := r.1, pa := t.pa, len := r.2, kid := t.kid, mt := t.mt }
    | .error _ => none

/-- The state after page tables and TLB have noted a footprint. -/
def afterFoot (s : State) (reads writes : List (Nat × Nat)) : State :=
  let note (k : Acc) (t : State) (r : Nat × Nat) : State := match s.translate s.me k r.1 with
    | .ok x => t.noteAccess s.me k r.1 x
    | .error _ => t
  (piecesOf writes).foldl (note .store) ((piecesOf reads).foldl (note .load) s)

/-- The scheduler of the cluster has a job: it is last in the list of jobs, and counts on the issuer's engine counter; its engine takes the lines
of its footprint as soon as nothing earlier is in its way (R47, R192, R280). -/
def handedOver (t : State) (kind : JobKind) (copy : Bool) (reads writes : List Extent) (promise : DWord) (total : Nat) : State :=
  let j : Job :=
    { id := t.nextJob, kind, issuer := t.me.ident, bundle := t.me.bundle, cluster := t.me.cluster, pend := t.me.nextId,
      opened := false, started := false, complete := false, reported := false, promise, missed := false, reads, writes, err := 0,
      faulty := none, total, copy, row := 0, buf := [], buf2 := [] }
  State.openJobs ({ t with jobs := t.jobs ++ [j], nextJob := t.nextJob + 1 }.setMe (t.me.addPend (.job t.nextJob) 0 [] false .none none []))

/-- What an MX word that becomes a job is made of: switch marker, registers it reads, operation, arguments, descriptor, bank, bit, byte ranges
read and written, and the reasons of MXF that hold, in the order of R194. -/
structure MxForm where
  w : Bool
  regs : List (Fin 56)
  op : MxOp
  args : List Nat
  desc : Nat
  bank : Bool
  bit : Bool
  reads : List (Nat × Nat)
  writes : List (Nat × Nat)
  reasons : List (Nat × Bool)

/-- Element sizes of weights and activations by FMT (R189). -/
def actSize (d : Nat) : Nat := [2, 2, 1, 1].getD (dFmt d) 1
/-- Element sizes of results by FMT (R189). -/
def outSize (d : Nat) : Nat := [4, 2, 2, 1].getD (dFmt d) 1
/-- Element sizes of gains by FMT (R189). -/
def gainSize (d : Nat) : Nat := [2, 2, 4, 4].getD (dFmt d) 4

/-- Rows or columns of a memory operand (R190). -/
def ranges (va stride m len : Nat) : List (Nat × Nat) := (List.range m).map fun i => ((va + i * stride) % 2 ^ 64, len)

/-- Scales of a memory operand in M8S (R190). -/
def scales (sc d m k : Nat) : List (Nat × Nat) := if dFmt d = 3 then [(sc, m * ((k + 31) / 32))] else []

/-- A vector queue that a matrix stage's launch binds, out of the queue or into it (R187, R194). -/
def feedOf (s : State) (q : Fin 8) (input : Bool) : Option Nat :=
  match s.me.qports[q], s.bundle s.me.bundle with
  | some j, some b => match b.desc.queues[j]? with
    | some r => if (if input then r.dst else r.src) = s.me.stage ∧ r.scalar = false then some j else none
    | none => none
  | _, _ => none

/-- Reasons 1, 2, 5, 4, 3 and 6 of an MMA, MMAQ or MMAG (R189, R194). -/
def mmaReasons (e : Engine) (d : Nat) (one five six : Bool) : List (Nat × Bool) :=
  let w := if e.wact then e.w1 else e.w0
  [(1, decide (d / 2 ^ 9 % 2 ^ 7 ≠ 0) || one), (2, decide (dRow d + dM d > 128)), (5, five), (4, !w.valid), (3, decide (dK d ≠ w.k)), (6, six)]

/-- Reasons of a word with results in memory (R189, R194). -/
def memReasons (va d size : Nat) (one : Bool) : List (Nat × Bool) :=
  [(1, decide (d % 2 ^ 9 ≠ 0) || one), (2, decide (dRow d + dM d > 128)), (5, decide (va % size ≠ 0) || decide (dStride d % size ≠ 0))]

/-- Reasons of a word with results in a queue (R189, R194). -/
def queueReasons (d : Nat) (one : Bool) : List (Nat × Bool) :=
  [(1, decide (d % 2 ^ 9 ≠ 0) || decide (dStride d ≠ 0) || one), (2, decide (dRow d + dM d > 128))]

/-- The MX words that become jobs (R199, R201-R209). -/
def mxForm (s : State) (i : Instr) : Option MxForm :=
  let e := (s.cluster s.me.cluster).engine
  let wb := if e.wact then e.w1 else e.w0
  let v (n : Fin 56) : Nat := (s.seeS n).val.toNat
  match i with
  | .wload w (.s a) (.s b) (.s c) =>
    some { w, regs := [a, b, c], op := .wload, args := [v a, v c], desc := v b, bank := !e.wact, bit := false,
           reads := ranges (v a) (dStride (v b)) (dN (v b)) (dK (v b) * actSize (v b)) ++ scales (v c) (v b) (dN (v b)) (dK (v b)), writes := [],
           reasons := [(1, decide (v b / 2 ^ 16 % 2 ^ 14 ≠ 0)), (2, decide (dFmt (v b) < 2) && decide (dK (v b) > 256)),
             (5, decide (v a % actSize (v b) ≠ 0) || decide (dStride (v b) % actSize (v b) ≠ 0))] }
  | .azero w g b =>
    some { w, regs := [], op := .azero, args := [], desc := 0, bank := b, bit := g, reads := [], writes := [], reasons := [] }
  | .mma w (.s a) (.s b) (.s c) m =>
    some { w, regs := [a, b, c], op := .mma, args := [v a, v c, wb.fmt, wb.k, wb.n], desc := v b, bank := e.wact, bit := m,
           reads := ranges (v a) (dStride (v b)) (dM (v b)) (dK (v b) * actSize (v b)) ++ scales (v c) (v b) (dM (v b)) (dK (v b)), writes := [],
           reasons := mmaReasons e (v b) false (decide (v a % actSize (v b) ≠ 0) || decide (dStride (v b) % actSize (v b) ≠ 0)) false }
  | .mmaq w q (.s b) m => (feedOf s q true).map fun j =>
    { w, regs := [b], op := .mmaq, args := [j, wb.fmt, wb.k, wb.n], desc := v b, bank := e.wact, bit := m, reads := [], writes := [],
      reasons := mmaReasons e (v b) (decide (dStride (v b) ≠ 0)) false false }
  | .mmag w c (.s b) u => match feedOf s c true, feedOf s u true with
    | some jc, some ju =>
      some { w, regs := [b], op := .mmag, args := [jc, ju, wb.fmt, wb.k, wb.n], desc := v b, bank := e.wact, bit := false, reads := [],
             writes := [], reasons := mmaReasons e (v b) (decide (dStride (v b) ≠ 0)) false (!s.twinFeeds jc ju) }
    | _, _ => none
  | .again w (.s a) (.s b) =>
    some { w, regs := [a, b], op := .again, args := [v a], desc := v b, bank := false, bit := false,
           reads := ranges (v a) (dStride (v b)) (dM (v b)) (dN (v b) * gainSize (v b)), writes := [],
           reasons := memReasons (v a) (v b) (gainSize (v b)) (decide (dFmt (v b) = 3)) }
  | .ascan w (.s a) k b =>
    some { w, regs := [a], op := .ascan, args := [], desc := v a, bank := b, bit := k, reads := [], writes := [],
           reasons := [(1, decide (dStride (v a) ≠ 0) || decide (dFmt (v a) ≠ 0) || decide (v a % 2 ^ 9 ≠ 0)),
             (2, decide (dRow (v a) + dM (v a) > 128))] }
  | .carryld w _ _ true =>
    some { w, regs := [], op := .carryld, args := [], desc := 0, bank := false, bit := true, reads := [], writes := [], reasons := [] }
  | .carryld w (.s a) (.s b) false =>
    some { w, regs := [a, b], op := .carryld, args := [v a, v b], desc := 0, bank := false, bit := false, reads := [(v a, 4 * v b)], writes := [],
           reasons := [(1, decide (v b ≥ 2 ^ 8)), (2, decide (v b = 0 ∨ v b > 128)), (5, decide (v a % 4 ≠ 0))] }
  | .carryst w (.s a) (.s b) =>
    some { w, regs := [a, b], op := .carryst, args := [v a, v b], desc := 0, bank := false, bit := false, reads := [], writes := [(v a, 4 * v b)],
           reasons := [(1, decide (v b ≥ 2 ^ 8)), (2, decide (v b = 0 ∨ v b > 128)), (5, decide (v a % 4 ≠ 0))] }
  | .drain w (.s a) (.s b) (.s c) m =>
    some { w, regs := [a, b, c], op := .drain, args := [v a, v c], desc := v b, bank := false, bit := m, reads := [],
           writes := ranges (v a) (dStride (v b)) (dM (v b)) (dN (v b) * outSize (v b)) ++ scales (v c) (v b) (dM (v b)) (dN (v b)),
           reasons := memReasons (v a) (v b) (outSize (v b)) false }
  | .drainq w q (.s b) m => (feedOf s q false).map fun j =>
    { w, regs := [b], op := .drainq, args := [j], desc := v b, bank := false, bit := m, reads := [], writes := [],
      reasons := queueReasons (v b) false }
  | .draing w (.s d) (.s a) (.s b) (.s c) =>
    some { w, regs := [a, b, c, d], op := .draing, args := [v a, v d, v c], desc := v b, bank := false, bit := false, reads := [],
           writes := ranges (v a) (dStride (v b)) (dM (v b)) (dN (v b) * outSize (v b)) ++ scales (v d) (v b) (dM (v b)) (dN (v b)),
           reasons := memReasons (v a) (v b) (outSize (v b)) (decide (v c ≥ 2 ^ 32)) }
  | .draingQ w (.s d) q (.s b) (.s c) => (feedOf s q false).map fun j =>
    { w, regs := [b, c, d], op := .draingQ, args := [j, v c], desc := v b, bank := false, bit := false, reads := [], writes := [],
      reasons := queueReasons (v b) (decide (v c ≥ 2 ^ 32)) }
  | _ => none

/-- What an MX word latches at its issue: WLOAD the shape of the shadow bank (R199). -/
def latched (i : Instr) (s : State) (t : State) : State :=
  match i with
  | .wload _ _ (.s b) _ =>
    let d := (s.seeS b).val.toNat
    t.changeCluster t.me.cluster fun c =>
      { c with engine := if c.engine.wact then { c.engine with w0 := { c.engine.w0 with valid := true, fmt := dFmt d, k := dK d, n := dN d } }
                         else { c.engine with w1 := { c.engine.w1 with valid := true, fmt := dFmt d, k := dK d, n := dN d } } }
  | _ => t

/-- The registers hold no poison. -/
def cleanS (s : State) (ns : List (Fin 56)) : Bool := ns.all fun n => !(s.seeS n).poison

end Sys2Proof.Claims

/-- An MX word whose operands are clean, whose queues are bound, whose descriptor is legal and whose footprint may be touched becomes a job with
what it read and the active bank's shape; no register changes. With a reason of MXF it is not performed and raises MXF
with the first one (R187-R194, R199-R209). -/
def Sys2Proof.Claims.MatrixJobWords : Prop :=
  ∀ (i : Instr) (s : State) (x : MxForm), mxForm s i = some x → s.canRun x.w 1 = true → s.me.engines < 6 → cleanS s x.regs = true →
    ((x.reasons.all fun r => !r.2) = true → footOk s.begun true x.reads x.writes = true →
      exec i s = .next (State.retire (latched i s (handedOver (afterFoot s.begun x.reads x.writes) (.mx x.op x.args x.desc x.bank x.bit) false
        (extentsOf s.begun .load x.reads) (extentsOf s.begun .store x.writes) 0xFFFFFFFFFFFFFFFF 0)) 1)) ∧
    (∀ c b, x.reasons.find? (·.2) = some (c, b) → exec i s = .next (s.stopWord (.mxf c)))

/-- WSWAP exchanges the active and the shadow bank; MSTAT reads the status word, and with CLR clears its flags; MSYNC completes once nothing
earlier is outstanding, as a release, an acquire or both, and is a point of pre-emption as its PP bit says (R196, R200, R210, R211, R213). -/
def Sys2Proof.Claims.MatrixStatusWords : Prop :=
  (∀ (w : Bool) (s : State), s.canRun w 1 = true → s.me.engines < 6 →
    exec (.wswap w) s = .next (State.retire (s.begun.changeCluster s.me.cluster fun c =>
      { c with engine := { c.engine with wact := !c.engine.wact } }) 1)) ∧
  (∀ (w clr : Bool) (d : Fin 56) (s : State), s.canRun w 1 = true → s.me.engines < 6 → notJournaled s = true →
    (let e := (s.cluster s.me.cluster).engine
     let n := (s.me.pend.filter fun x => match x.kind with | .job k => (s.job k).any fun j => !j.copy | _ => false).length
     let v : DWord := BitVec.ofNat 64 (e.fcode * 2 ^ 56 + n * 2 ^ 32 + e.w1.valid.toNat * 2 ^ 11 + e.w0.valid.toNat * 2 ^ 10 +
       e.wact.toNat * 2 ^ 9 + e.flags.toNat)
     let t := s.begun.setMe (s.begun.me.setS d { val := v, poison := false })
     exec (.mstat w (.s d) clr) s = .next (State.retire (if clr = true then t.changeCluster s.me.cluster fun c =>
       { c with engine := { c.engine with flags := 0 } } else t) 1))) ∧
  (∀ (w pp : Bool) (k : SyncKind) (o : Scope) (s : State), s.canRun w 1 = true → s.me.engines < 6 → s.mxJobs s.me = 0 →
    (k = .rel ∨ k = .ar ∨ k = .acq → s.checkerFree 1 = true) →
    (k = .acq ∨ k = .ar → ∀ e ∈ s.me.pend, e.reads = true → e.performed = true) →
    (let u := (s.begun.report s.me.ident fun j => !j.copy).dropJobs
     let t := if k = .acq then u.logAcquire s.me.ident o [] else u
     exec (.msync w pp k o) s = .next (State.retire (t.setMe
       { (if k = .rel ∨ k = .ar then t.me.addPend (.fence .full) 0 [] true o none [] else t.me) with atPoint := pp }) 1)))

/-- The words of class MX (R187-R194, R196, R199-R211, R213). -/
def Obligations.MatrixWords : Prop := Sys2Proof.Claims.MatrixJobWords ∧ Sys2Proof.Claims.MatrixStatusWords

namespace Sys2Proof.Claims

/-- Copy words: switch marker, destination, card register, shape, journal code (R261, R411). -/
def copyForm : Instr → Option (Bool × Fin 56 × Fin 56 × CopyOp)
  | .cpy w (.s d) (.s a) => some (w, d, a, .cpy)
  | .cpyr w (.s d) (.s a) => some (w, d, a, .cpyr)
  | .gath w (.s d) (.s a) => some (w, d, a, .gath)
  | .scat w (.s d) (.s a) => some (w, d, a, .scat)
  | _ => none

/-- Jobs of a party that have not completed. -/
def liveCopies (s : State) : Nat := (s.jobs.filter fun j => j.issuer == s.me.ident && j.copy && !j.complete).length

/-- The promise of a copy job: 1000 ticks for it and for each of the issuer's live jobs, one for each hundred bytes, and 4000 where host or
peer memory is touched (R264). -/
def promised (s : State) (bytes : Nat) (xs : List Extent) : DWord :=
  BitVec.ofNat 64 (s.rtime.toNat + 1000 * (1 + liveCopies s) + (bytes + 99) / 100 + (if xs.any (·.foreign) then 4000 else 0))

end Sys2Proof.Claims

/-- CPY, CPYR, GATH and SCAT read a legal card without poison at an address aligned to 64, and hand over the job of its fields; D receives the
promise (R261-R264). -/
def Obligations.CopyJobWords : Prop :=
  ∀ (i : Instr) (w : Bool) (d a : Fin 56) (op : CopyOp) (s : State), copyForm i = some (w, d, a, op) → s.canRun w 1 = true →
    s.room false false = true → s.me.engines < 6 → cleanS s [a] = true → (s.seeS a).val.toNat % 64 = 0 →
    readable s.begun (wordParts (s.seeS a).val.toNat 16) = true →
    (let s2 := (readIssued s.begun (wordParts (s.seeS a).val.toNat 16)).1
     let parts := (readIssued s.begun (wordParts (s.seeS a).val.toNat 16)).2
     let kind := cardKind op (parts.flatMap (·.1))
     let (rd, wr, nr, nw) := copyRanges kind
     let t := afterFoot s2 rd wr
     let re := extentsOf s2 .load rd
     let we := extentsOf s2 .store wr
     let v := promised t (nr + nw) (re ++ we)
     (∀ x ∈ parts, x.2 = false) → cardLegal op (parts.flatMap (·.1)) = true →
     footOk s2 false rd wr = true → notJournaled t = true → s2.me.port.wait = none →
     let u := handedOver t kind true re we v nw
     exec i s = .next (State.retire (u.setMe (u.me.setS d { val := v, poison := false })) 1))

/-- JWAIT completes while no more copy jobs than its count are unreported, and otherwise waits at its port; JSTAT reads the code of the first
refused job, how many are unreported and the bytes of the oldest, and with CLR clears the code; both report what has completed in issue
order, and are acquires from it (R266, R267, R280). -/
def Sys2Proof.Claims.JobStatusWords : Prop :=
  (∀ (w : Bool) (n : Fin 6) (s : State), s.canRun w 1 = true → s.checkerFree 1 = true →
    ((s.unreported s.me.ident).length ≤ n.val → exec (.jwait w n) s = .next ((s.begun.endJwait s.me.ident).retire 1)) ∧
    (n.val < (s.unreported s.me.ident).length →
      exec (.jwait w n) s = .next (State.deliverAsync { s.begun.setMe { s.begun.me.passed with
        port := { s.begun.me.passed.port with wait := some (.jwait n.val) } } with fresh := s.fresh + 1 }))) ∧
  (∀ (w clr : Bool) (d : Fin 56) (s : State), s.canRun w 1 = true → s.checkerFree 1 = true → notJournaled s = true →
    (let u := s.unreported s.me.ident
     let v : DWord := BitVec.ofNat 64 (s.me.copyErr * 2 ^ 40 + u.length * 2 ^ 32 +
       (match u with | j :: _ => min j.total 0xFFFFFFFF | [] => 0))
     let t := s.begun.endJwait s.me.ident
     exec (.jstat w (.s d) clr) s = .next (State.retire (t.setMe
       (if clr = true then { t.me.setS d { val := v, poison := false } with copyErr := 0 } else t.me.setS d { val := v, poison := false })) 1)))

namespace Sys2Proof.Claims

/-- The command an ENQ puts into its slot: 56 bytes read, and 8 of zero (R344). -/
def commandBytes (parts : List (List Byte × Bool)) : List Byte := ((parts.flatMap (·.1)).take 56) ++ List.replicate 8 0

/-- Words of the command that were poisoned. -/
def badWords (parts : List (List Byte × Bool)) : List Nat := (parts.zipIdx.filter (·.1.2)).map (·.2)

end Sys2Proof.Claims

/-- ENQ to a command queue that takes commands from the partition's bundles: D receives the sequence number that TAIL gave, TAIL counts on, and
the command leaves as a release at device scope; a full queue gives all ones and takes no command (R344). -/
def Sys2Proof.Claims.EnqueueWord : Prop :=
  ∀ (w : Bool) (d a b : Fin 56) (s : State), s.canRun w 1 = true → s.checkerFree 2 = true →
    cleanS s [a, b] = true → (s.seeS a).val.toNat % 64 = 0 → (s.seeS b).val.toNat ≤ 1023 → notJournaled s = true → s.me.port.wait = none →
    (let card := wordParts (s.seeS a).val.toNat 16
     let s1 := s.begun.noted .load (card.map (·.2.1))
     let c := Tbl.getD s.queues (s.seeS b).val.toNat .initial
     c.enable = true → c.devenq = true → c.part = s.me.part → wholeAllowed s.begun .load 4 card = true →
     ((c.tail - c.head).toNat = 2 ^ c.log2n →
       exec (.enq { w, d := .s d, a := .s a, b := .s b }) s =
         .next (State.retire (s1.setMe (s1.me.setS d { val := 0xFFFFFFFFFFFFFFFF, poison := false })) 1)) ∧
     (let s2 := (readIssued s.begun card).1
      let parts := (readIssued s.begun card).2
      (c.tail - c.head).toNat ≠ 2 ^ c.log2n → s.me.engines < 6 → readable s.begun card = true →
       ∃ t : State, exec (.enq { w, d := .s d, a := .s a, b := .s b }) s = .next (t.retire 1) ∧ t.mem = s2.mem ∧ t.poison = s2.poison ∧
         Tbl.getD t.queues (s.seeS b).val.toNat .initial =
           { c with tail := c.tail + 1, userSeqs := if s1.me.sup then c.userSeqs else c.tail.toNat :: c.userSeqs } ∧
         t.me = ({ s2.me.addPend (.enq (s.seeS b).val.toNat c.tail.toNat (commandBytes parts) (badWords parts)) 0 [] true .dev none [] with
           noFlush := true } : Party).setS d { val := c.tail.zeroExtend 64, poison := false }))


/-- JWAIT, JSTAT and ENQ (R266, R267, R344). -/
def Obligations.StatusAndEnqueueWords : Prop := Sys2Proof.Claims.JobStatusWords ∧ Sys2Proof.Claims.EnqueueWord

/-! ## Outstanding words -/

namespace Sys2Proof.Claims

/-- Nothing holds a word back: what must come before it is performed, no due containment drops it, and no crew-mate's earlier store, microprogram,
pinned line, live job, relock, CLAIM, clock or replayed order stands in its way (R71, R193, R223-R228, R240-R242, R258, R269, R282, R308,
R412). -/
def mayPerform (s : State) (p : Party) (e : Pend) : Bool := !e.performed && p.ready e && !p.drops e && !s.obstructed p e

/-- No job's engine is still to take the lines of its footprint: what completes a word hands it none (R280). -/
def jobsOpen (s : State) : Prop := ∀ j ∈ s.jobs, j.opened = true ∨ j.complete = true

/-- The word that n bytes make in a lane: of one and two bytes extended, of four as they are (R119). -/
def loaded (ext : LoadExt) (bs : List Byte) : Word :=
  let v := natLE bs
  BitVec.ofInt 32 (if ext = .sign ∧ bs.length < 4 ∧ 2 ^ (8 * bs.length) ≤ 2 * v then Int.ofNat v - 2 ^ (8 * bs.length) else Int.ofNat v)

/-- What a performed store of one part leaves: its bytes stand under its key, every other byte reads as before under that key in its line and at
all in other lines, elements wholly stored lose their poison and no other, and the word is done. -/
def storeDone (s : State) (i : Ident) (p : Party) (e : Pend) (a : LaneAcc) (t : State) : Prop :=
  t.keyedBytes a.kid a.pa a.data.length = a.data ∧
  (∀ b, b / 128 = a.pa / 128 → b < a.pa ∨ a.pa + a.data.length ≤ b → t.keyedByte a.kid b = s.keyedByte a.kid b) ∧
  (∀ b, b / 128 ≠ a.pa / 128 → t.byte b = s.byte b) ∧
  (∀ n, t.poison.contains n = (s.poison.contains n && !(decide (a.pa ≤ 4 * n) && decide (4 * n + 4 ≤ a.pa + a.data.length)))) ∧
  ∃ q, t.party i = some q ∧ q.pend = p.pend.filter (fun x => x.id != e.id) ∧ q.vregs = p.vregs ∧ q.sregs = p.sregs ∧ q.preds = p.preds

/-- Bytes from a on, for len bytes, are the given ones under a key; every other byte of the lines touched reads as before under that key, and
every byte of other lines as before. -/
def bytesPut (s t : State) (kid a len : Nat) (bs : List Byte) : Prop :=
  t.keyedBytes kid a len = bs ∧
  (∀ b, a / 128 ≤ b / 128 → b / 128 ≤ (a + len - 1) / 128 → b < a ∨ a + len ≤ b → t.keyedByte kid b = s.keyedByte kid b) ∧
  (∀ b, b / 128 < a / 128 ∨ (a + len - 1) / 128 < b / 128 → t.byte b = s.byte b)

/-- A store of one part within a line of ordinary memory, while no copy of a line differs. -/
def oneStore (s : State) (e : Pend) (a : LaneAcc) : Prop :=
  (∃ c o, e.kind = .store c o) ∧ e.accs = [a] ∧ a.tent = false ∧ ordinary a.pa = true ∧ (∀ n, noDiffering s n = true) ∧ a.data ≠ [] ∧
    a.pa % 128 + a.data.length ≤ 128

/-- Register that a long vector result goes to. -/
def vectorDest : PendKind → Option (Fin 116)
  | .load _ d _ => some d
  | .atomic _ d _ _ => some d
  | .mqget d _ => some d
  | .value d _ => some d
  | _ => none

end Sys2Proof.Claims

/-- A store whose every lane lies in the tentative range leaves no byte for memory: performed, the crew's draft window holds the bytes, and its T
grows to the highest slot stored to (R136). -/
def Sys2Proof.Claims.TentativeStores : Prop :=
  ∀ (s : State) (e : Pend) (d : Draft) (c : Crew),
    s.pendOf s.me.ident e.id = some (s.me, e) → e.kind = .store true true → e.ord = false → e.past = [] → e.tp = 0 → e.accs ≠ [] →
    mayPerform s s.me e = true → jobsOpen s →
    s.crewOf s.me = some c → c.draft = some d →
    (∀ a ∈ e.accs, a.tent = true ∧ a.mt = 0 ∧ ordinary a.pa = true ∧ d.base ≤ a.va ∧ a.va < d.base + d.nslot * d.slotsz ∧ d.tentative a.va = true ∧
      a.data.length = a.len) →
    ∃ t : State, exec (.storePerformed s.me.ident (.whole e.id)) s = .next t ∧ t.mem = s.mem ∧ t.poison = s.poison ∧ t.lines = s.lines ∧
      t.pendOf s.me.ident e.id = none ∧ t.me.vregs = s.me.vregs ∧ t.me.sregs = s.me.sregs ∧
      ∃ d' : Draft, (t.crewOf t.me).bind (·.draft) = some d' ∧
        d'.t = e.accs.foldl (fun m a => max m (d.slot a.va - d.c + 1)) d.t ∧
        (e.accs.Pairwise (fun x y => overlaps x.va x.len y.va y.len = false) →
          ∀ a ∈ e.accs, ∀ y ∈ a.data.zipIdx, Tbl.get d'.bytes (a.va + y.2) = some y.1) ∧
        (∀ va, (∀ a ∈ e.accs, overlaps a.va a.len va 1 = false) → Tbl.get d'.bytes va = Tbl.get d.bytes va)

/-- Stores under a draft, and the draft words (R134-R137). -/
def Obligations.TentativeStoresAndDrafts : Prop := Sys2Proof.Claims.TentativeStores ∧ Sys2Proof.Claims.DraftWords

/-- A read returns: a vector load that sees memory as it stands binds, in each of its lanes, the bytes at its address, extended as its opcode says,
and in each register the poison of its own element; no byte of memory changes (R56, R119, R223, R378). -/
def Sys2Proof.Claims.ReadsReturn : Prop :=
  ∀ (s : State) (i : Ident) (n : Nat) (p : Party) (e : Pend) (ext : LoadExt) (d : Fin 116) (regs : Nat),
    s.memOk → s.pendOf i n = some (p, e) → e.kind = .load ext d regs → e.active ≠ 0 → e.vals = [] → mayPerform s p e = true → plainRead s p e →
    e.accs.Pairwise (fun x y => x.lane ≠ y.lane) → (∀ a ∈ e.accs, a.len = 4 * regs ∨ (regs = 1 ∧ (a.len = 1 ∨ a.len = 2))) →
    e.isRelease = false → jobsOpen s →
    ∃ (t : State) (q : Party) (r : Pend) (vs : List VReg), exec (.readReturned i (.whole n)) s = .next t ∧ t.mem = s.mem ∧ t.poison = s.poison ∧
      t.pendOf i n = some (q, r) ∧ r.performed = true ∧ r.bound = some vs ∧ vs.length = regs ∧ q.vregs = p.vregs ∧ q.sregs = p.sregs ∧
      ∀ a ∈ e.accs, ∀ k v, vs[k]? = some v →
        v.val[a.lane] = loaded ext (if regs = 1 then s.keyedBytes a.kid a.pa a.len else s.keyedBytes a.kid (a.pa + 4 * k) 4) ∧
        v.poison.has a.lane = (decide (a.pa / 4 + k < (a.pa + a.len + 3) / 4) && s.poison.contains (a.pa / 4 + k))

/-- Stores are performed: of a store of one part every byte outside the stored ones stays, and the stored ones are its data; a relaxed store of a
gang may first be seen by its crew. A store that is a release is performed once checking has caught up with its time, and that time is the
party's last release. Of a word of several lanes some may be performed, and the rest stays outstanding (R56, R119, R223, R225, R234, R279,
R378). -/
def Sys2Proof.Claims.StoresPerform : Prop :=
  (∀ (s : State) (i : Ident) (n : Nat) (p : Party) (e : Pend) (a : LaneAcc),
    s.memOk → jobsOpen s → s.pendOf i n = some (p, e) → oneStore s e a →
    (e.isRelease = false → mayPerform s p e = true → ∃ t : State, exec (.storePerformed i (.whole n)) s = .next t ∧
      (storeDone s i p e a t ∨ (p.mayBeEarly e = true ∧ t = s.seenEarly p n))) ∧
    (e.isRelease = true → (∀ x ∈ p.pend.takeWhile fun x => x.id != n, x.performed = true) → p.contDue = false → e.tp ≠ 0 →
      p.injects e = false → mayPerform s p e = true →
      s.checkedUp p n e.tp = true → ∃ t : State, exec (.releaseComplete i (.whole n)) s = .next t ∧ storeDone s i p e a t ∧
        (t.party i).map (·.lastRel) = some e.tp)) ∧
  (∀ (s : State) (i : Ident) (x : Portion) (p : Party) (e : Pend) (a b : LaneAcc),
    s.memOk → jobsOpen s → s.pendOf i x.word = some (p, e) → oneStore s { e with accs := [a] } a → e.accs = [a, b] → e.active ≠ 0 →
    e.isRelease = false →
    e.early ≠ 0 ∨ p.isThread = true → a.mt = 0 → b.mt = 0 → a.pa ≠ b.pa → x.lanes.has a.lane = true → x.lanes.has b.lane = false →
    mayPerform s p e = true →
    ∃ (t : State) (q : Party) (r : Pend), exec (.storePerformed i x) s = .next t ∧ t.keyedBytes a.kid a.pa a.data.length = a.data ∧
      (∀ y, y / 128 ≠ a.pa / 128 → t.byte y = s.byte y) ∧ t.pendOf i x.word = some (q, r) ∧ r.performed = false ∧ r.accs = [b])

/-- SLD returns: it binds the 8 bytes at its address, low word first, poisoned where an element of them is; no byte of memory changes (R27, R111,
R378). -/
def Sys2Proof.Claims.UniformReadsReturn : Prop :=
  ∀ (s : State) (i : Ident) (n : Nat) (p : Party) (e : Pend) (d : Fin 56) (a : LaneAcc),
    s.memOk → s.pendOf i n = some (p, e) → e.kind = .sld d → e.accs = [a] → a.len = 8 → a.pa % 8 = 0 → mayPerform s p e = true →
    plainRead s p e → jobsOpen s →
    ∃ (t : State) (q : Party) (r : Pend) (lo hi : VReg), exec (.readReturned i (.whole n)) s = .next t ∧ t.mem = s.mem ∧ t.poison = s.poison ∧
      t.pendOf i n = some (q, r) ∧ r.performed = true ∧ r.bound = some [lo, hi] ∧ q.sregs = p.sregs ∧ q.vregs = p.vregs ∧
      (hi.val[0] ++ lo.val[0]).toNat = natLE (s.keyedBytes a.kid a.pa 8) ∧
      (lo.poison != 0 || hi.poison != 0) = (s.poison.contains (a.pa / 4) || s.poison.contains (a.pa / 4 + 1))

/-- The caches that a CMO level acts on, for a core: its own; its cluster's; its die's; all (R256). -/
def actsOn (level core unit : Nat) : Prop :=
  match level with
  | 0 => unit = core
  | 1 => (unit < 512 ∧ unit / 4 = core / 4) ∨ (512 ≤ unit ∧ unit < 1024 ∧ (unit - 512) / 4 = core / 4)
  | 2 => unit < 1024 ∧ unit % 512 / 128 = core / 128
  | _ => unit < 1024

/-- A copy that holds data which its home does not (R288). -/
def dirty (h : Holder) : Prop := h.st = .m ∨ h.st = .o

/-- CMO and SUNMAP, performed: in the caches of its level CLEAN leaves no dirty copy of a line under its key, INV and CLINV leave none at all; the
salvage level opens the lines of a failed home to supervisor loads under that key and cleans the others as level 3 does; SUNMAP leaves no copy of
its lines in the core's stash, nor a dirty one above it. No byte of memory and no poison changes while no copy differs (R126, R256, R257). -/
def Sys2Proof.Claims.CacheWordsPerform : Prop :=
  ∀ (s : State) (i : Ident) (n : Nat) (p : Party) (e : Pend), s.memOk → s.pendOf i n = some (p, e) → (∀ k, noDiffering s k = true) →
    mayPerform s p e = true → jobsOpen s → (∀ a ∈ e.accs, (s.line (a.pa / 128)).frozen = false) →
    (let done (t : State) : Prop := (∀ b, t.byte b = s.byte b) ∧ t.poison = s.poison ∧
       ∃ q, t.party i = some q ∧ q.pend = p.pend.filter (fun x => x.id != n) ∧ q.vregs = p.vregs ∧ q.sregs = p.sregs
     let keyed (a : LaneAcc) : Prop := regionOf a.pa = .device → (s.line (a.pa / 128)).kid = a.kid
     let lost (a : LaneAcc) : Prop := regionOf a.pa = .device ∧ (s.die (s.homeOfPa a.pa)).failed = true
     (∀ op level, e.kind = .cmo op level → level < 5 → ∃ t, exec (.storePerformed i (.whole n)) s = .next t ∧ done t ∧
       ∀ a ∈ e.accs, a.pa % 128 = 0 → keyed a → ∀ h ∈ (t.line (a.pa / 128)).holders, actsOn level p.core h.unit → op = .clean ∧ ¬ dirty h) ∧
     (∀ op, e.kind = .cmo op 5 → ∃ t, exec (.storePerformed i (.whole n)) s = .next t ∧ done t ∧
       ∀ a ∈ e.accs, a.pa % 128 = 0 →
         (lost a → (t.line (a.pa / 128)).salvaged.contains a.kid = true) ∧
         (¬ lost a → keyed a → ∀ h ∈ (t.line (a.pa / 128)).holders, actsOn 3 p.core h.unit → ¬ dirty h)) ∧
     (∀ w, e.kind = .sunmap w → ∃ t, exec (.storePerformed i (.whole n)) s = .next t ∧ done t ∧
       ∀ a ∈ e.accs, ∀ h ∈ (t.line (a.pa / 128)).holders, h.unit ≠ p.core ∧
         ((∃ g ∈ (s.line (a.pa / 128)).holders, g.unit = p.core ∧ g.beneath = some h.unit) → ¬ dirty h)))

/-- What an outstanding read, store or cache word does when it is performed, and what a read made at issue returns (R56, R111, R119, R126, R223,
R225, R256, R257, R279, R378). -/
def Obligations.ReadsAndStoresPerform : Prop :=
  Sys2Proof.Claims.ReadsReturn ∧ Sys2Proof.Claims.StoresPerform ∧ Sys2Proof.Claims.UniformReadsReturn ∧ Sys2Proof.Claims.ReadsAtIssue ∧
    Sys2Proof.Claims.CacheWordsPerform

namespace Sys2Proof.Claims

/-- The word that an atomic leaves where it finds `old`: none where a compare fails (R248). -/
def atomValue (op : AtomOp) (old x new : Word) : Option Word :=
  match op with
  | .add => some (BitVec.ofNat 32 (old.toNat + x.toNat))
  | .min => some (if x.toInt < old.toInt then x else old)
  | .max => some (if old.toInt < x.toInt then x else old)
  | .minu => some (if x.toNat < old.toNat then x else old)
  | .maxu => some (if old.toNat < x.toNat then x else old)
  | .and => some (old &&& x)
  | .or => some (old ||| x)
  | .xor => some (old ^^^ x)
  | .xch => some x
  | .cas => if old = x then some new else none
  | .fadd => some (fadd32 .rne old x).1

/-- Lanes at one location, one after another: the word left at the end, what each lane found, and the flags of the sums (R248, R249). -/
def atomRun (op : AtomOp) (x new : Lanes Word) : Word → List (Fin 32) → Word × List Word × BitVec 32
  | w, [] => (w, [], 0)
  | w, l :: ls =>
    let r := atomRun op x new ((atomValue op w x[l] new[l]).getD w) ls
    (r.1, w :: r.2.1, (if op = .fadd then (fadd32 .rne w x[l]).2 else 0) ||| r.2.2)

/-- What an atomic leaves whose lanes all address one location: the word that the lanes leave one after another in ascending order, and each
lane's old value for D; at a poisoned location nothing is written, and the lanes are poisoned. Every other byte stays (R248, R249, R251). -/
def atomDone (s : State) (i : Ident) (p : Party) (e : Pend) (op : AtomOp) (x new : Lanes Word) (a : LaneAcc) (t : State) : Prop :=
  let run := atomRun op x new (BitVec.ofNat 32 (natLE (s.keyedBytes a.kid a.pa 4))) (e.accs.map (·.lane))
  let bad := s.poison.contains (a.pa / 4)
  bytesPut s t a.kid a.pa 4 (if bad then s.keyedBytes a.kid a.pa 4 else bytesLE 4 run.1.toNat) ∧ t.poison = s.poison ∧
    ∃ (q : Party) (r : Pend) (v : VReg), t.pendOf i e.id = some (q, r) ∧ r.performed = true ∧ r.bound = some [v] ∧
      r.flags = (if bad then e.flags else e.flags ||| run.2.2) ∧ q.vregs = p.vregs ∧ q.sregs = p.sregs ∧
      ∀ (k : Nat) (b : LaneAcc), e.accs[k]? = some b → v.poison.has b.lane = bad ∧ (bad = false → some v.val[b.lane] = run.2.1[k]?)

/-- The lanes of an atomic all address the location of one of them, in ordinary memory, in ascending order. -/
def oneAtom (s : State) (e : Pend) (a : LaneAcc) : Prop :=
  a ∈ e.accs ∧ (∀ b ∈ e.accs, b = { a with lane := b.lane, va := b.va, data := b.data }) ∧ e.accs.Pairwise (fun x y => x.lane < y.lane) ∧
    a.tent = false ∧ ordinary a.pa = true ∧ a.pa % 4 = 0 ∧ a.len = 4 ∧ e.vals = [] ∧ e.past = [] ∧ e.active ≠ 0 ∧ (∀ n, noDiffering s n = true)

end Sys2Proof.Claims

/-- An atomic is performed: a relaxed one as a read that returns, an ordered one as a release that completes (R223, R248-R251, R279). -/
def Sys2Proof.Claims.AtomicsPerform : Prop :=
  ∀ (s : State) (i : Ident) (n : Nat) (p : Party) (e : Pend) (a : LaneAcc) (op : AtomOp) (d : Fin 116) (x new : Lanes Word),
    s.memOk → jobsOpen s → s.pendOf i n = some (p, e) → e.kind = .atomic op d x new → oneAtom s e a → mayPerform s p e = true →
    (e.isRelease = false → ∃ t, exec (.readReturned i (.whole n)) s = .next t ∧ atomDone s i p e op x new a t) ∧
    (e.isRelease = true → (∀ y ∈ p.pend.takeWhile fun y => y.id != n, y.performed = true) → e.tp ≠ 0 →
      s.checkedUp p n e.tp = true → ∃ t, exec (.releaseComplete i (.whole n)) s = .next t ∧ atomDone s i p e op x new a t ∧
        (t.party i).map (·.lastRel) = some e.tp)

/-- An arrival is performed: ARRIVED of the barrier object counts on, and where it then reaches EXPECT it becomes 0 and PHASE counts on; the rest
of the object stays (R259, R260, R279). -/
def Sys2Proof.Claims.ArrivalsPerform : Prop :=
  ∀ (s : State) (i : Ident) (n : Nat) (p : Party) (e : Pend) (a : LaneAcc),
    s.memOk → jobsOpen s → s.pendOf i n = some (p, e) → e.kind = .arrive → e.accs = [a] → a.tent = false → ordinary a.pa = true →
    a.pa % 16 = 0 → a.len = 16 → (∀ k, noDiffering s k = true) → mayPerform s p e = true →
    (∀ y ∈ p.pend.takeWhile fun y => y.id != n, y.performed = true) → e.tp ≠ 0 → s.checkedUp p n e.tp = true →
    (let word (k : Nat) : Nat := natLE (s.keyedBytes a.kid (a.pa + 4 * k) 4)
     let arrived := (word 1 + 1) % 2 ^ 32
     let full := word 0 ≤ arrived
     let after := [word 0, if full then 0 else arrived, if full then (word 2 + 1) % 2 ^ 32 else word 2, word 3]
     ∃ (t : State) (q : Party), exec (.releaseComplete i (.whole n)) s = .next t ∧ bytesPut s t a.kid a.pa 16 (after.flatMap (bytesLE 4)) ∧
       t.party i = some q ∧ q.pend = p.pend.filter (fun y => y.id != n) ∧ q.lastRel = e.tp ∧ q.vregs = p.vregs ∧ q.sregs = p.sregs)

/-- Where loads, stores, atomics, SLD and SST trap: a word that may issue and has a cause stops with the first one of R118's order, whatever the
lane, and the party has that cause from then on; a race leaves its record where neither CONT nor FPRT was set (R118, R242, R251, R357, R379). -/
def Sys2Proof.Claims.MemoryWordsStop : Prop :=
  (∀ (i : Instr) (s : State) (m : MemForm) (x : Stop), memForm s i = some m → m.issues = true → m.stop s = some x →
    exec i s = .next (s.stopWord x)) ∧
  (∀ (s : State) (c : Cause) (va : Nat) (k : Acc),
    (s.stopWord (.cause c)).me.cause &&& c.mask = c.mask ∧ (s.stopWord (.refused c va k)).me.cause &&& c.mask = c.mask) ∧
  (∀ (s : State) (r : Vector DWord 4), (s.stopWord (.race r)).me.cause &&& 0x8000 = 0x8000 ∧
    (s.me.contDue = false → s.me.cause &&& 0x8020 = 0 → (s.stopWord (.race r)).me.contrec = r))

/-- What makes such a word trap: the rules of the access, a failed home that no salvage opens, and a live job's footprint (R242, R357, R395). -/
def Sys2Proof.Claims.AccessRules : Prop :=
  (∀ (s : State) (k : Acc) (sc : Scope) (va size : Nat) (t : Trans), s.forbidden s.me k sc va size t = true ↔ ruledOut s k sc va size t) ∧
  (∀ (s : State) (p : Party) (k : Acc) (pa kid : Nat), s.homeLost p k pa kid = true ↔
    regionOf pa = .device ∧ (s.die (s.homeOfPa pa)).failed = true ∧
      ¬(p.sup = true ∧ k = .load ∧ (s.line (pa / 128)).salvaged.contains kid = true)) ∧
  (∀ (s : State) (write : Bool) (pa : Nat), (s.racedJob write pa).isSome = true ↔
    ∃ j ∈ s.jobs, j.complete = false ∧
      ((∃ x ∈ j.writes, x.covers pa = true) ∨
        (write = true ∧ (s.line (pa / 128)).pinned = [] ∧ ∃ x ∈ j.reads, x.covers pa = true)))

/-- Where memory words trap (R118, R242, R251, R357, R395). -/
def Obligations.MemoryWordsTrap : Prop := Sys2Proof.Claims.MemoryWordsStop ∧ Sys2Proof.Claims.AccessRules

/-- Translation: a TLB entry that serves the access gives the leaf, and otherwise a walk does, down from the root by nine bits of the VA a level,
the topmost by four, through valid and well-formed entries of 8 bytes, low byte first, to a leaf; any other walk is XLAT. A leaf that does not
allow the access is PERM, and one that does gives the physical address, the key and the memory type (R352-R359). -/
def Obligations.TranslationWalks : Prop :=
  (∀ (s : State) (asid va : Nat) (sp : Space), Tbl.get s.spaces asid = some sp → va < 2 ^ 52 →
    ∀ (level : Nat) (e : BitVec 64), s.walk asid va = .ok (level, e) ↔
      ∃ tab : Nat → Nat, tab 4 = sp.root ∧ level ≤ 3 ∧
        (let entry (k : Nat) : BitVec 64 :=
           BitVec.ofNat 64 (natLE (s.keyedBytes 0 (tab k + 8 * (va / 2 ^ (12 + 9 * k) % (if k = 4 then 16 else 512))) 8))
         entry level = e ∧ e.toNat / 2 % 8 ≠ 0 ∧
         ∀ k, level ≤ k → k ≤ 4 → (entry k).toNat % 2 = 1 ∧ ¬ faultyEntry (entry k) k ∧
           (level < k → (entry k).toNat / 2 % 8 = 0 ∧ tab (k - 1) = (entry k).toNat / 2 ^ 12 % 2 ^ 40 * 4096))) ∧
  (∀ (s : State) (asid va : Nat), 2 ^ 52 ≤ va ∨ Tbl.get s.spaces asid = none → s.walk asid va = .error .xlat) ∧
  (∀ (s : State) (asid va : Nat) (c : Cause), s.walk asid va = .error c → c = .xlat) ∧
  (∀ (s : State) (p : Party) (k : Acc) (va : Nat),
    (let tlb := (s.core p.core).firstTlb k ++ (s.cluster p.cluster).tlb
     ((∀ t ∈ tlb, t.serves p va = false) → s.leafFor p k va = s.walk p.asid va) ∧
     ((∃ t ∈ tlb, t.serves p va = true) → ∃ t ∈ tlb, t.serves p va = true ∧ s.leafFor p k va = .ok (t.level, t.pte)) ∧
     (∀ t : TlbEntry, t.serves p va = true ↔ (t.asid = p.asid ∨ t.pte.toNat / 32 % 2 = 1) ∧ t.part = p.part ∧ va < 2 ^ 52 ∧
       t.vpn = va / 2 ^ (12 + 9 * t.level)))) ∧
  (∀ (s : State) (p : Party) (k : Acc) (va : Nat) (c : Cause), s.leafFor p k va = .error c → s.translate p k va = .error .xlat) ∧
  (∀ (s : State) (p : Party) (k : Acc) (va level : Nat) (e : BitVec 64), s.leafFor p k va = .ok (level, e) →
    (¬ leafAllows (s.partOf p).dies p.sup k level e → s.translate p k va = .error .perm) ∧
    (leafAllows (s.partOf p).dies p.sup k level e → s.translate p k va = .ok
      { pa := e.toNat / 2 ^ 12 % 2 ^ 40 * 4096 + va % 2 ^ (12 + 9 * level), kid := e.toNat / 2 ^ 54, mt := e.toNat / 2 ^ 8 % 4
        pl := e.toNat / 2 ^ 10 % 4, pte := e, level }))

/-- What a performed atomic and a performed arrival leave (R248-R251, R259, R260). -/
def Obligations.AtomicsAndArrivalsPerform : Prop := Sys2Proof.Claims.AtomicsPerform ∧ Sys2Proof.Claims.ArrivalsPerform

/-- A release first waits for what is before it; then the lines that its core has read are sealed, if its scope is wide, and it takes its time, the
latest of its lanes' at the units that are to perform them, and its entry at the checker; a fence is over once checking has caught up, FENCE.ACQ at once, FENCE.FULL once the load and store counters read 0; and a release of a party whose containment is due is dropped with every
later store, which DROPS counts (R223, R228, R252, R270, R274, R276, R279, R282, R283). -/
def Obligations.ReleasesComplete : Prop :=
  ∀ (s : State) (i : Ident) (n : Nat) (p : Party) (e : Pend), s.pendOf i n = some (p, e) → e.performed = false →
    p.injects e = false → jobsOpen s → (∀ x ∈ p.pend.takeWhile fun x => x.id != n, x.performed = true) →
    (e.isRelease = true → p.contDue = true → (∀ k, p.dropFrom = some k → k ≤ n) →
      (let gone (x : Pend) : Bool := !x.performed && decide (p.dropFrom.getD n ≤ x.id) && (x.writes || x.isRelease)
       ∃ (t : State) (q : Party), exec (.releaseComplete i (.whole n)) s = .next t ∧ t.mem = s.mem ∧
         t.party i = some q ∧ q.pend = p.pend.filter (fun x => !gone x) ∧
         (p.contrec[0].toNat % 8 ≠ 4 →
           q.contrec[1].toNat / 2 ^ 24 % 2 ^ 8 = min 255 (p.dropped + ((p.pend.filter gone).filter (·.writes)).length)))) ∧
    (e.isRelease = true → p.contDue = false → e.tp = 0 → e.kind ≠ .fence .full ∨ (p.loads = 0 ∧ p.stores = 0) →
      s.clockAhead p.clockUnit = false → (∀ a ∈ e.accs, s.lineAhead p.cluster a.pa = false) →
      (let x := (if Scope.wide e.scope then s.seal p.clockUnit else s).takeTimes p e
       let time := if x.2.isEmpty then (x.1.clock p.clockUnit).toNat else latest (x.2.map (·.time))
       ∃ (t : State) (q : Party), exec (.releaseComplete i (.whole n)) s = .next t ∧ t.mem = s.mem ∧
         t.pendOf i n = some (q, { e with tp := time, accs := x.2 }) ∧ x.2.length = e.accs.length ∧
         ∃ r ∈ (t.core p.clockUnit).reorder, r.party = p.ident ∧ r.seq = e.id ∧ r.rel = true ∧ r.checked = false ∧ r.tp = time)) ∧
    (∀ k, e.kind = .fence k → k ≠ .acq → k ≠ .full ∨ (p.loads = 0 ∧ p.stores = 0) → p.contDue = false → e.tp ≠ 0 →
      s.checkedUp p n e.tp = true →
      ∃ (t : State) (q : Party), exec (.releaseComplete i (.whole n)) s = .next t ∧ t.mem = s.mem ∧ t.party i = some q ∧
        q.pend = p.pend.filter (fun x => x.id != n) ∧ q.lastRel = e.tp) ∧
    (e.kind = .fence .acq → mayPerform s p e = true → ∃ (t : State) (q : Party), exec (.releaseComplete i (.whole n)) s = .next t ∧
      t.mem = s.mem ∧ t.party i = some q ∧ q.pend = p.pend.filter (fun x => x.id != n))

/-- A long result that has returned is written into its registers and its word is done: the active lanes of a vector destination and its flags,
a whole filled register or its unbinding, or a uniform register (R22, R56, R132). -/
def Obligations.LongResultsAreWritten : Prop :=
  ∀ (s : State) (i : Ident) (n : Nat) (p : Party) (e : Pend) (regs : List VReg),
    s.pendOf i n = some (p, e) → e.isLong = true → e.bound = some regs → e.performed = true →
    s.debugBit p.part 6 = false → s.debugBit p.part 7 = false → jobsOpen s →
    (let done (f : Party → Party) : Prop := exec (.longResultWriteback i n) s = .next ((s.changeParty i f).dropPend i n)
     (∀ d, vectorDest e.kind = some d →
       done fun q => (regs.zipIdx.foldl (fun t r => t.writeV e.active (vnext d r.2) r.1) q).orFlags e.flags) ∧
     (∀ d v r, e.kind = .vfill d → regs = v :: r → done fun q => q.writeV 0xFFFFFFFF d v) ∧
     (∀ d, e.kind = .vfill d → regs = [] → done fun q => q.freeV d) ∧
     (∀ d lo hi r, e.kind = .sld d → regs = lo :: hi :: r →
       done fun q => q.setS d { val := hi.val[0] ++ lo.val[0], poison := lo.poison != 0 || hi.poison != 0 }) ∧
     (∀ d v, e.kind = .svalue d v → done fun q => q.setS d { val := v, poison := false }))

/-- A message enters its queue behind the entries there, once the gang's earlier messages have and what must precede it is performed; an ENQ's
command enters its slot, or is a queue error where no slot can be written, and its event the vent queue; an MQGET without an active lane is done. A store to the control store waits while a
microprogram runs from its slot, and then writes the slot's word (R70, R71, R128, R231, R344). -/
def Obligations.QueueWordsComplete : Prop :=
  (∀ (s : State) (i : Ident) (n : Nat) (p : Party) (e : Pend), s.pendOf i n = some (p, e) →
    (∀ core q v, e.kind = .mqput core q v → p.putOrder n = true → p.ready e = true → (e.performed = true ∨ e.isRelease = false) →
      exec (.queueOperationComplete i n) s = .next ((s.changeCore core fun c =>
        { c with mq := c.mq.setIfInBounds q ((c.mq[q]?.getD []) ++ [{ sender := p.core % 4, entry := v }]) }).dropPend i n)) ∧
    (∀ d v, e.kind = .mqget d v → e.active = 0 →
      exec (.queueOperationComplete i n) s = .next ((s.perform i n false).dropPend i n)) ∧
    (∀ k seq bytes bad, e.kind = .enq k seq bytes bad → e.performed = true →
      (let c := s.queue k
       let put := s.ventWrite c.part c.asid false (c.slot (BitVec.ofNat 32 seq)) bytes (bad.filter (· < 14))
       let asks (t : State) : State := { t with vent := t.vent ++ [{ queue := k, ask := .doorbell }] }
       (∀ t, put = .ok t → exec (.queueOperationComplete i n) s = .next ((asks t).dropPend i n)) ∧
       (∀ f, put = .error f → exec (.queueOperationComplete i n) s = .next ((asks (s.queueError k 2)).dropPend i n))))) ∧
  (∀ (s : State) (c o : Nat) (v : BitVec 32), s.slotHeld c (o / 256) = true → exec (.controlStoreWrite c o v) s = .next s) ∧
  (∀ (s : State) (c o : Nat) (v : BitVec 32) (e : Pend) (r : List Pend) (a : LaneAcc) (x y : Bool),
    s.me.pend = e :: r → e.kind = .store x y → e.accs = [a] → e.ord = false → controlStoreAt a.pa = some (c, o) → a.data = bytesLE 4 v.toNat →
    mayPerform s s.me e = true → Tbl.sorted (s.core c).cstore = true →
    ∃ t : State, exec (.controlStoreWrite c o v) s = .next t ∧ t.mem = s.mem ∧
      Tbl.getD (t.core c).cstore (o / 4) 0 = if o % 256 < 132 then v else Tbl.getD (s.core c).cstore (o / 4) 0)

/-! ## Waits, timers, causes -/

namespace Sys2Proof.Claims

/-- A party stands in a wait that is over, and may go on: at one port, the wait of the other port, if it has one, not being over too. -/
def standsIn (s : State) (i : Ident) (p : Party) (isOver : Wait → Bool) (w : Wait) : Prop :=
  s.party i = some p ∧ isOver w = true ∧ (p.port.wait = some w ∨ (p.port.wait.all (fun v => !isOver v) = true ∧ p.mate.wait = some w)) ∧
    p.halted = false ∧ p.stopped = false ∧ p.switchedOut = false ∧ (s.die p.die).busy = false ∧ s.debugBit p.part 6 = false ∧
    s.debugBit p.part 7 = false

/-- The party at the issue slot, the wait over at the port that it is over at, with an effect; its word is then performed. An entry that the word
took when it issued is taken for good (R255). -/
def waitOver (s : State) (i : Ident) (isOver : Wait → Bool) (eff : State → State) : State :=
  let t := { s.focus i with fresh := s.fresh + 1 }
  let q := if t.me.port.wait.any isOver then t.me else { t.me with port := t.me.mate, mate := t.me.port }
  (eff (t.setMe { q with port := { q.port with wait := none, popped := none }, noFlush := q.noFlush || q.port.popped.isSome })).retire 1

/-- What ends each wait: MWAIT by a change of the watched line, or by its time; SLEEPT by its time; BAR, after its own arrival, by a phase other than
the one it waits in; JWAIT by few enough unreported jobs; RDV by a named port that is ready (R254, R260, R266, R340, R341). -/
def fired (s : State) (m : Monitor) (p : Party) : Wait → Bool
  | .mwait _ => s.monitorFired p m
  | _ => false
/-- The time of an MWAIT has come. -/
def timedOut (s : State) : Wait → Bool
  | .mwait (some n) => decide (n ≤ s.rtime.toNat)
  | _ => false
/-- The time of a SLEEPT has come. -/
def slept (s : State) : Wait → Bool
  | .sleept d => decide (d.toNat ≤ s.rtime.toNat)
  | _ => false
/-- The phase of a barrier has changed, as a load of it that may be performed now says. -/
def released (s : State) (p : Party) : Wait → Bool
  | .bar a ph o k => (k.all fun n => p.pend.all fun e => e.id != n || e.performed) && s.phaseReady p a o && (s.phaseOf p a o).2.2 != ph
  | _ => false
/-- Few enough copy jobs are unreported, and the core's clock may run on. -/
def reported (s : State) (i : Ident) (p : Party) : Wait → Bool
  | .jwait n => decide ((s.unreported i).length ≤ n) && !s.clockAhead p.clockUnit
  | _ => false
/-- A named port is ready. -/
def portsReady (s : State) (p : Party) : Wait → Bool
  | .rdv _ v k => s.rdvValue p v k % 2 ^ 16 != 0
  | _ => false

end Sys2Proof.Claims

/-- Waits end with their words performed, at whichever port they are over: MWAIT on a change of the watched line, which disarms the monitor, or at its
time, which does not; SLEEPT at its time; BAR when the phase has changed, its load of PHASE being an acquire that the checker enters; JWAIT when
few enough jobs are unreported; RDV when a named port is ready, with the ready ports in its register (R225, R228, R254, R260, R266, R276, R280, R340,
R341).
-/
def Sys2Proof.Claims.WaitsEnd : Prop :=
  (∀ (s : State) (i : Ident) (p : Party) (d : Option Nat) (m : Monitor), p.monitor = some m → standsIn s i p (fired s m p) (.mwait d) →
    exec (.mwaitWake i) s = .next (waitOver s i (fired s m p) fun t => t.setMe { t.me with monitor := none })) ∧
  (∀ (s : State) (i : Ident) (p : Party) (n : Nat), standsIn s i p (timedOut s) (.mwait (some n)) →
    exec (.mwaitTimeout i) s = .next (waitOver s i (timedOut s) id)) ∧
  (∀ (s : State) (i : Ident) (p : Party) (d : DWord), standsIn s i p (slept s) (.sleept d) →
    exec (.sleeptEnd i) s = .next (waitOver s i (slept s) id)) ∧
  (∀ (s : State) (i : Ident) (p : Party) (a : LaneAcc) (ph : Word) (o : Scope) (k : Option Nat), standsIn s i p (released s p) (.bar a ph o k) →
    exec (.barWaitEnd i) s = .next (waitOver s i (released s p) fun t =>
      let r := t.phaseOf t.me a o
      r.1.logAcquire i o r.2.1)) ∧
  (∀ (s : State) (i : Ident) (p : Party) (n : Nat), standsIn s i p (reported s i p) (.jwait n) →
    exec (.jwaitEnd i) s = .next (waitOver s i (reported s i p) fun t => (t.reportCopies i).logAcquire i .none [])) ∧
  (∀ (s : State) (i : Ident) (p : Party) (d : Fin 56) (v k : BitVec 8), standsIn s i p (portsReady s p) (.rdv d v k) →
    exec (.rdvReady i) s = .next (waitOver s i (portsReady s p) fun t =>
      t.setMe (t.me.setS d { val := BitVec.ofNat 64 (t.rdvValue t.me v k), poison := false })))

/-- An armed deadline that RTIME has reached is disarmed and raises TIMR at the next clause boundary, and not before; a watchdog that falls to 0
raises WDOG with the live lanes that have not issued, and nothing when all have; pending causes that can be taken are delivered; a party held by XLAT or PERM tries its word
again after a MAP, its CAUSE standing until the word passes; a SYNC record falls due; a killed party's lanes exit and its bundle has status 7 (R41, R337, R380, R381, R396, R408). -/
def Sys2Proof.Claims.TimersAndCauses : Prop :=
  (∀ (s : State) (i : Ident) (p : Party), s.party i = some p → p.tdead ≠ 0xFFFFFFFFFFFFFFFF → p.tdead.toNat ≤ s.rtime.toNat → p.live ≠ 0 → p.switchedOut = false →
    p.atClauseBoundary = true → s.debugBit p.part 7 = false →
    exec (.timerExpiry i) s = .next (s.changeParty i fun q => { q with tdead := 0xFFFFFFFFFFFFFFFF, cause := q.cause ||| Cause.mask .timr })) ∧
  (∀ (s : State) (i : Ident) (p : Party), s.party i = some p → s.rtime.toNat < p.tdead.toNat ∨ p.atClauseBoundary = false →
    exec (.timerExpiry i) s = .next s) ∧
  (∀ (s : State) (i : Ident) (p : Party), s.party i = some p → p.wdogv = 1 → p.switchedOut = false → p.isThread = false → (s.die p.die).busy = false →
    s.debugBit p.part 7 = false →
    (let late := p.live &&& ~~~p.issued
     exec (.watchdogExpiry i) s = .next (s.changeParty i fun q => { q with
       wdogv := 0, stalled := late, cause := if late = 0 then q.cause else q.cause ||| Cause.mask .wdog }))) ∧
  (∀ (s : State) (i : Ident) (p : Party), s.party i = some p → p.pendingCauses ≠ 0 → (s.die p.die).busy = false → (s.focus i).deliverAsync ≠ s.focus i →
    exec (.causeDelivery i) s = .next (s.focus i).deliverAsync) ∧
  (∀ (s : State) (i : Ident) (p : Party), s.party i = some p → p.replayable = true → p.remapped = true →
    exec (.replayRetry i) s = .next (s.changeParty i (·.retried)) ∧ p.retried.replayable = false ∧ p.retried.cause = p.cause ∧
      sameRegisters p p.retried ∧ p.retried.pcv = p.pcv ∧ p.retried.pend = p.pend ∧
      (p.port.retry.isSome = true → p.retried.port = { p.port with halted := false, started := false }) ∧
      (p.mate.retry.isSome = true → p.retried.mate = { p.mate with halted := false, started := false }) ∧
      (p.port.retry = none → p.retried.port = if p.due = 0 then { p.port with halted := false } else p.port) ∧
      (p.mate.retry = none → p.retried.mate = if p.due = 0 then { p.mate with halted := false } else p.mate)) ∧
  (∀ (s : State) (i : Ident), exec (.syncPeriodic i) s = .next (s.changeParty i fun q => { q with sync := none })) ∧
  (∀ (s : State) (i : Ident) (p : Party), s.party i = some p → p.live ≠ 0 →
    ∃ t, exec (.killRequest i) s = .next t ∧ t.mem = s.mem ∧ t.me.ident = i ∧ t.me.stopped = true ∧ sameRegisters p t.me ∧
      (∀ l : Fin 32, p.live.has l = true → t.me.pcv[l] = 0xFFFFFFFF) ∧
      ∀ b, s.bundle p.bundle = some b → b.status = 0 → ∃ b', t.bundle p.bundle = some b' ∧ b'.status = 7)

/-- Waits end, timers expire and causes are delivered (R41, R254, R260, R266, R337, R340, R341, R380, R381, R396, R408). -/
def Obligations.WaitsTimersAndCauses : Prop := Sys2Proof.Claims.WaitsEnd ∧ Sys2Proof.Claims.TimersAndCauses

/-- A party that is done leaves with its jobs that completed unreported, which leave the bundle status 4 where one of them drew from a faulty interval;
with the last of a crew without windows the crew's record leaves its core, its stage counts one more exit and one resident less, and what the crew had
done counts for the stage's progress (R85, R281, R330, R388, R396). -/
def Obligations.GangsRetire : Prop :=
  ∀ (s : State) (i : Ident) (p : Party), s.party i = some p → p.done = true → p.bundle ≠ 0 → p.contDue = false → p.switchedOut = false →
    (let mine (j : Job) : Bool := j.issuer == i && j.complete && !j.reported
     let told := if (s.jobs.any fun j => mine j && j.faulty.isSome) = true then s.recordStatus p.bundle 4 else s
     let u := { told with jobs := s.jobs.filter fun j => !mine j }
     let left : State := if u.me.ident = i then { u with me := .vacant } else { u with others := eraseFirst (·.ident == i) u.others }
     let mate (x : Party) : Bool := x.bundle == p.bundle && x.stage == p.stage && x.crew == p.crew && x.isThread == p.isThread
     let k := s.crewOf p
     (∀ c, k = some c → c.draft = none ∧ c.windows = Vector.replicate 8 none) →
     (left.parties.any mate = true →
       exec (.gangRetire i) s = .next (left.changeCrew p fun c => { c with noFlush := c.noFlush || p.noFlush })) ∧
     (left.parties.any mate = false →
       exec (.gangRetire i) s = .next ({ left with crews := left.crews.filter fun c => !c.isOf p }.changeBundle p.bundle fun b =>
         { b with stages := updateAt (fun x => { x with
                    exited := x.exited + 1, resident := x.resident - 1, goneClauses := x.goneClauses + (k.map fun (y : Crew) => y.clauses).getD 0
                    goneNoFlush := x.goneNoFlush || p.noFlush || k.any fun (y : Crew) => y.noFlush }) p.stage b.stages
                  saved := b.saved.filter fun x => x.stage != p.stage || x.crew != p.crew })))

/-! ## The vote -/

/-- A vote selects a party of its scheduler that can issue; with a word under way that party goes on with it, at a port that is ready, the primary port
before the secondary one; with both ports free, and nothing to deliver, it is voted (R77, R79, R336, R380). -/
def Obligations.VoteSelects : Prop :=
  (∀ (s : State) (c : Nat), s.select c = none → exec (.vote c) s = .next s) ∧
  (∀ (s : State) (c : Nat) (i : Ident), s.select c = some i → ∃ p ∈ s.parties, p.ident = i ∧ p.scheduler = c ∧ p.live ≠ 0 ∧ p.switchedOut = false ∧ p.halted = false ∧
    p.stopped = false ∧ p.replayable = false ∧ (∀ w, p.port.wait = some w ∨ p.mate.wait = some w → ∃ n, w = .refill n) ∧ (s.die p.die).busy = false ∧ (s.die p.die).failed = false) ∧
  (∀ (s : State) (c : Nat) (i : Ident), s.select c = some i →
    (let s1 := (s.focus i).noteSelect c i
     let q := s1.me
     let s2 := { s1 with fresh := s1.fresh + 1 }
     (q.port.held = true ∨ q.mate.held = true → exec (.vote c) s = .next (s2.setMe q.frontPort)) ∧
     (q.port.held = false → q.mate.held = false → s2.deliverAsync.me = q → exec (.vote c) s = .next s2.deliverAsync.voteMe))) ∧
  (∀ p : Party,
    (p.portReady p.port = true → p.portReady p.mate = true → p.port.secondary ≠ p.mate.secondary → p.frontPort.port.secondary = false) ∧
    (p.portReady p.port = true → p.portReady p.mate = false → p.frontPort.port = p.port ∧ p.frontPort.mate = p.mate) ∧
    (p.portReady p.port = false → p.portReady p.mate = true → p.frontPort.port = p.mate ∧ p.frontPort.mate = p.port))

/-- A vote without a fault or breakpoint: the lanes at the lowest PC take the primary port with the clause there, those at the next PC the
secondary port, unless that PC is where the primary clause falls through or branches to; each port's guard is sampled, no register changes, and
memory is as the fetches leave it, which set A in page tables. A fault at the fetch of a clause sets its cause; of XLAT and PERM the party is replayed (R46, R77, R78, R81, R84). -/
def Obligations.VoteFetches : Prop :=
  (∀ (s s1 : State) (pc : Word) (h : Header) (ws : List Word), s.me.lowest none = some pc → s.debugBit s.me.part 2 = false →
    (s.debug[s.me.part].bkpts.toList.all fun b => !b.armed) = true →
    (let b := s.setMe { s.me with votes := s.me.votes + 1, yielding := none }
     let lanesAt (x : Word) : LaneMask := maskOf fun l => s.me.live.has l && s.me.pcv[l] == x
     let active (x : Header) (m : LaneMask) : LaneMask := maskOf fun l => m.has l && ((s.me.pred x.gp).has l != x.gi)
     b.fetchClause pc.toNat = .ok (s1, h, ws) →
     (let skip (x : Word) : Bool := x == BitVec.ofNat 32 (pc.toNat + 4 + 4 * h.n) || (fbTargets s.me.role pc.toNat h ws).contains x
      ((∀ x, s.me.lowest (some pc) = some x → skip x = true) →
        s.voteMe.mem = s1.mem ∧ sameRegisters s.me s.voteMe.me ∧ s.voteMe.me.pcv = s.me.pcv ∧ s.voteMe.me.mate = Port.free ∧
        s.voteMe.me.port = { Port.free with held := true, head := pc.toNat, hdr := h, words := ws, lanes := lanesAt pc, active := active h (lanesAt pc) } ∧
        s.voteMe.me.issued = s.me.issued ||| lanesAt pc) ∧
      (∀ (x : Word) (s2 : State) (h2 : Header) (ws2 : List Word), s.me.lowest (some pc) = some x → skip x = false →
        s1.fetchClause x.toNat = .ok (s2, h2, ws2) →
        s.voteMe.mem = s2.mem ∧ sameRegisters s.me s.voteMe.me ∧ s.voteMe.me.pcv = s.me.pcv ∧
        s.voteMe.me.port = { Port.free with held := true, head := pc.toNat, hdr := h, words := ws, lanes := lanesAt pc, active := active h (lanesAt pc) } ∧
        s.voteMe.me.mate = { Port.free with held := true, secondary := true, head := x.toNat, hdr := h2, words := ws2, lanes := lanesAt x,
                                            active := active h2 (lanesAt x) } ∧
        s.voteMe.me.issued = s.me.issued ||| (lanesAt pc ||| lanesAt x))))) ∧
  (∀ (s : State) (pc : Word) (c : Cause), s.me.lowest none = some pc →
    (s.setMe { s.me with votes := s.me.votes + 1, yielding := none }).fetchClause pc.toNat = .error c →
    (c = .xlat ∨ c = .perm → s.voteMe.me.replayable = true ∧ s.voteMe.me.cause = (s.me.cause &&& ~~~0xC) ||| c.mask ∧ s.voteMe.me.pcv = s.me.pcv ∧
      s.voteMe.mem = s.mem ∧ sameRegisters s.me s.voteMe.me) ∧
    (s.me.handler = none → c.mask &&& s.voteMe.me.cause ≠ 0 ∧ s.voteMe.mem = s.mem ∧ sameRegisters s.me s.voteMe.me))


/-! ## Engine jobs -/

namespace Sys2Proof.Claims

/-- The job stands started and not complete, neither its die nor a home of its lines is in a relock, and no copy of a line differs. -/
def underWay (s : State) (j : Nat) (x : Job) : Prop :=
  s.job j = some x ∧ x.started = true ∧ x.complete = false ∧ (s.die (x.cluster / 32)).busy = false ∧ s.homesBusy x = false ∧
    ∀ n, noDiffering s n = true

/-- Where a job's footprint places a virtual address. -/
def placeOf (xs : List Extent) (v : Nat) : Option Nat := (findExtent xs v).map (·.2)

/-- The byte that a job reads at a virtual address of its footprint. -/
def readAt (s : State) (xs : List Extent) (v : Nat) : Byte :=
  match findExtent xs v with
  | some (x, pa) => s.keyedByte x.kid pa
  | none => 0

/-- A footprint in device memory under one key: pages are placed whole, and no two addresses at one place. -/
def placed (xs : List Extent) (kid : Nat) : Prop :=
  (∀ x ∈ xs, x.kid = kid ∧ regionOf x.pa = .device) ∧ (∀ v a, placeOf xs v = some a → regionOf a = .device) ∧
    ∀ v w a b, placeOf xs v = some a → placeOf xs w = some b → (v / 4096 = w / 4096 → a + w = b + v) ∧ (a = b → v = w)

/-- The bytes written of a footprint are the given ones; the other bytes of their lines read as before under the key, and every other line stands. -/
def bytesWritten (s t : State) (xs : List Extent) (kid : Nat) (f : Nat → Option Byte) : Prop :=
  (∀ v a, placeOf xs v = some a → t.keyedByte kid a = (f v).getD (s.keyedByte kid a)) ∧
    ∀ b, (∀ v a, placeOf xs v = some a → (f v).isSome = true → a / 128 ≠ b / 128) → t.byte b = s.byte b

/-- Writes in order, each an address and its bytes: the byte that the last of them leaves at an address. -/
def lastWritten (ws : List (Nat × List Byte)) (v : Nat) : Option Byte :=
  (ws.reverse.find? fun w => decide (w.1 ≤ v) && decide (v < w.1 + w.2.length)).bind fun w => w.2[v - w.1]?

/-- Every byte of the writes lies in the footprint. -/
def inFootprint (xs : List Extent) (ws : List (Nat × List Byte)) : Prop :=
  ∀ w ∈ ws, ∀ k, k < w.2.length → (placeOf xs (w.1 + k)).isSome = true

/-- Index i of the list of a GATH or SCAT (R261). -/
def indexAt (s : State) (x : Job) (idx i : Nat) : Nat := natLE ((List.range 4).map fun b => readAt s x.reads (idx + 4 * i + b))

/-- What a copy job writes, read before any of it is written (R262). -/
def copied (s : State) (x : Job) : List (Nat × List Byte) :=
  let src (a n : Nat) : List Byte := (List.range n).map fun k => readAt s x.reads (a + k)
  match x.kind with
  | .cpy d a len => [(d, src a len)]
  | .cpyr d a len nrow ss ds => (List.range nrow).map fun r => ((d + r * ds) % 2 ^ 64, src ((a + r * ss) % 2 ^ 64) len)
  | .gath d a idx e len _ => (List.range len).map fun i => (d + i * e, src (a + indexAt s x idx i * e) e)
  | .scat d a idx e len _ => (List.range len).map fun i => (d + indexAt s x idx i * e, src (a + i * e) e)
  | .mx .. => []

/-- The index list of a copy job: its address, its length, its element and the span of the indexed region (R261). -/
def indexList (x : Job) : Option (Nat × Nat × Nat × Nat) :=
  match x.kind with
  | .gath _ _ idx e len span => some (idx, len, e, span)
  | .scat _ _ idx e len span => some (idx, len, e, span)
  | _ => none

/-- The job has completed with an ERR code, and so its issuer, if it is there and runs, has taken QERR for one that is not 0 (R265). -/
def endedWith (s t : State) (j : Nat) (x : Job) (err : Nat) : Prop :=
  (∀ y ∈ t.jobs, y.id = j → y.complete = true ∧ y.err = err) ∧
    ∀ p, s.party x.issuer = some p → p.live ≠ 0 → p.stopped = false → s.debugBit p.part 7 = false → err ≠ 0 →
      ∃ q, t.party x.issuer = some q ∧ q.cause &&& Cause.mask .qerr ≠ 0 ∧ q.copyErr = if p.copyErr = 0 then err else p.copyErr

/-- An operand of es bytes that an MX job reads from memory, poisoned where its line is (R195). -/
def operand (s : State) (x : Job) (va es : Nat) : Elem :=
  { bits := BitVec.ofNat 32 (natLE ((s.operandRead x.reads va es).map (·.1))), poison := (s.operandRead x.reads va es).any (·.2) }

/-- What a CARRYST writes: each carry register, the canonical NaN for a poisoned one (R195, R206). -/
def carryBytes (e : Engine) (va n : Nat) : List (Nat × List Byte) :=
  (List.range n).map fun k => (va + 4 * k, bytesLE 4 (if (elemAt e.carry k).poison then f32.nanBits else (elemAt e.carry k).bits.toNat))

/-- What a drain to memory writes, row after row, an absent row nothing (R190, R207-R209). -/
def drainBytes (e : Engine) (op : MxOp) (va sc d : Nat) (g : Word) (bit : Bool) : List (Nat × List Byte) :=
  (List.range (dM d)).flatMap fun i => match (e.drained op g bit (dRow d + i) (dN d)).1 with
    | some xs =>
      let r := drainRow (dFmt d) true xs
      ((va + i * dStride d) % 2 ^ 64, r.1.map (·.1)) ::
        if r.2.1.isEmpty then [] else [((sc + i * blocksOf (dN d)) % 2 ^ 64, r.2.1.map (·.1))]
    | none => []

/-- What an MX job writes to memory. -/
def mxWritten (x : Job) (e : Engine) : Option (List (Nat × List Byte)) :=
  match x.kind with
  | .mx .carryst args _ _ _ => some (carryBytes e (args.getD 0 0) (args.getD 1 0))
  | .mx .drain args d _ bit => some (drainBytes e .drain (args.getD 0 0) (args.getD 1 0) d 0 bit)
  | .mx .draing args d _ bit => some (drainBytes e .draing (args.getD 0 0) (args.getD 1 0) d (BitVec.ofNat 32 (args.getD 2 0)) bit)
  | _ => none

/-- What an MX job pushes: the queue, its entries and the flags they set (R190, R207, R209). -/
def mxPushed (x : Job) (e : Engine) : Option (Nat × List VReg × BitVec 32) :=
  match x.kind with
  | .mx .drainq args d _ bit => some (args.getD 0 0, e.drainEntries .drainq d 0 bit)
  | .mx .draingQ args d _ bit => some (args.getD 0 0, e.drainEntries .draingQ d (BitVec.ofNat 32 (args.getD 1 0)) bit)
  | _ => none

/-- The rows that a queue brings a job: m rows of `need` entries each, or fewer where the queue is closed behind them. -/
def brings (b : Bundle) (k need m : Nat) (es : List VReg) (rest : List QEntry) : Prop :=
  ∃ q, b.queues[k]? = some q ∧ q.entries = es.map QEntry.vec ++ rest ∧
    (es.length = m * need ∨ ∃ n, n < m ∧ es.length = n * need ∧ rest = [] ∧ q.closed = true)

/-- Row i of the entries goes into an accumulator bank; an absent one sets its row's flag (R202, R203). -/
def fedRow (e : Engine) (bank : Bool) (fmt kk nn d need : Nat) (acc : Bool) (es : List VReg) (i : Nat) : Engine :=
  if (i + 1) * need ≤ es.length then
    let a := macRow (e.bank bank) fmt kk nn (e.acc acc) (dRow d + i) (rowOfEntries (dFmt d) kk ((es.drop (i * need)).take need))
    (e.setAcc acc a.1).orFlags a.2
  else e.setAbsent acc (insertNat (dRow d + i) (e.absent acc))

/-- What the MX jobs that touch neither a queue nor memory's bytes make of the engine (R199, R201, R202, R205, R206). -/
def engineAfter (s : State) (x : Job) (e : Engine) : Option Engine :=
  match x.kind with
  | .mx .wload args d bank _ =>
    let t := s.tile x (args.getD 0 0) (args.getD 1 0) d
    some (e.setBank bank { e.bank bank with w := t.1, scale := t.2 })
  | .mx .azero _ _ bank bit =>
    some (if bank then { e with acc1 := [], absent1 := [], gain := if bit then [] else e.gain }
          else { e with acc0 := [], absent0 := [], gain := if bit then [] else e.gain })
  | .mx .mma args d bank bit =>
    some ((List.range (dM d)).foldl (fun g i =>
      let r := macRow (g.bank bank) (args.getD 2 0) (args.getD 3 0) (args.getD 4 0) (g.acc bit) (dRow d + i)
        (s.memRow x (args.getD 0 0) (args.getD 1 0) d i)
      (g.setAcc bit r.1).orFlags r.2) e)
  | .mx .ascan _ d bank bit => some (e.scan d bank bit)
  | .mx .carryld _ _ _ true => some { e with carry := [] }
  | _ => none

end Sys2Proof.Claims

/-- A copy job writes what it has read before, the last write of a byte standing, and no other byte; an index that is poisoned or beyond the span ends
it with ERR 3 or 1 before any byte is written, and a refusal by the host or a peer with ERR 2 (R262, R265). -/
def Sys2Proof.Claims.CopiesRun : Prop :=
  (∀ (s : State) (j kid : Nat) (x : Job), s.memOk → underWay s j x → x.copy = true → s.poison = [] → placed x.writes kid →
    (∀ y ∈ x.reads, regionOf y.pa = .device) → inFootprint x.writes (copied s x) →
    (∀ idx len e span, indexList x = some (idx, len, e, span) → ∀ i < len, (indexAt s x idx i + 1) * e ≤ span) →
    ∃ t, exec (.copyJobComplete j none) s = .next t ∧ endedWith s t j x 0 ∧ bytesWritten s t x.writes kid (lastWritten (copied s x))) ∧
  (∀ (s : State) (j i idx len e span : Nat) (x : Job) (r : Option Nat), underWay s j x → x.copy = true → indexList x = some (idx, len, e, span) → i < len →
    (∀ y ∈ x.reads ++ x.writes, regionOf y.pa = .device) →
    (let clean (k : Nat) : Prop := (s.jobRead x.reads (idx + 4 * k) 4).any (·.2) = false
     (∀ k < i, clean k ∧ (indexAt s x idx k + 1) * e ≤ span) →
     (clean i → span < (indexAt s x idx i + 1) * e →
       ∃ t, exec (.copyJobComplete j r) s = .next t ∧ endedWith s t j x 1 ∧ t.mem = s.mem) ∧
     (¬clean i → ∃ t, exec (.copyJobComplete j r) s = .next t ∧ endedWith s t j x 3 ∧ t.mem = s.mem))) ∧
  (∀ (s : State) (j n : Nat) (x : Job), underWay s j x → x.copy = true → indexList x = none → (x.reads ++ x.writes).any (·.foreign) = true →
    ∃ t, exec (.copyJobComplete j (some n)) s = .next t ∧ endedWith s t j x 2)

/-- AGAIN fills the gains of its rows, CARRYLD the first carry registers, and nothing else of the engine; CARRYST, DRAIN and DRAING write the carry
registers or the rows to memory and no other byte, and their flags; DRAINQ and DRAING.Q push their entries where there is room; MMAQ and MMAG take
the entries of their rows and add them row after row, a row that a closed queue has no entries for being absent (R190, R195, R202-R209). -/
def Sys2Proof.Claims.EngineJobsRun : Prop :=
  (∀ (s : State) (j d : Nat) (x : Job) (args : List Nat) (b c : Bool), underWay s j x → x.copy = false →
    (let e := (s.cluster x.cluster).engine
     (x.kind = .mx .again args d b c → Tbl.sorted e.gain = true → ∃ t g, exec (.matrixJobComplete j) s = .next t ∧ t.mem = s.mem ∧
       (t.cluster x.cluster).engine = { e with gain := g } ∧
       ∀ r n, n < 128 → Tbl.getD g (at128 r n) oneElem =
         if dRow d ≤ r ∧ r < dRow d + dM d ∧ n < dN d then
           (let v := operand s x ((args.getD 0 0 + (r - dRow d) * dStride d) % 2 ^ 64 + n * gainBytes (dFmt d)) (gainBytes (dFmt d))
            { v with bits := gainValue (dFmt d) v.bits.toNat })
         else e.gainAt (at128 r n)) ∧
     (x.kind = .mx .carryld args d b false → Tbl.sorted e.carry = true → ∃ t g, exec (.matrixJobComplete j) s = .next t ∧ t.mem = s.mem ∧
       (t.cluster x.cluster).engine = { e with carry := g } ∧
       ∀ k, elemAt g k = if k < args.getD 1 0 then operand s x (args.getD 0 0 + 4 * k) 4 else elemAt e.carry k))) ∧
  (∀ (s : State) (j kid : Nat) (x : Job) (ws : List (Nat × List Byte)), s.memOk → underWay s j x → x.copy = false → x.reads = [] →
    (let e := (s.cluster x.cluster).engine
     mxWritten x e = some ws → placed x.writes kid → inFootprint x.writes ws →
     ∃ t f, exec (.matrixJobComplete j) s = .next t ∧ (t.cluster x.cluster).engine = { e with flags := e.flags ||| f } ∧
       bytesWritten s t x.writes kid (lastWritten ws) ∧ (∀ y ∈ t.jobs, y.id = j → y.complete = true) ∧
       (∀ args d b c, x.kind = .mx .carryst args d b c → f = 0 ∧ ∀ k a, k < args.getD 1 0 → (elemAt e.carry k).poison = true →
         placeOf x.writes (args.getD 0 0 + 4 * k) = some a → ∀ o < 32, a / 128 * 32 + o ∈ t.poison))) ∧
  (∀ (s : State) (j k : Nat) (x : Job) (es : List VReg) (f : BitVec 32) (b : Bundle) (q : Queue) (r : QueueRec) (st : StageState), underWay s j x →
    x.copy = false → x.reads = [] → x.writes = [] → x.row = 0 → mxPushed x (s.cluster x.cluster).engine = some (k, es, f) →
    s.bundle x.bundle = some b → b.queues[k]? = some q → b.desc.queues[k]? = some r → b.stages[r.dst]? = some st →
    (st.finished = false → q.entries.length + es.length ≤ r.depth →
      ∃ t b', exec (.matrixJobComplete j) s = .next t ∧ t.mem = s.mem ∧ (t.cluster x.cluster).engine = (s.cluster x.cluster).engine.orFlags f ∧
        t.bundle x.bundle = some b' ∧ (b'.queues[k]?).map (·.entries) = some (q.entries ++ es.map QEntry.vec) ∧
        ∀ y ∈ t.jobs, y.id = j → y.complete = true) ∧
    (st.finished = true → es ≠ [] → ∀ p, s.party x.issuer = some p → p.live ≠ 0 → p.stopped = false → s.debugBit p.part 7 = false →
      ∃ t p', exec (.matrixJobComplete j) s = .next t ∧ t.party x.issuer = some p' ∧ p'.cause &&& Cause.mask .qerr ≠ 0)) ∧
  (∀ (s : State) (j d k : Nat) (x : Job) (args : List Nat) (bank bit : Bool) (b : Bundle) (es : List VReg) (rest : List QEntry), underWay s j x →
    x.copy = false → x.reads = [] → x.writes = [] → x.row = 0 → x.buf = [] → x.kind = .mx .mmaq args d bank bit → args.head? = some k →
    s.bundle x.bundle = some b →
    (let kk := args.getD 2 1
     let need := rowEntries kk (actBytes (dFmt d)) + (if dFmt d = 3 then 1 else 0)
     0 < need → brings b k need (dM d) es rest →
     ∃ t b', exec (.matrixJobComplete j) s = .next t ∧ t.mem = s.mem ∧
       (t.cluster x.cluster).engine = (List.range (dM d)).foldl (fun e i => fedRow e bank (args.getD 1 0) kk (args.getD 3 1) d need bit es i)
         (s.cluster x.cluster).engine ∧
       t.bundle x.bundle = some b' ∧ (b'.queues[k]?).map (·.entries) = some rest ∧ ∀ y ∈ t.jobs, y.id = j → y.complete = true)) ∧
  (∀ (s : State) (j d k l : Nat) (x : Job) (args : List Nat) (bank bit : Bool) (b : Bundle) (es fs : List VReg) (rest rest2 : List QEntry), underWay s j x →
    x.copy = false → x.reads = [] → x.writes = [] → x.row = 0 → x.buf = [] → x.buf2 = [] → x.kind = .mx .mmag args d bank bit →
    args[0]? = some k → args[1]? = some l → k ≠ l → s.bundle x.bundle = some b →
    (let kk := args.getD 3 1
     let need := rowEntries kk (actBytes (dFmt d)) + (if dFmt d = 3 then 1 else 0)
     0 < need → brings b k need (dM d) es rest → brings b l need (dM d) fs rest2 →
     ∃ t b', exec (.matrixJobComplete j) s = .next t ∧ t.mem = s.mem ∧
       (t.cluster x.cluster).engine = (List.range (dM d)).foldl (fun e i =>
         fedRow (fedRow e bank (args.getD 2 0) kk (args.getD 4 1) d need false es i) bank (args.getD 2 0) kk (args.getD 4 1) d need true fs i)
         (s.cluster x.cluster).engine ∧
       t.bundle x.bundle = some b' ∧ (b'.queues[k]?).map (·.entries) = some rest ∧ (b'.queues[l]?).map (·.entries) = some rest2 ∧
       ∀ y ∈ t.jobs, y.id = j → y.complete = true))

/-- A job starts once it may, taking the lines that it has not taken since its receipt and changing no byte; a copy job moves the bytes of its
source to its destination and no others; an MX job makes of the engine, of memory and of its queues what its operation says, or waits for its queues;
no job does anything while its die is in a relock; a promise that RTIME reaches first raises PROM once (R190, R192, R195, R199-R209, R212, R241,
R243, R262, R265, R280, R307). -/
def Obligations.JobsRun : Prop := Sys2Proof.Claims.CopiesRun ∧ Sys2Proof.Claims.EngineJobsRun ∧
  (∀ (s : State) (j : Nat) (x : Job), s.job j = some x → x.started = false → (s.die (x.cluster / 32)).busy = false →
    s.homesBusy x = false → (∀ p ∈ s.parties, ∀ e ∈ p.pend, e.performed = true ∨ x.meetsPend e = false) → s.mayStart x = true →
    ∃ t, exec (.engineJobStart j) s = .next t ∧ t.me = s.me ∧ t.others = s.others ∧
      t.jobs = s.jobs.map (fun y => if y.id == j then { y with started := true, opened := y.opened || !x.opened } else y) ∧
      ((∀ n, noDiffering s n = true) → t.mem = s.mem)) ∧
  (∀ (s : State) (j : Nat) (x : Job) (r : Option Nat), s.job j = some x → (s.die (x.cluster / 32)).busy = true →
    exec (.engineJobStart j) s = .next s ∧ exec (.copyJobComplete j r) s = .next s ∧ exec (.matrixJobComplete j) s = .next s) ∧
  (∀ (s : State) (j dst src len : Nat) (x : Job) (rd wr : Extent), s.memOk → underWay s j x → x.copy = true → x.kind = .cpy dst src len →
    x.reads = [rd] → x.writes = [wr] → rd.va = src → wr.va = dst → rd.len = len → wr.len = len → 0 < len → regionOf rd.pa = .device →
    regionOf wr.pa = .device → s.poison = [] →
    ∃ t, exec (.copyJobComplete j none) s = .next t ∧ bytesPut s t wr.kid wr.pa len (s.keyedBytes rd.kid rd.pa len) ∧
      ∀ y ∈ t.jobs, y.id = j → y.complete = true) ∧
  (∀ (s : State) (j : Nat) (x : Job), underWay s j x → x.copy = false →
    (∀ e, engineAfter s x (s.cluster x.cluster).engine = some e →
      ∃ t, exec (.matrixJobComplete j) s = .next t ∧ (t.cluster x.cluster).engine = e ∧ t.mem = s.mem ∧
        ∀ y ∈ t.jobs, y.id = j → y.complete = true) ∧
    (((s.engineReach x).runMx x).2 = false → exec (.matrixJobComplete j) s = .next ((s.engineReach x).runMx x).1)) ∧
  (∀ (s : State) (j : Nat) (x : Job) (p : Party), s.job j = some x → x.copy = true → x.complete = false → x.missed = false →
    x.promise.toNat ≤ s.rtime.toNat → s.party x.issuer = some p → s.debugBit p.part 7 = false →
    exec (.promiseMissed j) s = .next ((s.changeJob j fun y => { y with missed := true }).changeParty x.issuer fun q =>
      { q with cause := q.cause ||| Cause.mask .prom }))

/-! ## Checkers -/

namespace Sys2Proof.Claims

/-- The open and the close record of one holder that had no PERM W: all that is there of an interval. -/
def readInterval (s : State) (l k i : Nat) (o c : Sinter) : Prop :=
  (s.records.filter fun r => r.line == l && r.kid == k && r.interval == i) = [o, c] ∧ o.kind = .opened ∧ c.kind = .close ∧
    o.unit = c.unit ∧ o.beneath = none ∧ c.beneath = none ∧ o.sub = 0 ∧ c.sub = 0 ∧ o.half = 0 ∧ c.half = 0 ∧ c.write = false ∧
    ∀ r ∈ s.records, r.kind = .opened → ¬(r.line = l ∧ r.kid = k ∧ r.interval = (i + 1) % 2 ^ 32)

/-- The later of two times, and the earlier. -/
def laterTime (a b : BitVec 48) : BitVec 48 := if (a - b).toNat < 2 ^ 47 then a else b
/-- The earlier. -/
def earlierTime (a b : BitVec 48) : BitVec 48 := if (a - b).toNat < 2 ^ 47 then b else a

/-- The done time of a checker: just before the earliest of what it has still to check, or its own clock where nothing is left (R278). -/
def doneBy (s : State) (u : Nat) : BitVec 48 :=
  match (s.unchecked.filter (·.1 == u)).map (fun x => x.2 - 1) with
  | [] => s.clock u
  | t :: ts => ts.foldl earlierTime t

end Sys2Proof.Claims

/-- The reorder checker marks what it has checked and lets go of parties with nothing left to check, and contains a party whose order fails; the
coherence checker lets the records of a clean interval go and marks an interval whose value changed under a reader faulty; the horizon rises to
what is checked and stands in a relock; a line that may be evicted leaves its holder, and one that may not stays (R125, R193, R269, R275, R276,
R278, R281, R289). -/
def Sys2Proof.Claims.CheckersAct : Prop :=
  (∀ (s : State) (c : Nat),
    (let es := (s.core c).reorder
     let ready (r : REntry) : Bool := es.contains r && !r.checked && s.entryReady r
     let bad (y : REntry) : Bool := ready y && es.any fun x => x.party == y.party && decide (x.seq < y.seq) && reorderFails x y
     let marked := es.map fun r => if ready r then { r with checked := true } else r
     ∃ t, exec (.reorderCheck c) s = .next t ∧ t.mem = s.mem ∧
       ((t.core c).reorder = marked.filter fun r => marked.any fun x => x.party == r.party && !x.checked) ∧
       ((∀ y ∈ es, bad y = false) → t.me = s.me ∧ t.others = s.others ∧ t.lines = s.lines) ∧
       (∀ y ∈ es, bad y = true → ∀ p, s.party y.party = some p → p.live ≠ 0 → p.stopped = false → s.debugBit p.part 7 = false →
         ∃ q, t.party y.party = some q ∧ q.cause &&& Cause.mask .cont ≠ 0))) ∧
  (∀ (s : State) (l k i : Nat), ∃ t, exec (.intervalCheck l k i) s = .next t ∧ t.mem = s.mem ∧ t.records.Sublist s.records) ∧
  (∀ (s : State) (l k i : Nat) (o c : Sinter), readInterval s l k i o c →
    (c.hstart = c.hend → ∃ rs, exec (.intervalCheck l k i) s = .next { s with records := rs } ∧ rs.Sublist s.records ∧ c ∉ rs ∧
      ∀ r ∈ s.records, r ≠ c → r.line ≠ l ∨ r.kid ≠ k ∨ r.kind ≠ .opened → r ∈ rs) ∧
    (c.hstart ≠ c.hend → ∃ t, exec (.intervalCheck l k i) s = .next t ∧ t.mem = s.mem ∧ ((t.line l).faultAt k i).isSome = true)) ∧
  (∀ (s : State) (p : Fin 4), ((diesOf s.parts[p].dies).any fun d => (s.die d).busy) = true → exec (.horizonBroadcast p.val) s = .next s) ∧
  (∀ (s : State) (p : Fin 4), ((diesOf s.parts[p].dies).any fun d => (s.die d).busy) = false →
    (let low := match (s.checkers p).map (doneBy s) with
       | [] => s.parts[p].chkhz
       | d :: ds => ds.foldl earlierTime d
     ∃ t, exec (.horizonBroadcast p.val) s = .next t ∧ t = { s with parts := t.parts, uses := t.uses } ∧ t.uses.Sublist s.uses ∧
       (∀ u ∈ s.uses, u.write = false → u.part = p → s.mayDraw t.parts[p].chkhz u = true → u ∈ t.uses) ∧
       t.parts[p].chkhz = laterTime s.parts[p].chkhz low ∧
       t.parts[p].maxClock = ((s.clocks.map (·.1)).filter (s.counts p)).foldl (fun m u => laterTime m (s.clock u)) s.parts[p].maxClock ∧
       ∀ q : Fin 4, q ≠ p → t.parts[q] = s.parts[q])) ∧
  (∀ (s : State) (n : Nat), 4 ≤ n → exec (.horizonBroadcast n) s = .next s) ∧
  (∀ (s : State) (u l : Nat),
    (u < 1024 → s.evictable u l = true → ∃ t, exec (.lineEviction u l) s = .next t ∧ t = s.release u l .close ∧
      (∀ h ∈ (t.line l).holders, h.unit ≠ u) ∧ (noDiffering s l = true → t.mem = s.mem ∧ t.me = s.me ∧ t.others = s.others)) ∧
    (1024 ≤ u ∨ s.evictable u l = false → exec (.lineEviction u l) s = .next s)) ∧
  (∀ (s : State) (u l : Nat), (s.line l).frozen = true ∨ (s.line l).pinned ≠ [] ∨ s.windowHolds u l = true → s.evictable u l = false)

/-- CLAIM moves one leaf at a time, once nothing of it that was issued before the CLAIM is outstanding, no job received before it works on it, no line
of it is pinned and neither home is in a relock; a leaf that is gone is passed over, and with no leaf left the word is done. Moving a leaf makes its
page table entry name the new home, with the page and the key that it had, and changes no byte but of entries (R193, R258, R302, R308). -/
def Sys2Proof.Claims.ClaimsMove : Prop :=
  (∀ (s : State) (i : Ident) (n : Nat) (p : Party) (e : Pend), s.pendOf i n = some (p, e) →
    (∀ before jobs, e.kind = .claim [] before jobs → exec (.claimMove i n) s = .next (s.dropPend i n)) ∧
    (∀ va rest before jobs, e.kind = .claim (va :: rest) before jobs →
      (let left (t : State) : State :=
         if rest.isEmpty then t.dropPend i n else t.changePend i n fun x => { x with kind := .claim rest before jobs }
       (∀ c, s.walk p.asid va = .error c → exec (.claimMove i n) s = .next (left s)) ∧
       (∀ level pte, s.walk p.asid va = .ok (level, pte) →
         (let inLeaf (pa : Nat) : Prop := ptePa pte ≤ pa ∧ pa < ptePa pte + 2 ^ leafShift level
          let held : Prop :=
            (∃ j ∈ s.jobs, j.id < jobs ∧ j.complete = false ∧
              ∃ x ∈ j.reads ++ j.writes, overlaps x.pa x.len (ptePa pte) (2 ^ leafShift level) = true) ∨
            (∃ x ∈ s.lines, inLeaf (x.1 * 128) ∧ x.2.pinned ≠ []) ∨ ∃ d ∈ p.die :: s.leafHomes p.part pte, (s.die d).busy = true
          (∀ q ∈ s.parties, ∀ x ∈ q.pend, x.performed = true ∨ (∀ k, before.lookup q.ident = some k → k ≤ x.id) ∨ ∀ a ∈ x.accs, ¬inLeaf a.pa) →
          (held → exec (.claimMove i n) s = .next s) ∧
          (¬held → exec (.claimMove i n) s = .next (left (s.moveLeaf p.part p.asid va p.die)))))))) ∧
  (∀ (s : State) (part : Fin 4) (asid va die level : Nat) (e : BitVec 64) (sp : Space), s.memOk → (∀ m, noDiffering s m = true) →
    s.walk asid va = .ok (level, e) → Tbl.get s.spaces asid = some sp → sp.part = part → die < 4 → (∀ x ∈ s.spaces, x.2.root % 4096 = 0) →
    (∀ pa ∈ s.walkPath asid va, (s.line (pa / 128)).dkid = 0 ∧ (s.line (pa / 128)).dgen = s.genOf 0) →
    (let t := s.moveLeaf part asid va die
     (∃ e', t.walk asid va = .ok (level, e') ∧ ptePl e' = 1 ∧ pteHd e' = die ∧ ptePa e' = ptePa e ∧ pteKid e' = pteKid e) ∧
     ∀ b, (∀ x ∈ s.spaces, ∀ y ∈ s.leavesUnder x.2.root 0 5, y.2.2.2 / 128 ≠ b / 128) → t.byte b = s.byte b))

/-- Claims move, and the checkers act (R258, R269, R275, R276, R278, R281, R289, R302). -/
def Obligations.ClaimsMoveAndCheckersAct : Prop := Sys2Proof.Claims.ClaimsMove ∧ Sys2Proof.Claims.CheckersAct

/-! ## Command queues -/

namespace Sys2Proof.Claims

/-- The next command of a queue is there, and is w. -/
def commandIs (s : State) (q : Nat) (t : State) (w : Command) : Prop := s.commandDue q = true ∧ s.nextCommand q = .ok (t, w)

end Sys2Proof.Claims

/-- A doorbell sets TAIL and asks for service, or is a queue error beyond the ring. NOP retires with status 0; SIGNAL stores its value, and retires
with 6 without a store when it cannot or when its word reads back uncorrectable; WAITSEM retires once the value is reached and otherwise watches
its line, or is read again on a change and in host memory every microsecond; a malformed command retires with status 1, a dropped ENQ with 4, and
a ring that cannot be read is a queue error. Retiring writes STATUS and passes HEAD on (R318-R324, R344). -/
def Obligations.CommandsServe : Prop :=
  (∀ (s : State) (q : Nat) (v : BitVec 32), q < 1024 →
    (let t := s.changeQueue q fun c => { c with tail := v }
     let ahead := (v - (s.queue q).head).toNat
     (ahead ≤ 2 ^ (s.queue q).log2n → exec (.doorbell q v) s = .next { t with vent := s.vent ++ [{ queue := q, ask := .doorbell }] }) ∧
     (2 ^ (s.queue q).log2n < ahead → exec (.doorbell q v) s = .next (t.changeQueue q fun c => if c.qerr == 0 then { c with qerr := 1 } else c)))) ∧
  (∀ (s : State) (q : Nat) (v : BitVec 32), 1024 ≤ q → exec (.doorbell q v) s = .next s) ∧
  (∀ (s t : State) (q : Nat) (w : Command), commandIs s q t w →
    (let u := t.takeCommand q w
     let c := u.queue q
     (w.malformed = false → w.op = 0 → exec (.nopCommand q) s = .next (u.retireCommand q 0)) ∧
     (let sys := decide (natBits (w.word 0) 11 10 ≠ 0)
      (w.malformed = false → w.op = 3 → ∀ x v, u.ventTranslate c.part c.asid .store sys (w.word 1) = .ok x → u.poisonedAt x.pa 8 = false →
        u.ventWrite c.part c.asid sys (w.word 1) (bytesLE 8 (w.word 2)) [] = .ok v → exec (.signal q) s = .next (v.retireCommand q 0)) ∧
      (w.malformed = false → w.op = 3 → (∃ f, u.ventTranslate c.part c.asid .store sys (w.word 1) = .error f) ∨
          (∃ x, u.ventTranslate c.part c.asid .store sys (w.word 1) = .ok x ∧ u.poisonedAt x.pa 8 = true) ∨
          (∃ f, u.ventWrite c.part c.asid sys (w.word 1) (bytesLE 8 (w.word 2)) [] = .error f) →
        exec (.signal q) s = .next (u.retireCommand q 6))) ∧
     (w.malformed = false → w.op = 2 → exec (.waitsem q) s = .next (u.readSem q)) ∧
     (w.malformed = true → w.dropped = true → exec (.malformedCommand q) s = .next (u.retireCommand q 4)) ∧
     (w.malformed = true → w.dropped = false → w.op ≠ 1 ∨ true ∈ w.bad → exec (.malformedCommand q) s = .next (u.retireCommand q 1)) ∧
     (w.malformed = true → w.dropped = false → w.op = 1 → true ∉ w.bad → exec (.malformedCommand q) s = .next (u.endLaunch q 1)))) ∧
  (∀ (s : State) (q : Nat) (f : Cause), s.commandDue q = true → s.nextCommand q = .error f →
    exec (.malformedCommand q) s = .next { s.changeQueue q (fun c => if c.qerr == 0 then { c with qerr := 2 } else c) with
      vent := eraseFirst (· == { queue := q, ask := .doorbell }) s.vent }) ∧
  (∀ (s t : State) (q : Nat) (bs : List Byte) (bad : Bool),
    (let c := s.queue q
     let va := c.cmd.getD 1 0
     let sys := decide (natBits (c.cmd.getD 0 0) 9 8 ≠ 0)
     s.ventRead c.part c.asid sys va 8 = .ok (t, bs, bad) →
     (bad = false → c.cmd.getD 2 0 ≤ natLE bs → s.readSem q = t.retireCommand q 0) ∧
     (bad = true → s.readSem q = t.retireCommand q 6) ∧
     (∀ x, bad = false → natLE bs < c.cmd.getD 2 0 → t.ventTranslate c.part c.asid .load sys va = .ok x →
       s.readSem q = t.changeQueue q fun c => { c with
         watch := some { line := x.pa / 128, kid := (t.line (x.pa / 128)).kid, interval := (t.line (x.pa / 128)).interval, sub := none,
                         touched := false }
         polled := t.rtime.toNat }))) ∧
  (∀ (s : State) (q : Nat), s.ventTurn q .semaphore = false → exec (.semaphoreChange q) s = .next s) ∧
  (∀ (s : State) (q : Nat) (m : Monitor), (s.queue q).watch = some m →
    (let t : State := { s with vent := eraseFirst (· == { queue := q, ask := .semaphore }) s.vent }
     let changed : Prop := regionOf (m.line * 128) ≠ .host ∧ ((s.line m.line).interval ≠ m.interval ∨ (s.line m.line).kid ≠ m.kid)
     s.ventTurn q .semaphore = true →
       (changed → exec (.semaphoreChange q) s = .next (t.readSem q)) ∧ (¬changed → exec (.semaphoreChange q) s = .next t)) ∧
    (regionOf (m.line * 128) = .host → (s.queue q).polled + 1000 ≤ s.rtime.toNat → exec (.semaphorePoll q) s = .next (s.readSem q))) ∧
  (∀ (s t : State) (q st : Nat), (let c := s.queue q
    s.ventWrite c.part c.asid true (c.slot c.head + 56) (bytesLE 8 st) [] = .ok t →
    (s.retireCommand q st).mem = t.mem ∧ (s.retireCommand q st).queue q = { c with
      head := c.head + 1, busy := false, cmd := [], watch := none, droppedSeqs := c.droppedSeqs.filter (· != c.head.toNat)
      userSeqs := c.userSeqs.filter (· != c.head.toNat) }))

/-- A LAUNCH whose descriptor is refused ends with status 2, and one that can never fit with status 3; one that fits waits while queue storage is
short, and starts a bundle with every instance of every stage pending and every queue empty and open. A finished stage closes the queues it produced
when its event is in turn; a bundle whose stages have finished, whose jobs are complete and whose parties have left ends with its status, in FULL
mode once the horizon has passed its accesses (R309, R320-R323, R325-R328, R330). -/
def Obligations.BundlesLive : Prop :=
  (∀ (s t : State) (q : Nat) (w : Command), commandIs s q t w → w.malformed = false → w.op = 1 →
    (let sys := decide (natBits (w.word 0) 9 8 ≠ 0)
     let u := t.takeCommand q w
     let sup := (s.queue q).mayStartSup (t.queue q).head.toNat
     let short : Prop := ∃ v d, t.readDesc q sys (w.word 1) sup = some (v, d) ∧ d.storage ≤ storageSize ∧
       v.neverFits (s.queue q).part d = false ∧ storageSize < t.storageUsed + d.storage
     (short → exec (.launch q) s = .next s) ∧ (¬short →
     (u.readDesc q sys (w.word 1) sup = none → exec (.launch q) s = .next (u.endLaunch q 2)) ∧
     (∀ v d, u.readDesc q sys (w.word 1) sup = some (v, d) → storageSize < d.storage ∨ v.neverFits (s.queue q).part d = true →
       exec (.launch q) s = .next (v.endLaunch q 3)) ∧
     (∀ v d, u.readDesc q sys (w.word 1) sup = some (v, d) → d.storage ≤ storageSize → v.neverFits (s.queue q).part d = false →
       ∃ x b, exec (.launch q) s = .next x ∧ x.bundles = v.bundles ++ [b] ∧ x.mem = v.mem ∧ x.me = v.me ∧ b.desc = d ∧ b.queue = q ∧
         b.status = 0 ∧ b.retired = false ∧ b.asid = (v.queue q).asid ∧ b.cseq = (v.queue q).head.toNat ∧
         b.stages = d.stages.map (fun y => { pending := List.range y.gridN, resident := 0, exited := 0, finished := false, goneClauses := 0, goneNoFlush := false }) ∧
         b.queues = d.queues.map fun _ => { entries := [], closed := false, fullSince := none })))) ∧
  (∀ (s : State) (b g : Nat) (x : Bundle), s.bundle b = some x → s.ventTurn x.queue (.stageOver b g) = false →
    exec (.stageFinish b g) s = .next s) ∧
  (∀ (s : State) (b g : Nat) (x : Bundle), s.bundle b = some x → x.stageOver g = true → s.ventTurn x.queue (.stageOver b g) = true →
    exec (.stageFinish b g) s = .next ((s.ventTake x.queue (.stageOver b g)).changeBundle b fun y => { y with
      stages := updateAt (fun z => { z with finished := true }) g y.stages
      queues := (y.queues.zip y.desc.queues).map fun r => if r.2.src == g then { r.1 with closed := true } else r.1 })) ∧
  (∀ (s : State) (b : Nat) (x : Bundle), s.bundle b = some x → x.retired = true → s.endPhaseOver x = true →
    exec (.bundleRetire b) s = .next ({ s with bundles := s.bundles.filter (·.id != b) }.endLaunch x.queue x.status)) ∧
  (∀ (s : State) (b : Nat) (x : Bundle), s.bundle b = some x → x.retired = false → (∀ y ∈ x.stages, y.finished = true) →
    (∀ j ∈ s.jobs, j.bundle = b → j.complete = true) → (∀ p ∈ s.parties, p.bundle ≠ b) →
    ∃ t, exec (.bundleRetire b) s = .next t ∧ (s.parts[x.part].full = false →
        t = ({ s.bundleOver x with bundles := (s.bundleOver x).bundles.filter (·.id != b) }.endLaunch x.queue x.status)) ∧
      (s.parts[x.part].full = true → laterOrSame s.parts[x.part].chkhz
        (((s.clocks.map (·.1)).filter (s.counts x.part)).foldl (fun m u => maxTime m (s.clock u)) s.parts[x.part].maxClock) = false →
      ∃ y, t.bundle b = some y ∧ y.retired = true ∧ y.status = x.status ∧ t.mem = s.mem))

/-! ## Placement and pre-emption -/

namespace Sys2Proof.Claims

/-- A gang as its stage starts it: its lanes at the entry point, its arguments in S0-S15, no register bound (R31, R33, R36, R326, R399). -/
def startedGang (b : Bundle) (g c i u : Nat) (x : StageRec) (p : Party) : Prop :=
  p.ident = b.identity g c i false ∧ p.role = .gang ∧ p.core = u ∧ p.bundle = b.id ∧ p.stage = g ∧ p.crew = c ∧ p.gang = i ∧
    p.asid = b.asid ∧ p.part = b.part ∧ p.sup = x.priv ∧ p.handler = none ∧ p.cause = 0 ∧ p.pend = [] ∧
    p.codebase = b.desc.codebase ∧ p.userh = b.desc.userh ∧ p.vreg = x.vreg ∧
    (∀ l : Fin 32, p.pcv[l] = if l.val < x.lanesN then BitVec.ofNat 32 x.entry else 0xFFFFFFFF) ∧
    (∀ n : Fin 56, p.sregs[n] = { val := if h : n.val < 16 then x.args[n.val] else 0, poison := false }) ∧
    (∀ n : Fin 116, p.vregs[n] = none)

/-- The crew that a die's distributor steals for its core u: of the die with the most pending crews that fit, where its own die has none (R333). -/
def stolen (s : State) (d u : Nat) : Option Cand :=
  let own := s.cands fun b g x c => x.kind == 0 && !x.coresident && s.ofDie b.part x d c && s.coreFits b g x u
  let mates := match (List.finRange 4).find? fun p => s.parts[p].dies.getLsbD d with
    | some p => (diesOf s.parts[p].dies).filter (· != d)
    | none => []
  let victim := mates.foldl (fun (m : Option Nat) k => match m with
    | none => if s.stealCount u k == 0 then none else some k
    | some v => if s.stealCount u k > s.stealCount u v then some k else some v) none
  if u / 128 == d && own.isEmpty then victim.bind fun v => choose12 (s.cands (s.stealable u v)) else none

/-- Crews of a list. -/
def among (ks : List Crew) (k : Crew) : Bool := ks.contains k

end Sys2Proof.Claims

/-- A distributor starts the crew it chooses on a unit that fits it, or steals one; a CORESIDENT stage starts as a whole; the gangs of a started
vector crew stand at their entry point with their arguments and no register bound; a stage counts one resident more and one pending less (R31,
R36, R325, R326, R332-R334, R399). -/
def Obligations.CrewsStart : Prop :=
  (∀ (s : State) (b g c u : Nat) (y : Bundle) (st : StageState) (x : StageRec) (k : Cand), s.bundle b = some y → y.stages[g]? = some st →
    y.desc.stages[g]? = some x → x.coresident = false → s.nextFor (x.kind == 0) x.kind u = some k → k.b.id = b → k.g = g → k.crew = c →
    exec (.crewAdmit b g c u) s = .next (s.admitCrew y g c u x)) ∧
  (∀ (s : State) (b g c u : Nat) (y : Bundle) (st : StageState) (x : StageRec) (plan : List (Nat × Nat)), s.bundle b = some y →
    y.stages[g]? = some st → y.desc.stages[g]? = some x → x.coresident = true → st.pending ≠ [] → st.pending.length + st.exited = x.gridN →
    s.planFor y g x true st.pending = some plan → (c, u) ∈ plan →
    exec (.crewAdmit b g c u) s = .next (plan.foldl (fun t k => t.admitCrew y g k.1 k.2 x) s)) ∧
  (∀ (s : State) (d u : Nat) (k : Cand), stolen s d u = some k → exec (.crewSteal d u) s = .next (s.admitCrew k.b k.g k.crew u k.x)) ∧
  (∀ (s : State) (y : Bundle) (g c u : Nat) (x : StageRec), y.id ≠ 0 →
    (let t := s.admitCrew y g c u x
     ((∀ n, noDiffering s n = true) → t.mem = s.mem) ∧
     (x.kind = 0 → ∀ i, i < x.crewN → ∃ p ∈ t.parties, startedGang y g c i u x p) ∧
     (∃ k ∈ t.crews, k.bundle = y.id ∧ k.stage = g ∧ k.crew = c ∧ k.core = (if x.kind = 0 then u else 4 * u) ∧ k.draft = none ∧ k.prmp = none ∧
       k.windows = Vector.replicate 8 none) ∧
     (∀ z st, s.bundle y.id = some z → z.stages[g]? = some st → ∃ z' st', t.bundle y.id = some z' ∧ z'.stages[g]? = some st' ∧
       st'.resident = st.resident + 1 ∧ st'.pending = st.pending.filter (· != c))))

/-- A request, once its event is in turn, marks the crews it concerns with its time and the action that R388 chooses, and sets PRMP in their parties; a
stalled stage makes one; a drain that lasts 20 microseconds becomes a save, and a request not taken for 100 is withdrawn. A flush ends a crew's parties and makes it
pending again; a save keeps every register of its parties, which leave their core; a restore puts them back on a core that fits, with
every register (R335, R388-R392, R397). -/
def Obligations.Preemption : Prop :=
  (∀ (s : State) (b g c : Nat) (y : Bundle), s.bundle b = some y →
    (let ask : VentAsk := .preempt b g c
     (∃ e ∈ s.vent, e.queue = y.queue ∧ e.ask ≠ .doorbell) → s.ventTurn y.queue ask = false →
       exec (.preemptRequest b g c) s = .next (if s.vent.contains { queue := y.queue, ask } then s
         else { s with vent := s.vent ++ [{ queue := y.queue, ask }] }))) ∧
  (∀ (s : State) (b g c : Nat) (y : Bundle) (x : StageRec) (z : StageState), s.bundle b = some y → y.desc.stages[g]? = some x → y.stages[g]? = some z →
    (let ks := s.concerned b g c
     (∀ e ∈ s.vent, e.queue ≠ y.queue ∨ e.ask = .doorbell) ∨ s.ventTurn y.queue (.preempt b g c) = true → (∀ k ∈ ks, k.prmp = none) →
     ∃ t, exec (.preemptRequest b g c) s = .next t ∧ t.mem = s.mem ∧
       t.crews = (s.crews.map fun k => if among ks k then { k with prmp := some (s.rtime.toNat, s.actionFor x z ks) } else k) ∧
       (s.stalledStage y g = true → s.starved y g = true → ∃ u, exec (.queueStallPreempt b g c) s = .next u ∧ u.mem = s.mem ∧ u.crews = t.crews ∧
         u.parties = t.parties) ∧
       ∀ p ∈ t.parties, (ks.any fun k => k.isOf p) = true → (s.parties.map (·.ident)).Nodup → p.cause &&& Cause.mask .prmp ≠ 0)) ∧
  (∀ (s : State) (b g c : Nat), (let ks := s.concerned b g c
    exec (.drainTimeout b g c) s = .next { s with crews := s.crews.map fun k => if among ks k then (match k.prmp with
      | some (t, 1) => if t + 20000 ≤ s.rtime.toNat then { k with prmp := some (t, 2) } else k
      | _ => k) else k })) ∧
  (∀ (s : State) (b g c : Nat), (let late (k : Crew) : Bool := k.prmp.any fun x => decide (x.1 + 100000 ≤ s.rtime.toNat)
    let ks := (s.concerned b g c).filter late
    ∃ t, exec (.preemptWithdraw b g c) s = .next t ∧ t.mem = s.mem ∧
      t.crews = (s.crews.map fun k => if among ks k then { k with prmp := none } else k) ∧
      ∀ p ∈ t.parties, (ks.any fun k => k.isOf p) = true → (s.parties.map (·.ident)).Nodup → p.cause &&& Cause.mask .prmp = 0)) ∧
  (∀ (s : State) (b g c : Nat) (k : Crew) (z : Bundle) (st : StageState), s.ready b g c 0 = [k] → s.allStopped [k] = true →
    (∀ p ∈ s.partiesOf k, p.flushClear = true) → k.bundle ≠ 0 → s.bundle k.bundle = some z → z.stages[k.stage]? = some st →
    ∃ t, exec (.flush b g c) s = .next t ∧ (∀ p ∈ t.parties, k.isOf p = false) ∧
      (∀ x ∈ t.crews, ¬(x.bundle = k.bundle ∧ x.stage = k.stage ∧ x.crew = k.crew)) ∧
      ∃ z' st', t.bundle k.bundle = some z' ∧ z'.stages[k.stage]? = some st' ∧ st'.resident = st.resident - 1 ∧ k.crew ∈ st'.pending) ∧
  (∀ (s : State) (b g c : Nat) (k : Crew), s.ready b g c 2 = [k] → s.allStopped [k] = true → s.messagesOut k = true →
    (∀ p ∈ s.partiesOf k, p.live = 0 ∨ p.saveClear = true) → (s.parties.map (·.ident)).Nodup → k.bundle ≠ 0 →
    ∃ t, exec (.save b g c) s = .next t ∧ ((∀ n, noDiffering s n = true) → t.mem = s.mem) ∧
      (∀ x ∈ t.crews, ¬(x.bundle = k.bundle ∧ x.stage = k.stage ∧ x.crew = k.crew)) ∧
      ∀ p ∈ s.partiesOf k, p.live ≠ 0 → ∃ q ∈ t.parties, q.ident = p.ident ∧ q.switchedOut = true ∧ q.pcv = p.pcv ∧ q.epcv = p.epcv ∧
        sameRegisters p q) ∧
  (∀ (s : State) (b g c u : Nat) (y : Bundle) (x : StageRec) (v : Saved), s.bundle b = some y → y.desc.stages[g]? = some x →
    (y.saved.find? fun w => w.stage == g && w.crew == c) = some v → s.nowhere y x c = false → x.coresident = false →
    s.unitFits y g x u = true → (s.parties.map (·.ident)).Nodup → v.record.bundle ≠ 0 →
    (let e : Instr := if x.kind = 0 then .crewRestore b g c u else .instanceRestore b g c u
     ∃ t, exec e s = .next t ∧ ((∀ n, noDiffering s n = true) → t.mem = s.mem) ∧
       ∀ p ∈ s.parties, v.record.isOf p = true → p.switchedOut = true → ∃ q ∈ t.parties, q.ident = p.ident ∧ q.switchedOut = false ∧
         q.core = (if x.kind = 0 then u else 4 * u) ∧ q.pcv = p.pcv ∧ q.epcv = p.epcv ∧ sameRegisters p q))

/-! ## Power, links, the outside -/

/-- A relock begins a tick after it was asked for and ends 2000 ticks later, with a new one where the request has changed; the limits ask for lower
steps, and a die that was too hot for its old one again; an idle core is gated, its copies leaving every directory, and comes up with its clock
past the latest broadcast; a failed die ends the parties on it; links go down and come up (R294, R307, R370, R395, R420). -/
def Obligations.PowerAndLinks : Prop :=
  (∀ (s : State) (d : Fin 4), (s.die d).busy = true → (s.die d).relockEnd = none → (s.die d).since < s.rtime.toNat →
    exec (.relockStart d) s = .next (s.changeDie d fun y => { y with target := y.req, relockEnd := some (y.since + 2001) })) ∧
  (∀ (s : State) (d : Fin 4) (t : Nat), (s.die d).relockEnd = some t → t ≤ s.rtime.toNat →
    exec (.relockEnd d) s = .next (s.changeDie d fun y =>
      if y.req = y.target then { y with cur := y.target, busy := false, relockEnd := none, phase := 0 }
      else { y with cur := y.target, target := y.req, relockEnd := some (t + 2000) }).openJobs) ∧
  (∀ (s : State) (d : Fin 4),
    ((s.die d).busy = false ∨ (s.die d).relockEnd.isSome = true ∨ s.rtime.toNat ≤ (s.die d).since → exec (.relockStart d) s = .next s) ∧
    ((∀ t, (s.die d).relockEnd = some t → s.rtime.toNat < t) → exec (.relockEnd d) s = .next s)) ∧
  (∀ (s : State) (d : Fin 4),
    (let asked (y : Die) (n : Nat) : Die := { y with req := n, busy := y.busy || n != y.cur, since := if y.busy then y.since else s.rtime.toNat }
     exec (.thermalLimit d) s = .next (s.changeDie d fun y => { asked y 0 with hotAt := some s.rtime.toNat }) ∧
     (∀ t, (s.die d).hotAt = some t → t + 10000000 ≤ s.rtime.toNat →
       exec (.thermalRestore d) s = .next (s.changeDie d fun y => { asked y y.lastSup with hotAt := none })) ∧
     ((∀ t, (s.die d).hotAt = some t → s.rtime.toNat < t + 10000000) → exec (.thermalRestore d) s = .next s) ∧
     (s.start.powerAt + 1000000 ≤ s.rtime.toNat →
       exec (.powerLimitCheck d) s = .next ({ s with start := { s.start with powerAt := s.rtime.toNat } }.changeDie d fun y =>
         if y.req = 0 then y else asked y (y.req - 1))) ∧
     (s.rtime.toNat < s.start.powerAt + 1000000 → exec (.powerLimitCheck d) s = .next s))) ∧
  (∀ (s : State) (c : Nat), c < 512 → (s.core c).gated = false → s.coreIdle c = true →
    ∃ t, exec (.corePowerGate c) s = .next t ∧ ((∀ n, noDiffering s n = true) → t.mem = s.mem) ∧ t.me = s.me ∧ t.others = s.others ∧
      (t.core c).gated = true ∧ (Tbl.sorted s.lines = true → ∀ n, ∀ h ∈ (t.line n).holders, h.unit ≠ c)) ∧
  (∀ (s : State) (c : Nat) (p : Fin 4), (s.core c).gated = true →
    ((List.finRange 4).find? fun q => s.parts[q].dies.getLsbD (c / 128)) = some p →
    exec (.corePowerUp c) s = .next ({ s with clocks := Tbl.set s.clocks c (s.parts[p].maxClock + 1) }.changeCore c fun k =>
      { k with gated := false })) ∧
  (∀ (s : State) (d : Fin 4), (s.die d).failed = false → ∃ t, exec (.dieFailure d) s = .next t ∧
    ((∀ n, noDiffering s n = true) → t.mem = s.mem) ∧ (t.die d).failed = true ∧
    ((s.parties.map (·.ident)).Nodup → ∀ p ∈ s.parties, p.bundle ≠ 0 → p.die = d.val → p.switchedOut = false → p.live ≠ 0 →
      ∃ q ∈ t.parties, q.ident = p.ident ∧ q.stopped = true)) ∧
  (∀ (s : State) (o : Fin 16),
    exec (.ewelothLinkDown o) s = .next { s with ports := s.ports.set o { s.ports[o] with up := false } } ∧
    exec (.ewelothLinkUp o) s = .next { s with ports := s.ports.set o { s.ports[o] with up := true } })

namespace Sys2Proof.Claims

/-- An address range lies within one line. -/
def inLine (pa len : Nat) : Prop := 0 < len ∧ pa % 128 + len ≤ 128

/-- The window that a peer's access goes through: one that its link lets in, or, once it has been let in, one that it lies inside. -/
def windowFor (s : State) (a : PeerAccess) : Option PeerWindow :=
  if s.heldPeers.contains a = true then s.ports[a.port].covers a.write a.pa (peerBytes a) else s.ports[a.port].admits a.write a.pa (peerBytes a)

end Sys2Proof.Claims

/-- A host write to device memory puts its bytes under the host's key and no others, a host read none; while a job stands in the way the access is
held, and the job's bundle has status 5 and a record. A peer's write through a window that admits it does the same under the window's key, and is
held likewise; outside every window it changes nothing. A soft error poisons the element, or the lane of a message, that it hits, and changes no
byte of memory (R128, R193, R242, R291, R308, R369, R371, R378). -/
def Obligations.OutsideAccesses : Prop :=
  (∀ (s : State) (a : HostAccess) (pa : Nat), s.memOk → a.op ≠ .home → s.hdm a.part a.off a.len = some pa → inLine pa a.len →
    s.hostWaits (a.op != .read) pa a.len = false → (s.die (s.homeOfPa pa)).failed = false → noDiffering s (pa / 128) = true →
    ∃ t, exec (.hostMemoryAccess a) s = .next t ∧ t.me = s.me ∧ t.others = s.others ∧
      (a.op = .write → a.data.length = a.len → bytesPut s t s.parts[a.part].hostKid pa a.len a.data) ∧
      (a.op ≠ .write → t.mem = s.mem)) ∧
  (∀ (s : State) (a : HostAccess) (pa : Nat), a.op ≠ .home → s.hdm a.part a.off a.len = some pa → s.hostWaits (a.op != .read) pa a.len = true →
    (a ∈ s.held → exec (.hostMemoryAccess a) s = .next s) ∧
    (a ∉ s.held → ∃ t, exec (.hostMemoryAccess a) s = .next t ∧ t.mem = s.mem ∧ t.held = s.held ++ [a] ∧
      ∀ r ∈ s.hostRaces (a.op != .read) pa a.len, ∀ b, s.bundle r.2.bundle = some b → b.status = 0 →
        ∃ b', t.bundle r.2.bundle = some b' ∧ b'.status = 5 ∧ b'.record.isSome = true)) ∧
  (∀ (s : State) (a : HostAccess), s.memOk → a.op = .home → a.data ≠ [] → a.off + a.data.length ≤ 2 ^ 48 → (∀ n, noDiffering s n = true) →
    ∃ t, exec (.hostMemoryAccess a) s = .next t ∧ t.me = s.me ∧
      ∀ b, t.byte b = if 2 ^ 48 + a.off ≤ b ∧ b < 2 ^ 48 + a.off + a.data.length then a.data.getD (b - (2 ^ 48 + a.off)) 0 else s.byte b) ∧
  (∀ (s : State) (a : PeerAccess) (w : PeerWindow), s.memOk → inLine a.pa (peerBytes a) →
    windowFor s a = some w → (s.die (s.homeOfPa a.pa)).failed = false →
    s.hostWaits a.write a.pa (peerBytes a) = false → noDiffering s (a.pa / 128) = true →
    ∃ t, exec (.peerInboundAccess a) s = .next t ∧ t.me = s.me ∧ t.others = s.others ∧
      (a.write = true → bytesPut s t w.kid a.pa a.data.length a.data) ∧ (a.write = false → t.mem = s.mem)) ∧
  (∀ (s : State) (a : PeerAccess) (w : PeerWindow), windowFor s a = some w → s.hostWaits a.write a.pa (peerBytes a) = true →
    exec (.peerInboundAccess a) s = .next (if s.heldPeers.contains a then s else { s with heldPeers := s.heldPeers ++ [a] })) ∧
  (∀ (s : State) (a : PeerAccess), windowFor s a = none →
    exec (.peerInboundAccess a) s = .next s) ∧
  (∀ (s : State) (c k : Nat) (q : Fin 4) (l : Fin 32) (e : MqEntry), (s.core c).mq[q][k]? = some e →
    ∃ t e', exec (.softError (.message c q k l)) s = .next t ∧ t.mem = s.mem ∧ t.me = s.me ∧ (t.core c).mq[q][k]? = some e' ∧
      e'.entry.val = e.entry.val ∧ ∀ j : Fin 32, e'.entry.poison.has j = (decide (j = l) || e.entry.poison.has j)) ∧
  (∀ (s : State) (u n b : Nat), ∃ t, exec (.softError (.copyBit u n b)) s = .next t ∧ t.mem = s.mem ∧ t.me = s.me ∧ t.poison = s.poison ∧
    ((∀ h ∈ (s.line n).holders, h.unit ≠ u) → t = s)) ∧
  (∀ (s : State) (pa : Nat), ∃ t, exec (.softError (.element pa)) s = .next t ∧ t.mem = s.mem ∧ t.me = s.me ∧
    ∀ n, n ∈ t.poison ↔ n = pa / 4 ∨ n ∈ s.poison)

/-- Nothing is outstanding, no line has lost its newest data, and no copy of a line differs from it. -/
def Sys2Proof.Claims.settled (s : State) : Prop :=
  (∀ n, noDiffering s n = true) ∧ (∀ q ∈ s.parties, q.pend = []) ∧ ∀ x ∈ s.lines, x.2.lost = 0

/-- The firmware image passes the checks of step 0x04, and the board record those of step 0x05 (R372, R418). -/
def Sys2Proof.Claims.startable (s : State) : Prop :=
  s.security.image.key = s.security.rootKey ∧ s.security.image.signed = true ∧ s.security.minVersion ≤ s.security.image.version ∧
    s.start.recordLegal = true

/-- A start has failed at a step for a reason: the next one will be cold, and no party is there (R417). -/
def Sys2Proof.Claims.failedAt (t : State) (k r : Nat) : Prop :=
  t.start.step = k ∧ t.start.lastfail = k ∧ t.start.reason = r ∧ t.start.force = true ∧ t.start.running = false ∧ t.me = .vacant ∧ t.others = []

/-- What the part itself may fail a cold start for: a rail, the PUF, HBM training, a unit (R394, R417). -/
def Sys2Proof.Claims.coldFaults : List (Nat × Nat) := [(2, 1), (3, 2), (6, 6), (6, 8), (7, 8)]

/-- A cold start that ends leaves RTIME 0, device memory zero and without poison, no party, no bundle and no line held, the version of its firmware
running, and START done. One whose image has a wrong key, a bad signature or a version below the minimum fails at step 4, one whose board record
breaks its limits at step 5, and one that the part fails at the step where it does; it leaves the step and the reason and forces the next start to be
cold, as a request does that interrupts a start, which then runs cold. A warm start of the package ends every bundle and party and keeps RTIME, and
where nothing is outstanding, lost or differing it keeps memory with its poison, keys, address spaces and control blocks, these disabled and
empty; a partition's does so for a mask that is its die set, and touches no other partition's control blocks. A loss of power keeps of START only
FORCE and LASTFAIL (R303, R372, R414-R418). -/
def Obligations.StartsRun : Prop :=
  (∀ (s : State), s.start.running = false → startable s → ∃ t, exec (.coldStart .done) s = .next t ∧ t.rtime = 0 ∧ t.me = .vacant ∧ t.others = [] ∧
    t.bundles = [] ∧ t.jobs = [] ∧ t.lines = [] ∧ t.spaces = [] ∧ (∀ a, regionOf a = .device → t.byte a = 0) ∧
    (∀ e ∈ t.poison, regionOf (e * 4) ≠ .device) ∧ t.start.step = 0xFF ∧ t.start.force = false ∧ t.start.running = false ∧ t.start.kind = 0 ∧
    t.security.runVersion = s.security.image.version) ∧
  (∀ (s : State), s.start.running = false →
    (let i := s.security.image
     (i.key ≠ s.security.rootKey ∨ i.signed = false → ∃ t, exec (.coldStart .done) s = .next t ∧ failedAt t 4 3) ∧
     (i.key = s.security.rootKey → i.signed = true → i.version < s.security.minVersion →
       ∃ t, exec (.coldStart .done) s = .next t ∧ failedAt t 4 4) ∧
     (i.key = s.security.rootKey → i.signed = true → s.security.minVersion ≤ i.version → s.start.recordLegal = false →
       ∃ t, exec (.coldStart .done) s = .next t ∧ failedAt t 5 5))) ∧
  (∀ (s : State) (k r : Nat), s.start.running = false →
    ((k, r) ∈ coldFaults → startable s → ∃ t, exec (.coldStart (.fails k r)) s = .next t ∧ failedAt t k r) ∧
    ((k, r) ∉ coldFaults → exec (.coldStart (.fails k r)) s = .next s)) ∧
  (∀ (s : State) (k : Nat), s.start.running = false → startable s → 2 ≤ k → k ≤ 8 →
    ∃ t, exec (.coldStart (.stands k)) s = .next t ∧ t.start.step = k ∧ t.start.running = true ∧ t.me = .vacant ∧ t.others = []) ∧
  (∀ (s : State) (i : Instr), s.start.running = true → startable s → i = .coldStart .done ∨ i = .warmStartPackage .done →
    ∃ t, exec i s = .next t ∧ t.start.lastfail = s.start.step ∧ t.start.reason = 7 ∧ t.start.kind = 0 ∧ t.start.step = 0xFF ∧ t.rtime = 0) ∧
  (∀ (s : State), s.start.running = false → s.start.force = false → startable s → ∃ t, exec (.warmStartPackage .done) s = .next t ∧ t.rtime = s.rtime ∧
    t.me = .vacant ∧ t.others = [] ∧ t.bundles = [] ∧ (∀ c ∈ t.cores, 512 ≤ c.1) ∧ (∀ c ∈ t.clusters, 128 ≤ c.1) ∧ t.start.step = 0xFF ∧
    t.start.kind = 1 ∧
    (∀ p : Fin 4, t.parts[p].dies = s.parts[p].dies ∧ t.parts[p].chkmode = 0 ∧ t.parts[p].chkhz = 0) ∧
    (settled s → t.mem = s.mem ∧ t.poison = s.poison ∧ t.kids = s.kids ∧ t.spaces = s.spaces ∧
      t.queues = s.queues.map fun x => (x.1, x.2.warm))) ∧
  (∀ (s : State) (m : BitVec 4) (p : Fin 4), s.start.running = false → s.start.force = false → startable s → m ≠ 0 → m ≠ 0xF → s.parts[p].dies = m →
    ∃ t, exec (.warmStartPartition m .done) s = .next t ∧ t.rtime = s.rtime ∧ (∀ b ∈ t.bundles, b.part ≠ p) ∧
      (∀ q ∈ t.others, q.part ≠ p) ∧ t.start.step = 0xFF ∧ t.parts[p].chkmode = 0 ∧
      (settled s → t.mem = s.mem ∧ t.poison = s.poison ∧ t.kids = s.kids ∧ t.spaces = s.spaces ∧
        ∀ x ∈ s.queues, s.parts[x.2.part].dies &&& m = 0 → x ∈ t.queues)) ∧
  (∀ (s : State) (m : BitVec 4) (e : StartEnd), (∀ p : Fin 4, s.parts[p].dies ≠ m) ∨ m = 0 → exec (.warmStartPartition m e) s = .next s) ∧
  (∀ (s : State), ∃ t, exec .powerLoss s = .next t ∧ t.me = .vacant ∧ t.others = [] ∧ t.bundles = [] ∧ t.start.force = s.start.force ∧
    t.start.lastfail = s.start.lastfail ∧ t.start.reason = 0 ∧ t.start.step = 0 ∧ t.start.kind = 0 ∧ t.start.running = false)


/-! ## The admin mailbox -/

namespace Sys2Proof.Claims

/-- The request was answered with result 0 and this response. -/
def served (s t : State) (response : List DWord) : Prop :=
  t.mailbox.result = 0 ∧ t.mailbox.response = response ∧ t.mailbox.busy = false ∧ t.mailbox.seq = s.mailbox.seq + 1

/-- The page tables are as the firmware keeps them: in its regions of device memory, page by page, under key 0, no copy of a line differing (R352,
R353, log 9). -/
def tablesOk (s : State) : Prop :=
  s.memOk ∧ (∀ n, noDiffering s n = true) ∧ (∀ d : Fin 4, s.firmware[d].2 < 0x2000000 ∧ s.firmware[d].1 + s.firmware[d].2 ≤ 0x8000000) ∧
    (∀ x ∈ s.spaces, x.2.root % 4096 = 0) ∧
    ∀ n, n / 32 ∈ s.tablePages → (s.line n).dkid = 0 ∧ (s.line n).dgen = s.genOf 0

/-- Requests of the mailbox but UNMAP, which answers later. -/
def isRequest : Instr → Bool
  | .ascreate _ | .asdestroy _ | .map .. | .keynew _ | .keyretire _ | .partset .. | .peeropen .. | .peerclose .. | .dvfsset .. | .svnset _ => true
  | _ => false

end Sys2Proof.Claims

/-- Requests about address spaces and keys: ASCREATE maps the supervisor code in a free ASID, MAP puts the leaf and wakes the parties its ASID
held, UNMAP takes the leaf out of the tables and every TLB at once, after a CLAIM that has still to move it, and is answered with the leaf's A and D
once no access uses it, ASDESTROY, KEYNEW and KEYRETIRE; a request that fails changes nothing but the mailbox (R258, R352, R353, R360-R362, R365,
R367). -/
def Obligations.AddressSpaceRequests : Prop :=
  (∀ (s t : State) (i : Instr), isRequest i = true → exec i s = .next t → t.mailbox.result ≠ 0 → t = { s with mailbox := t.mailbox }) ∧
  (∀ (s : State) (p : Fin 4), s.adminFree (.ascreate p) = true → s.parts[p].dies ≠ 0 → (∃ a, a < 1024 ∧ Tbl.get s.spaces a = none) → tablesOk s →
    (∀ d r, (diesOf s.parts[p].dies).head? = some d → s.firmware[d]? = some r → s.tablePages.length + 5 ≤ r.2) →
    ∃ t a sp, exec (.ascreate p) s = .next t ∧ a < 1024 ∧ Tbl.get s.spaces a = none ∧ served s t [BitVec.ofNat 64 a] ∧
      Tbl.get t.spaces a = some sp ∧ sp.part = p ∧ t.walk a 0xF000000000000 = .ok (0, s.supervisorLeaf p) ∧ t.me = s.me ∧ t.others = s.others) ∧
  (∀ (s : State) (a : Nat), s.adminFree (.asdestroy a) = true → (Tbl.get s.spaces a).isSome = true → s.asidUsed a = false →
    ∃ t, exec (.asdestroy a) s = .next t ∧ served s t [] ∧ t.spaces = Tbl.erase s.spaces a ∧ t.mem = s.mem ∧ t.me = s.me ∧
      (∀ c ∈ t.cores, ∀ e ∈ c.2.tlb ++ c.2.itlb, e.asid ≠ a) ∧ ∀ c ∈ t.clusters, ∀ e ∈ c.2.tlb, e.asid ≠ a) ∧
  (∀ (s : State) (a va lv : Nat) (e : BitVec 64) (sp : Space), s.adminFree (.map a va e lv) = true → Tbl.get s.spaces a = some sp →
    lv ≤ 3 → va < 2 ^ 52 → va % 2 ^ leafShift lv = 0 → pteBit e 0 = true → pteLeaf e = true → pteBit e 6 = false → pteBit e 7 = false →
    s.ownsKid sp.part (pteKid e) = true → s.mapAllowed sp.part va lv e = true → s.homeConflict sp.part lv e = false →
    s.mapOverlaps a lv va = false → (∀ d < 4, s.pagesAfter sp.part lv e d ≤ diePages) → ∀ u, s.putLeaf sp.part lv va e sp.root 5 = some u →
    ∃ t, exec (.map a va e lv) s = .next t ∧ t = (u.wakeReplay a).answer 0 [] ∧ served s t [] ∧
      (tablesOk s → (∀ pa ∈ s.walkPath a va, ∀ k ≤ 4, pteBit (s.entryAt pa) 0 = true → malformed (s.entryAt pa) k = false) → t.walk a va = .ok (lv, e)) ∧
      (let held (p : Party) : Prop := p.asid = a ∧ (p.replayable = true ∨ p.port.retries = true ∨ p.mate.retries = true)
       (∀ p ∈ s.parties, held p → { p with remapped := true } ∈ t.parties) ∧ ∀ p ∈ s.parties, ¬held p → p ∈ t.parties)) ∧
  (∀ (s : State) (a va lv pa : Nat) (e : BitVec 64) (sp : Space), s.adminFree (.unmap a va lv) = true → Tbl.get s.spaces a = some sp → lv ≤ 3 →
    va < 2 ^ 52 → s.leafAt a va lv = some (pa, e) →
    (s.claimPending (ptePa e) (2 ^ leafShift lv) = true → exec (.unmap a va lv) s = .next (s.awaitRequest [4, a, va, lv])) ∧
    (s.claimPending (ptePa e) (2 ^ leafShift lv) = false →
     ∃ t, exec (.unmap a va lv) s = .next t ∧ t.mailbox.unmapping = some (a, va, lv, e) ∧ t.mailbox.busy = true ∧
       t.mailbox.seq = s.mailbox.seq ∧ t.me = s.me ∧ (tablesOk s → t.walk a va = .error .xlat) ∧
       (let gone (x : TlbEntry) : Prop :=
          x.part = sp.part → x.level = lv → x.vpn = va / 2 ^ leafShift lv → x.pte &&& ~~~0xC0 ≠ e &&& ~~~0xC0
        (∀ c ∈ t.cores, ∀ x ∈ c.2.tlb ++ c.2.itlb, gone x) ∧ ∀ c ∈ t.clusters, ∀ x ∈ c.2.tlb, gone x))) ∧
  (∀ (s : State) (a va lv : Nat) (e : BitVec 64), s.mailbox.unmapping = some (a, va, lv, e) →
    (s.unmapDrained a va lv e = true → ∃ t, exec (.unmapComplete a va lv) s = .next t ∧
      served s t [if pteBit e 6 then 1 else 0, if pteBit e 7 then 1 else 0] ∧ t = { s with mailbox := t.mailbox }) ∧
    (s.unmapDrained a va lv e = false → exec (.unmapComplete a va lv) s = .next s)) ∧
  (∀ (s : State) (p : Fin 4), s.adminFree (.keynew p) = true → (∃ k, 0 < k ∧ k < 1024 ∧ Tbl.get s.kids k = none) →
    ∃ t k, exec (.keynew p) s = .next t ∧ 0 < k ∧ k < 1024 ∧ Tbl.get s.kids k = none ∧ served s t [BitVec.ofNat 64 k] ∧
      Tbl.get t.kids k = some { part := some p, live := true, gen := s.nextGen } ∧ t.nextGen = s.nextGen + 1 ∧ t.mem = s.mem) ∧
  (∀ (s : State) (k : Nat) (x : Kid), s.adminFree (.keyretire k) = true → k ≠ 0 → Tbl.get s.kids k = some x → x.live = true →
    (∀ y ∈ s.leaves, pteKid y.2.2.2 ≠ k) → (∀ p : Fin 4, s.parts[p].dies = 0 ∨ s.parts[p].hostKid ≠ k) →
    ∃ t, exec (.keyretire k) s = .next t ∧ served s t [] ∧ t.kids = Tbl.erase s.kids k ∧ ((∀ m, noDiffering s m = true) → t.mem = s.mem) ∧
      ∀ n, regionOf (n * 128) = .device → k ≠ 1024 → (s.line n).kid = k → Tbl.sorted s.lines = true → (Tbl.get s.lines n).isSome = true →
        (t.line n).kid ≠ k ∧ (t.line n).holders = [])

/-- Requests about partitions, peer windows, frequency and the security version, and writes of BAR0 registers: PARTSET installs the layout and ends
the bundles of each partition whose die set changes; PEERCLOSE waits for the accesses that its window admitted; a write of BAR0 does what its
register says, and one at an offset that is not a multiple of 8 nothing, which is the model's choice (log 90); a read gives what an RW or RO field
holds, and 0 for a WO one (R5, R6, R318, R360, R361, R363, R369, R371, R372, R400, R417). -/
def Obligations.OtherRequestsAndRegisterWrites : Prop :=
  (∀ (s : State) (ms : List (BitVec 4)) (ks : List Nat), s.adminFree (.partset ms ks) = true → layoutLegal ms = true → ks.length = 4 →
    (∀ p : Fin 4, ms.getD p 0 = 0 ∨ s.ownsKid p (ks.getD p 0) = true) →
    (∀ b ∈ s.bundles, ∀ d ∈ s.movedDies ms, s.parts[b.part].dies.getLsbD d = false) →
    ∃ t, exec (.partset ms ks) s = .next t ∧ served s t [] ∧ t.rtime = s.rtime ∧
      (∀ p : Fin 4, t.parts[p].dies = ms.getD p 0 ∧ t.parts[p].hostKid = ks.getD p 0 ∧
        (s.parts[p].dies ≠ ms.getD p 0 → t.parts[p].serving = decide (ms.getD p 0 ≠ 0) ∧ ∀ b ∈ t.bundles, b.part ≠ p))) ∧
  (∀ (s : State) (o : Fin 16) (pa len k : Nat) (rw : Bool) (p : Fin 4), s.adminFree (.peeropen o pa len k rw) = true → 0 < len →
    ((List.finRange 4).find? fun p => s.parts[p].dies.getLsbD (o.val / 4)) = some p → s.ownsKid p k = true → regionOf pa = .device →
    s.partOfPa pa = some p → s.partOfPa (pa + len - 1) = some p → (∃ n : Fin 8, s.ports[o].windows[n] = none) →
    ∃ t n, exec (.peeropen o pa len k rw) s = .next t ∧ s.ports[o].windows[(n : Fin 8)] = none ∧ served s t [BitVec.ofNat 64 n] ∧
      t.ports = s.ports.set o { s.ports[o] with windows := s.ports[o].windows.set n (some { pa, len, kid := k, write := rw }) } ∧
      t.mem = s.mem) ∧
  (∀ (s : State) (o : Fin 16) (n : Fin 8), s.adminFree (.peerclose o n) = true → s.ports[o].windows[n].isSome = true →
    (s.peersWait o n = false → exec (.peerclose o n) s = .next
      ({ s with ports := s.ports.set o { s.ports[o] with windows := s.ports[o].windows.set n none } }.answer 0 [])) ∧
    (s.peersWait o n = true → ∃ t, exec (.peerclose o n) s = .next t ∧ t = { s with mailbox := t.mailbox } ∧ t.mailbox.busy = true ∧
      t.mailbox.seq = s.mailbox.seq ∧ adminRequest t.mailbox.latched = some (.peerclose o n))) ∧
  (∀ (s : State) (d : Fin 4) (x : Nat), s.adminFree (.dvfsset d x) = true → x ≤ 11 →
    ∃ t, exec (.dvfsset d x) s = .next t ∧ served s t [] ∧ (t.die d).req = x ∧ (t.die d).cur = (s.die d).cur ∧
      ((t.die d).busy = true ↔ (s.die d).busy = true ∨ x ≠ (s.die d).cur) ∧ t.mem = s.mem) ∧
  (∀ (s : State), s.adminFree (.svnset s.security.runVersion) = true → s.security.minVersion ≤ s.security.runVersion →
    exec (.svnset s.security.runVersion) s = .next
      ({ s with security := { s.security with minVersion := s.security.runVersion } }.answer 0 [BitVec.ofNat 64 s.security.runVersion])) ∧
  (∀ (s : State) (o : Nat) (v : BitVec 64),
    (o % 8 ≠ 0 → exec (.registerWrite o v) s = .next s) ∧
    (∀ q < 1024, exec (.registerWrite (0x100008 + 64 * q) v) s = exec (.doorbell q (v.truncate 32)) s) ∧
    (∀ q < 1024, v.toNat % 64 = 0 → ∃ t, exec (.registerWrite (0x100000 + 64 * q) v) s = .next t ∧ t.queue q = { s.queue q with base := v }) ∧
    (∀ p : Fin 4, exec (.registerWrite (0x3018 + 0x800 * p) v) s = exec (.sinkheadWrite p v) s ∧
      exec (.registerWrite (0x3040 + 0x800 * p) v) s = exec (.jrnheadWrite p v) s) ∧
    (v.toNat % 16 = 1 → exec (.registerWrite 0x1008 v) s = exec (.warmStartPackage .done) s) ∧
    (v.toNat % 16 = 2 → exec (.registerWrite 0x1008 v) s = exec (.warmStartPartition (BitVec.ofNat 4 (v.toNat / 16)) .done) s) ∧
    (∀ k < 8, s.mailbox.request.length ≤ 64 → ∃ t, exec (.registerWrite (0x2000 + 8 * k) v) s = .next t ∧
      t = { s with mailbox := { s.mailbox with request := t.mailbox.request } } ∧ field64 t.mailbox.request (8 * k) = v.toNat ∧
      ∀ j < 8, j ≠ k → field64 t.mailbox.request (8 * j) = field64 s.mailbox.area (8 * j)) ∧
    (v.getLsbD 0 = true → s.mailbox.busy = false → s.parts.toList.any (·.serving) = true →
      exec (.registerWrite 0x2088 v) s = .next (if (adminRequest s.mailbox.area).isSome then
        { s with mailbox := { s.mailbox with busy := true, latched := s.mailbox.area } } else s.answer 1 []))) ∧
  (∀ s : State, s.readBar 0x1008 = 0 ∧ s.readBar 0x2088 = 0 ∧ (∀ k < 8, s.readBar (0x2000 + 8 * k) = BitVec.ofNat 64 (field64 s.mailbox.area (8 * k))) ∧
    (∀ q < 1024, s.readBar (0x100000 + 64 * q) = (s.queue q).base ∧
      s.readBar (0x100008 + 64 * q) = ((s.queue q).head ++ (s.queue q).tail : BitVec 64)) ∧
    ∀ p : Fin 4, s.readBar (0x3018 + 0x800 * p) = s.debug[p].sink.head ∧ s.readBar (0x3710 + 0x800 * p) = 0)

/-! ## Debug and attestation -/

namespace Sys2Proof.Claims

/-- The state of a dump's gang in R410's layout: 32 blocks of 640 bytes, one per lane, then S0-S55 and the special registers. The PC of a thread
inside a clause is the offset of its next word (R380). -/
def dumpLayout (p : Party) : Prop :=
  p.dump.length = 20992 ∧
  (∀ (l : Fin 32) (v : Fin 116), (p.dump.drop (640 * l + 48 + 4 * v)).take 4 = bytesLE 4 ((p.vregs[v].getD .zero).val[l]).toNat) ∧
  (∀ l : Fin 32, (p.dump.drop (640 * l)).take 8 =
    (if p.isThread = true ∧ p.port.lanes.has l = true ∧ p.port.held = true then bytesLE 4 (BitVec.ofNat 32 (p.port.head + 4 + 4 * p.port.idx)).toNat
     else bytesLE 4 p.pcv[l].toNat) ++ bytesLE 4 p.rsdepth[l].toNat) ∧
  (∀ k : Fin 56, (p.dump.drop (20480 + 8 * k)).take 8 = bytesLE 8 (p.sregs[k]).val.toNat) ∧
  (p.dump.drop 20936).take 16 = bytesLE 4 p.cause.toNat ++ bytesLE 4 p.flags.toNat ++ bytesLE 4 p.causem.toNat ++ bytesLE 4 p.wdogv.toNat

/-- Everything but the party's CAUSE and whether it is halted. -/
def haltedAlike (p q : Party) : Prop := q = { p with cause := q.cause, halted := q.halted, port := q.port }

end Sys2Proof.Claims

/-- HALT sets the HALT cause of its targets, RESUME clears it and lets them go on, DUMP of a target that is not halted writes nothing, and of one that
is halted its 20 992 bytes at the dump buffer, in R410's layout, and no other; heads move up to the tail and no further; a sample is one record of
its scheduler, with the identity of the gang that it selected in this cycle or none, and changes nothing else; each signature takes a leaf index of its own, which no later one takes,
and no other request takes one; GET_CERTIFICATE answers with the bytes asked for of one chain, and all blocks are the blocks one after the other
(R373-R375, R405, R407, R410). -/
def Obligations.DebugAndAttestation : Prop :=
  (∀ (s : State) (t : Fin 4) (c : Bool), s.targets t c = [] →
    exec (.debugHalt t c) s = .next (s.changeDebug t fun d => { d with result := 1 }) ∧
    exec (.debugResume t c) s = .next (s.changeDebug t fun d => { d with result := 1 }) ∧
    exec (.debugDump t c) s = .next (s.changeDebug t fun d => { d with result := 1 })) ∧
  (∀ (s : State) (t : Fin 4) (c : Bool), s.targets t c ≠ [] → (s.parties.map (·.ident)).Nodup →
    (∃ u, exec (.debugHalt t c) s = .next u ∧ u.debug[t].result = 0 ∧ u.mem = s.mem ∧
      ∀ p ∈ s.targets t c, s.debugBit p.part 7 = false → ∃ q ∈ u.parties, q.ident = p.ident ∧ q.cause = p.cause ||| Cause.mask .halt ∧ haltedAlike p q) ∧
    (∃ u, exec (.debugResume t c) s = .next u ∧ u.debug[t].result = 0 ∧
      ((∀ p ∈ s.targets t c, p.halted = false ∨ p.pendingCauses &&& ~~~Cause.mask .halt = 0) →
        ∀ p ∈ s.targets t c, ∃ q ∈ u.parties, q.ident = p.ident ∧ q.cause = p.cause &&& ~~~Cause.mask .halt ∧ q.halted = false ∧
          (p.halted = false → haltedAlike p q)))) ∧
  (∀ (s : State) (t : Fin 4) (c : Bool), s.targets t c ≠ [] →
    ((∃ p ∈ s.targets t c, p.halted = false) → exec (.debugDump t c) s = .next (s.changeDebug t fun d => { d with result := 2 })) ∧
    ((∀ p ∈ s.targets t c, p.halted = true) → ∃ u, exec (.debugDump t c) s = .next u ∧ u.debug[t].result = 0 ∧ u.me = s.me ∧
      u.others = s.others)) ∧
  (∀ (s : State) (t : Fin 4) (p : Party), s.targets t false = [p] → p.halted = true → s.memOk → (∀ n, noDiffering s n = true) →
    (let pa := s.debug[t].buf
     regionOf pa = .device → regionOf (pa + 20991) = .device →
     ∃ u, exec (.debugDump t false) s = .next u ∧ bytesPut s u s.parts[t].hostKid pa 20992 p.dump)) ∧
  (∀ p : Party, dumpLayout p) ∧
  (∀ (s : State) (t : Fin 4) (v : BitVec 64),
    (v.toNat ≤ s.debug[t].sink.tail.toNat → ∃ u, exec (.sinkheadWrite t v) s = .next u ∧ u.debug[t].sink.head = v) ∧
    (s.debug[t].sink.tail.toNat < v.toNat → exec (.sinkheadWrite t v) s = .next s) ∧
    (v.toNat ≤ s.debug[t].jrn.tail.toNat → ∃ u, exec (.jrnheadWrite t v) s = .next u ∧ u.debug[t].jrn.head = v) ∧
    (s.debug[t].jrn.tail.toNat < v.toNat → exec (.jrnheadWrite t v) s = .next s)) ∧
  (∀ (s : State) (t : Fin 4) (c : Nat), c < 2048 → ((List.finRange 4).find? fun p => s.parts[p].dies.getLsbD (c / 512)) = some t →
    (s.debugBit t 3 = false → exec (.sampleTick c) s = .next s) ∧
    (s.debugBit t 3 = true → s.debugBit t 0 = true → ∃ u r, exec (.sampleTick c) s = .next u ∧
      u = { s with trail := s.trail ++ [r], traceSeqs := u.traceSeqs } ∧ r.part = t ∧ r.source = c ∧ r.kind = 1 ∧ r.stamp = s.rtime ∧
      (∀ body, s.picked = some (c, body) → r.payload = body) ∧
      ((∀ body, s.picked ≠ some (c, body)) →
        r.payload = List.replicate 16 0xFF ++ bytesLE 12 ((List.range 32).foldl (fun n _ => 4 + 8 * n) 0) ++ [0, 0, 0, 0]))) ∧
  (∀ s : State, (let busy : Prop := s.me.isThread = false ∧ s.me.bundle ≠ 0 ∧ (s.me.port.held = true ∨ s.me.mate.held = true)
    (busy → ∃ body, s.pick = some (4 * s.me.core + s.me.sched, body) ∧ (body.drop 8).take 8 = bytesLE 8 s.me.ident.toNat) ∧
    (¬busy → s.pick = none))) ∧
  (∀ (s : State) (n : BitVec 256), s.security.leafEnd + 256 ≤ 2 ^ 30 →
    (let x := s.security
     let leaf := if x.leafNext < x.leafEnd then x.leafNext else x.leafEnd
     let y : Security := { x with leafNext := leaf + 1, leafEnd := if x.leafNext < x.leafEnd then x.leafEnd else x.leafEnd + 256 }
     ∀ i, i = Instr.challenge 0 n ∨ (∃ k, (k ≤ 5 ∨ k = 255) ∧ i = Instr.getMeasurements k true n) →
       ∃ t r, exec i s = .next t ∧ t = { s with security := { y with response := some r } } ∧ r.leaf = some leaf)) ∧
  (∀ (s : State) (n : BitVec 256), s.security.leafEnd ≤ s.security.leafNext → 2 ^ 30 < s.security.leafEnd + 256 →
    exec (.challenge 0 n) s = .next s.spdmError) ∧
  (∀ (s : State) (x : Nat) (n : BitVec 256) (c : BitVec 8), 0 < x →
    exec (.challenge x n) s = .next s.spdmError ∧ (∀ o m, exec (.getCertificate x o m) s = .next s.spdmError) ∧
    exec (.spdmUnsupported c) s = .next s.spdmError ∧ (5 < x → x ≠ 255 → ∀ b, exec (.getMeasurements x b n) s = .next s.spdmError)) ∧
  (∀ (s : State) (i : Instr), (i = .getVersion ∨ i = .getCapabilities ∨ i = .negotiateAlgorithms ∨ i = .getDigests ∨
      (∃ o m, i = .getCertificate 0 o m) ∨ ∃ k n, (k ≤ 5 ∨ k = 255) ∧ i = .getMeasurements k false n) →
    ∃ t r, exec i s = .next t ∧ t = { s with security := { s.security with response := some r } } ∧ r.leaf = none ∧ r.code ≠ 0x7F ∧
      (∀ k n, i = .getMeasurements k false n → some r.body = s.measurements k)) ∧
  (∃ chain : List Byte, ∀ (s : State) (o m : Nat), ∃ t r, exec (.getCertificate 0 o m) s = .next t ∧ t.security.response = some r ∧
    r.body = (chain.drop o).take m) ∧
  (∀ s : State, s.measurements 0 = some [5] ∧ s.measurements 255 = some ((List.range 5).flatMap fun k => (s.measurements (k + 1)).getD []))

/-! ## Words and steps -/

/-- A few words, each written out from its class's encoding, decode to the instruction they stand for, with a clause header; a word that is
legal in no row of its class, and a header of no words, decode to none (R46, R48-R59). -/
def Obligations.DecodeWords : Prop :=
  decodeHeader 0x22A0FF00 = .ok { n := 2, cls := .vf, gp := 2, gi := true, ldw := 0, stw := 31, enw := 7, lb := false } ∧
  decodeWord .vi 0x000C0825 none = .ok (.iadd { w := false, d := .v 3, a := .v 1, b := .v 2, la := false, lb := true } .ss) ∧
  decodeWord .vf 0x202020C8 none = .ok (.fcvt { w := false, d := .v 8, a := .v 4, la := true } 12 .rne) ∧
  decodeWord .vm 0x0818110D none = .ok (.ldw { w := false, d := 6, a := 2, s := 8, lx := false, ord := true, scope := .dev }) ∧
  decodeWord .vm 0x400C0005 none = .ok (.fence false .full .dev) ∧
  decodeWord .ct 0x30000005 none = .ok (.trap false 5) ∧
  decodeWord .ct 0x0C288122 none = .ok (.mcall false 5 (.v 8) (.v 9) 2) ∧
  decodeWord .un 0xA8091FFE none = .ok (.sbra true true (.s 8) 0x1FFE) ∧
  decodeWord .mx 0x0600A30F none = .ok (.mma false (.s 5) (.s 6) (.s 7) true) ∧
  decodeWord .cp 0x00298000 none = .ok (.cpy false (.s 5) (.s 12)) ∧
  (decodeWord .vi 0x7E000000 none).toOption = none ∧ (decodeWord .cp 0x7E000000 none).toOption = none ∧
  (decodeHeader 0).toOption = none

/-- DECODE AND ENCODE AGREE: every legal word of every class, and every header, decodes from its encoding to itself, with every operand at every
value that the encoding has room for; a literal is the word after it (R46, R48-R59, R109). -/
def Obligations.EncodeDecode : Prop :=
  (∀ (i : Instr) (c : Cls), i.cls = some c → i.wf = true →
    encodeBits i < 2 ^ 32 ∧ (encode i)[0]? = some (BitVec.ofNat 32 (encodeBits i)) ∧
    decodeWord c (encodeBits i) ((encode i)[1]?) = .ok i) ∧
  (∀ h : Header, 0 < h.n → h.n < 16 → h.ldw < 32 → h.stw < 32 → h.enw < 8 → h.encode < 2 ^ 32 ∧ decodeHeader h.encode = .ok h)

/-- EVERY WORD HAS ONE MEANING: what a word decodes to is legal, of its class, and has that word as its encoding, so two words that differ in any
bit never decode to the same instruction, and no reserved bit is passed over (R46, R48-R59). -/
def Obligations.DecodedWordEncodesBack : Prop :=
  (∀ (c : Cls) (w : Nat) (lit : Option Word) (i : Instr), w < 2 ^ 32 → decodeWord c w lit = .ok i →
    i.cls = some c ∧ i.wf = true ∧ encodeBits i = w ∧ (i.takesLiteral = true → (encode i)[1]? = lit)) ∧
  (∀ (w : Nat) (h : Header), w < 2 ^ 32 → decodeHeader w = .ok h → h.encode = w)

/-- With nothing outside due, a step performs the word at the issue slot, when its party can issue it, and lets the slot's cycle pass: the
instruction is what the clause's word decodes to; a word that decodes to none raises ILLI; otherwise the step is the event that is due, or the
vote of the next scheduler, which sees what words would be held; an event of the agenda comes first, but for a relock that begins or ends now, and an
entry of it that is no event is passed over. What has arisen meanwhile for the vent cores enters their queue (R46, R59, R307, R323, R336, log 3, log
4). -/
def Obligations.StepRunsTheDecodedWord : Prop :=
  (∀ (s : State) (i : Instr) (w : Word), s.agenda = [] → s.slot ≠ .spent → s.canIssue = true → s.me.port.micro = none →
    s.me.port.words[s.me.port.idx]? = some w → decodeWord s.me.port.hdr.cls w.toNat s.me.port.words[s.me.port.idx + 1]? = .ok i →
    ∀ t, exec i s.startWord = .next t → step s = .next (t.afterWord s.me (t.wasHeld s.me)).noteVent) ∧
  (∀ (s : State) (i : Instr) (m : Micro) (w : Word), s.agenda = [] → s.slot ≠ .spent → s.canIssue = true → s.me.port.micro = some m →
    m.words[m.idx]? = some w → decodeWord m.hdr.cls w.toNat m.words[m.idx + 1]? = .ok i →
    ∀ t, exec i s.startWord = .next t → step s = .next (t.afterWord s.me (t.wasHeld s.me)).noteVent) ∧
  (∀ (s : State) (w : Word), s.agenda = [] → s.slot ≠ .spent → s.canIssue = true → s.me.port.micro = none →
    s.me.port.words[s.me.port.idx]? = some w → (decodeWord s.me.port.hdr.cls w.toNat s.me.port.words[s.me.port.idx + 1]?).toOption = none →
    (let t := s.startWord.stopWord (.cause .illi)
     step s = .next (t.afterWord s.me (t.wasHeld s.me)).noteVent)) ∧
  (∀ (s t : State) (e : Instr) (rest : List Instr), s.agenda = e :: rest → s.relockDue = none → e.cls = none → (∀ c, e ≠ .vote c) →
    exec e { s with agenda := rest } = .next t → step s = .next t.afterEvent.noteVent) ∧
  (∀ (s t : State) (c : Nat) (rest : List Instr), s.agenda = .vote c :: rest → s.relockDue = none →
    exec (.vote c) { s with agenda := rest }.markStalls = .next t → step s = .next t.afterVote.noteVent) ∧
  (∀ (s t : State) (e : Instr) (rest : List Instr), s.agenda = e :: rest → s.relockDue = none → e.cls ≠ none →
    exec (.vote noScheduler) { s with agenda := rest } = .next t → step s = .next t.afterVote.noteVent) ∧
  (∀ (s t : State) (e : Instr), s.agenda ≠ [] ∨ s.slot = .spent ∨ s.canIssue = false → s.relockDue = some e → exec e s = .next t →
    step s = .next t.afterEvent.noteVent) ∧
  (∀ (s t : State) (e : Instr), s.agenda = [] → s.slot = .spent ∨ s.canIssue = false → s.relockDue = none → s.dueEvent = some e → (∀ c, e ≠ .vote c) →
    exec e s = .next t → step s = .next t.afterEvent.noteVent) ∧
  (∀ (s t : State), s.agenda = [] → s.slot = .spent ∨ s.canIssue = false → s.relockDue = none → s.dueEvent = none →
    exec (.vote s.markStalls.nextScheduler) s.markStalls = .next t → step s = .next t.afterVote.noteVent)

/-- Time that passes with debug and trace off, no start in progress and no watchdog due: RTIME counts ticks, each die's CYCR its cycles and its CYCN accumulator a fixed
increment a cycle, GRUN the ticks of parties on cores; no other register and no byte of memory changes (R303-R305, R307, R337). -/
def Obligations.TimePasses : Prop :=
  ∀ (s : State) (d k c n : Nat), s.trail = [] → s.start.running = false → (∀ p : Fin 4, s.debug[p].ctl = 0) →
    (let m := s.capTicks ((s.die d).ticks k)
     s.expiring m = [] →
     ∃ t, s.elapse d k c n = t ∧ t.rtime = s.rtime + BitVec.ofNat 64 m ∧ t.mem = s.mem ∧ t.lines = s.lines ∧ t.poison = s.poison ∧
       (∀ e : Fin 4, t.dies[e].cur = s.dies[e].cur ∧
         t.dies[e].cycr = s.dies[e].cycr + BitVec.ofNat 64 (s.dies[e].cycles m) ∧
         t.dies[e].acc = s.dies[e].acc + BitVec.ofNat 80 (s.dies[e].cycles m * s.dies[e].increment) ∧
         (s.dies[e].busy = false → s.dies[e].failed = false →
           1000 * s.dies[e].cycles m + t.dies[e].phase = s.dies[e].phase + m * (800 + 100 * s.dies[e].cur))) ∧
       (t.me = { s.me with grun := t.me.grun, wdogv := t.me.wdogv }) ∧
       (s.me.bundle ≠ 0 → s.me.switchedOut = false → t.me.grun = s.me.grun + BitVec.ofNat 64 m) ∧
       (s.me.bundle = 0 ∨ s.me.switchedOut = true → t.me = s.me))

/-- AN INVARIANT OF EVERY STEP: memory keeps its one canonical form, addresses strictly ascending and no zero byte listed (R219, log 14). -/
def Obligations.StepKeepsMemory : Prop := ∀ s t : State, s.memOk → step s = .next t → t.memOk

/-- The machine after a start: RTIME, CYCR and CYCN 0, device memory zero and without poison, no party, bundle, job, line or monitor held, every
command queue disabled and empty with LOG2N 4, each die at its initial index, debug off, and START at its end without failure; its memory has
the canonical form (R303, R304, R306, R318, R400, R414-R417). -/
def Obligations.ResetState : Prop :=
  State.reset.memOk ∧ State.reset.rtime = 0 ∧ (∀ a, State.reset.byte a = 0) ∧ State.reset.poison = [] ∧
  State.reset.me.live = 0 ∧ State.reset.others = [] ∧ State.reset.crews = [] ∧ State.reset.bundles = [] ∧ State.reset.jobs = [] ∧
  State.reset.lines = [] ∧ State.reset.records = [] ∧ State.reset.agenda = [] ∧
  (∀ q, (State.reset.queue q).enable = false ∧ (State.reset.queue q).head = 0 ∧ (State.reset.queue q).tail = 0 ∧
    (State.reset.queue q).log2n = 4 ∧ (State.reset.queue q).qerr = 0) ∧
  (∀ d : Fin 4, State.reset.dies[d].cur = 8 ∧ State.reset.dies[d].cycr = 0 ∧ State.reset.dies[d].acc = 0 ∧ State.reset.dies[d].busy = false ∧
    State.reset.dies[d].failed = false) ∧
  (∀ p : Fin 4, State.reset.debug[p].ctl = 0 ∧ State.reset.parts[p].chkmode = 0 ∧ State.reset.parts[p].chkhz = 0) ∧
  State.reset.start.step = 0xFF ∧ State.reset.start.force = false ∧ State.reset.start.running = false ∧ State.reset.start.reason = 0 ∧
  State.reset.spaces = [] ∧ State.reset.mailbox.busy = false ∧ State.reset.mailbox.seq = 0


end
end

