-- ==== Sys2Proof/Laws/Act.lean ====
section
/-! SUPPORT. How the pieces of a word's body run, and the course of a word from its body (R56, R80, R377). -/

namespace Sys2Proof.Machine

open Sys2Proof

variable {α β : Type}

@[simp] theorem act_pure (a : α) (s : State) : (pure a : Act α) s = .ok (a, s) := rfl

theorem act_bind (x : Act α) (f : α → Act β) (s : State) :
    (x >>= f) s = match x s with | .ok (a, t) => f a t | .error e => .error e := by
  show (StateT.bind x f) s = _
  unfold StateT.bind
  show (Except.bind (x s) _) = _
  cases x s <;> rfl

/-- A body goes on after a part that succeeds. -/
theorem act_bind_ok {x : Act α} {a : α} {s t : State} (h : x s = .ok (a, t)) (f : α → Act β) : (x >>= f) s = f a t := by
  rw [act_bind, h]

/-- A body stops with a part that stops. -/
theorem act_bind_error {x : Act α} {e : Stop} {s : State} (h : x s = .error e) (f : α → Act β) :
    (x >>= f) s = .error e := by
  rw [act_bind, h]

@[simp] theorem act_get (s : State) : (get : Act State) s = .ok (s, s) := rfl
@[simp] theorem act_set (t s : State) : (set t : Act PUnit) s = .ok (⟨⟩, t) := rfl
@[simp] theorem act_change (f : State → State) (s : State) : change f s = .ok ((), f s) := rfl
@[simp] theorem act_changeMe (f : Party → Party) (s : State) : changeMe f s = .ok ((), s.setMe (f s.me)) := rfl
@[simp] theorem act_raise (c : Cause) (s : State) : (raise c : Act α) s = .error (.cause c) := rfl
@[simp] theorem act_hold (s : State) : (hold : Act α) s = .error .hold := rfl
@[simp] theorem act_check_true (r : Cause) : check true r = pure () := rfl
@[simp] theorem act_check_false (r : Cause) : check false r = raise r := rfl
@[simp] theorem act_wait_true : waitFor true = pure () := rfl
@[simp] theorem act_wait_false : waitFor false = hold := rfl

theorem act_check {c : Bool} (h : c = true) (r : Cause) : check c r = pure () := by subst h; rfl
theorem act_wait {c : Bool} (h : c = true) : waitFor c = pure () := by subst h; rfl

/-- A word whose body succeeds without entering a wait is performed, and the word after it is next. -/
theorem word_next {sw : Bool} {len : Nat} {body : Act Unit} {s t : State} (hr : s.canRun sw len = true)
    (hb : body s.begun = .ok ((), t)) (hw : t.me.port.wait = none) : word sw len body s = .next (t.retire len) := by
  unfold State.canRun at hr
  simp only [Bool.and_eq_true, Bool.not_eq_true'] at hr
  obtain ⟨⟨h1, h2⟩, h3⟩ := hr
  unfold word
  rw [h1, h2, h3]
  simp only [Bool.or_self, Bool.false_eq_true, if_false]
  have : body (s.setMe { s.me with atPoint := false }) = .ok ((), t) := hb
  rw [this]
  simp [hw]

/-- A word whose body enters a wait stays at its port. -/
theorem word_waits {sw : Bool} {len : Nat} {body : Act Unit} {s t : State} (hr : s.canRun sw len = true)
    (hb : body s.begun = .ok ((), t)) (hw : t.me.port.wait.isSome = true) :
    word sw len body s = .next (State.deliverAsync { t with fresh := t.fresh + 1 }) := by
  unfold State.canRun at hr
  simp only [Bool.and_eq_true, Bool.not_eq_true'] at hr
  obtain ⟨⟨h1, h2⟩, h3⟩ := hr
  unfold word
  rw [h1, h2, h3]
  simp only [Bool.or_self, Bool.false_eq_true, if_false]
  have : body (s.setMe { s.me with atPoint := false }) = .ok ((), t) := hb
  rw [this]
  simp [hw]

/-- A word whose body stops takes its stop: nothing of the body remains. -/
theorem word_stops {sw : Bool} {len : Nat} {body : Act Unit} {s : State} {e : Stop} (hr : s.canRun sw len = true)
    (hb : body s.begun = .error e) : word sw len body s = .next (s.stopWord e) := by
  unfold State.canRun at hr
  simp only [Bool.and_eq_true, Bool.not_eq_true'] at hr
  obtain ⟨⟨h1, h2⟩, h3⟩ := hr
  unfold word
  rw [h1, h2, h3]
  simp only [Bool.or_self, Bool.false_eq_true, if_false]
  have : body (s.setMe { s.me with atPoint := false }) = .error e := hb
  rw [this]

/-- Whatever its body does, a word answers a next state. -/
theorem word_total (sw : Bool) (len : Nat) (body : Act Unit) (s : State) : ∃ t, word sw len body s = .next t := by
  unfold word
  split
  · exact ⟨_, rfl⟩
  · split
    · exact ⟨_, rfl⟩
    · split
      · split <;> exact ⟨_, rfl⟩
      · exact ⟨_, rfl⟩

/-- A word that can run is not waiting. -/
theorem wait_none_of_canRun {s : State} {sw : Bool} {len : Nat} (hr : s.canRun sw len = true) : s.me.port.wait = none := by
  unfold State.canRun Party.blocked at hr
  cases h : s.me.port.wait with
  | none => rfl
  | some w => simp [h] at hr

end Sys2Proof.Machine
end

