-- ==== Sys2Proof/Laws/Memory.lean ====
section
/-! SUPPORT. Tables read back what was set, and keep their keys ascending; every write of memory keeps its canonical form (R219, log 14). -/

namespace Sys2Proof.Machine

open Sys2Proof

variable {α : Type}

/-- A table reads back what was set. -/
@[simp] theorem tbl_get_set_self (t : Tbl α) (k : Nat) (v : α) : Tbl.get (Tbl.set t k v) k = some v := by
  induction t with
  | nil => simp [Tbl.set, Tbl.get]
  | cons x r ih =>
    obtain ⟨j, y⟩ := x
    simp only [Tbl.set]
    split
    · simp [Tbl.get]
    · split
      · simp [Tbl.get]
      · rename_i h1 h2
        simp only [Tbl.get, h2, h1, if_false]
        exact ih

/-- Setting one key leaves every other. -/
theorem tbl_get_set_ne (t : Tbl α) {k n : Nat} (v : α) (h : n ≠ k) : Tbl.get (Tbl.set t k v) n = Tbl.get t n := by
  induction t with
  | nil =>
    have : k ≠ n := fun e => h e.symm
    simp [Tbl.set, Tbl.get, this]
  | cons x r ih =>
    obtain ⟨j, y⟩ := x
    have hk : k ≠ n := fun e => h e.symm
    simp only [Tbl.set]
    split
    · rename_i h1
      simp only [Tbl.get, hk, if_false]
      split
      · have h2 : j ≠ n := by omega
        have h3 : n < j := by omega
        simp [h2, h3]
      · rfl
    · split
      · rename_i h1 h2
        subst h2
        simp [Tbl.get, hk]
      · simp only [Tbl.get, ih]

/-- A default is read where nothing is set. -/
@[simp] theorem tbl_getD_set_self (t : Tbl α) (k : Nat) (v d : α) : Tbl.getD (Tbl.set t k v) k d = v := by
  simp [Tbl.getD]

/-- Setting one key leaves every other, with a default. -/
theorem tbl_getD_set_ne (t : Tbl α) {k n : Nat} (v d : α) (h : n ≠ k) : Tbl.getD (Tbl.set t k v) n d = Tbl.getD t n d := by
  simp [Tbl.getD, tbl_get_set_ne t v h]

/-- The head of a sorted table is below the rest. -/
theorem tbl_sorted_cons {j : Nat} {x : α} {r : Tbl α} (h : Tbl.sorted ((j, x) :: r) = true) :
    Tbl.sorted r = true ∧ ∀ y ∈ r, j < y.1 := by
  induction r generalizing j x with
  | nil => simp [Tbl.sorted]
  | cons y r ih =>
    obtain ⟨k, z⟩ := y
    simp only [Tbl.sorted, Bool.and_eq_true, decide_eq_true_eq] at h
    refine ⟨h.2, ?_⟩
    intro w hw
    rcases List.mem_cons.1 hw with rfl | hw
    · exact h.1
    · exact Nat.lt_trans h.1 ((ih h.2).2 w hw)

/-- A table is sorted when its head is below the rest. -/
theorem tbl_sorted_of {j : Nat} {x : α} {r : Tbl α} (h : Tbl.sorted r = true) (hb : ∀ y ∈ r, j < y.1) :
    Tbl.sorted ((j, x) :: r) = true := by
  cases r with
  | nil => rfl
  | cons y r => obtain ⟨k, z⟩ := y; simp only [Tbl.sorted, Bool.and_eq_true, decide_eq_true_eq]; exact ⟨hb (k, z) (by simp), h⟩

/-- Entries of a table after a set. -/
theorem tbl_mem_set {t : Tbl α} {k : Nat} {v : α} {x : Nat × α} (h : x ∈ Tbl.set t k v) : x = (k, v) ∨ x ∈ t := by
  induction t with
  | nil => simpa [Tbl.set] using h
  | cons y r ih =>
    obtain ⟨j, z⟩ := y
    simp only [Tbl.set] at h
    split at h
    · rcases List.mem_cons.1 h with h | h
      · exact .inl h
      · exact .inr h
    · split at h
      · rcases List.mem_cons.1 h with h | h
        · exact .inl h
        · exact .inr (List.mem_cons_of_mem _ h)
      · rcases List.mem_cons.1 h with h | h
        · exact .inr (h ▸ List.mem_cons_self)
        · rcases ih h with h | h
          · exact .inl h
          · exact .inr (List.mem_cons_of_mem _ h)

/-- Entries of a table after an erase. -/
theorem tbl_mem_erase {t : Tbl α} {k : Nat} {x : Nat × α} (h : x ∈ Tbl.erase t k) : x ∈ t := by
  induction t with
  | nil => simp [Tbl.erase] at h
  | cons y r ih =>
    obtain ⟨j, z⟩ := y
    simp only [Tbl.erase] at h
    split at h
    · exact h
    · split at h
      · exact List.mem_cons_of_mem _ h
      · rcases List.mem_cons.1 h with h | h
        · exact h ▸ List.mem_cons_self
        · exact List.mem_cons_of_mem _ (ih h)

/-- Setting keeps keys ascending. -/
theorem tbl_sorted_set {t : Tbl α} (k : Nat) (v : α) (h : Tbl.sorted t = true) : Tbl.sorted (Tbl.set t k v) = true := by
  induction t with
  | nil => rfl
  | cons y r ih =>
    obtain ⟨j, z⟩ := y
    obtain ⟨hr, hb⟩ := tbl_sorted_cons h
    simp only [Tbl.set]
    split
    · rename_i h1
      refine tbl_sorted_of h ?_
      intro w hw
      rcases List.mem_cons.1 hw with rfl | hw
      · exact h1
      · exact Nat.lt_trans h1 (hb w hw)
    · split
      · rename_i h1 h2
        subst h2
        exact tbl_sorted_of hr hb
      · rename_i h1 h2
        refine tbl_sorted_of (ih hr) ?_
        intro w hw
        rcases tbl_mem_set hw with rfl | hw
        · show j < k; omega
        · exact hb w hw

/-- Erasing keeps keys ascending. -/
theorem tbl_sorted_erase {t : Tbl α} (k : Nat) (h : Tbl.sorted t = true) : Tbl.sorted (Tbl.erase t k) = true := by
  induction t with
  | nil => rfl
  | cons y r ih =>
    obtain ⟨j, z⟩ := y
    obtain ⟨hr, hb⟩ := tbl_sorted_cons h
    simp only [Tbl.erase]
    split
    · exact h
    · split
      · exact hr
      · exact tbl_sorted_of (ih hr) fun w hw => hb w (tbl_mem_erase hw)

/-- One byte written keeps the canonical form. -/
theorem memSet_wf {m : List Host.Cell} (a : Nat) (b : Byte) (h : Memory.wf m) : Memory.wf (memSet m a b) := by
  obtain ⟨hs, ha⟩ := h
  rw [List.all_eq_true] at ha
  unfold memSet
  split
  · exact ⟨tbl_sorted_erase a hs, List.all_eq_true.2 fun x hx => ha x (tbl_mem_erase hx)⟩
  · rename_i hb
    refine ⟨tbl_sorted_set a b hs, List.all_eq_true.2 fun x hx => ?_⟩
    rcases tbl_mem_set hx with rfl | hx
    · simpa using hb
    · exact ha x hx

/-- Bytes written keep the canonical form. -/
theorem memSets_wf {m : List Host.Cell} (a : Nat) (bs : List Byte) (h : Memory.wf m) : Memory.wf (memSets m a bs) := by
  induction bs generalizing m a with
  | nil => exact h
  | cons b r ih => exact ih (a + 1) (memSet_wf a b h)

/-- Dropping entries keeps the canonical form. -/
theorem filter_wf {m : List Host.Cell} (f : Host.Cell → Bool) (h : Memory.wf m) : Memory.wf (m.filter f) := by
  obtain ⟨hs, ha⟩ := h
  rw [List.all_eq_true] at ha
  refine ⟨?_, List.all_eq_true.2 fun x hx => ha x (List.mem_filter.1 hx).1⟩
  clear ha
  induction m with
  | nil => rfl
  | cons x r ih =>
    obtain ⟨j, y⟩ := x
    obtain ⟨hr, hb⟩ := tbl_sorted_cons hs
    rw [List.filter_cons]
    split
    · exact tbl_sorted_of (ih hr) fun w hw => hb w (List.mem_filter.1 hw).1
    · exact ih hr

/-- Writing a byte and reading it back (R219). -/
theorem memSet_read_self {m : List Host.Cell} (a : Nat) (b : Byte) (h : Memory.wf m) :
    Tbl.getD (memSet m a b) a emptyByte = b := by
  unfold memSet
  split
  · rename_i hb
    subst hb
    have : ∀ t : Tbl Byte, Tbl.sorted t = true → Tbl.getD (Tbl.erase t a) a emptyByte = emptyByte := by
      intro t ht
      induction t with
      | nil => rfl
      | cons x r ih =>
        obtain ⟨j, y⟩ := x
        obtain ⟨hr, hbb⟩ := tbl_sorted_cons ht
        simp only [Tbl.erase]
        split
        · rename_i h1
          have h2 : j ≠ a := by omega
          simp [Tbl.getD, Tbl.get, h1, h2]
        · split
          · rename_i h1 h2
            subst h2
            cases r with
            | nil => rfl
            | cons w r =>
              obtain ⟨k, z⟩ := w
              have h3 : j < k := hbb (k, z) (by simp)
              have h4 : k ≠ j := by omega
              simp [Tbl.getD, Tbl.get, h3, h4]
          · rename_i h1 h2
            have := ih hr
            simp only [Tbl.getD, Tbl.get, h2, h1, if_false] at this ⊢
            exact this
    exact this m h.1
  · simp

/-- A key below every entry of a table reads as nothing. -/
theorem tbl_get_below {t : Tbl α} {n : Nat} (hs : Tbl.sorted t = true) (hb : ∀ y ∈ t, n < y.1) : Tbl.get t n = none := by
  cases t with
  | nil => rfl
  | cons w r =>
    obtain ⟨j, z⟩ := w
    have h3 : n < j := hb (j, z) (by simp)
    have h4 : j ≠ n := by omega
    simp [Tbl.get, h3, h4]

/-- Erasing one key leaves every other. -/
theorem tbl_get_erase_ne {t : Tbl α} {k n : Nat} (hs : Tbl.sorted t = true) (h : n ≠ k) :
    Tbl.get (Tbl.erase t k) n = Tbl.get t n := by
  induction t with
  | nil => rfl
  | cons x r ih =>
    obtain ⟨j, y⟩ := x
    obtain ⟨hr, hb⟩ := tbl_sorted_cons hs
    simp only [Tbl.erase]
    split
    · rfl
    · split
      · rename_i h1 h2
        subst h2
        have h3 : j ≠ n := fun e => h e.symm
        simp only [Tbl.get, h3, if_false]
        split
        · rename_i h4
          exact tbl_get_below hr fun w hw => Nat.lt_trans h4 (hb w hw)
        · rfl
      · simp only [Tbl.get, ih hr]

/-- Writing a byte leaves every other one (R219). -/
theorem memSet_read_ne {m : List Host.Cell} {a n : Nat} (b : Byte) (h : Memory.wf m) (hn : n ≠ a) :
    Tbl.getD (memSet m a b) n emptyByte = Tbl.getD m n emptyByte := by
  unfold memSet
  split
  · simp only [Tbl.getD, tbl_get_erase_ne h.1 hn]
  · exact tbl_getD_set_ne m b emptyByte hn

/-- Writing bytes leaves every byte outside them (R219). -/
theorem memSets_read_outside {m : List Host.Cell} (a : Nat) (bs : List Byte) {n : Nat} (h : Memory.wf m)
    (hn : n < a ∨ a + bs.length ≤ n) : Tbl.getD (memSets m a bs) n emptyByte = Tbl.getD m n emptyByte := by
  induction bs generalizing m a with
  | nil => rfl
  | cons b r ih =>
    simp only [List.length_cons] at hn
    rw [memSets, ih (a + 1) (memSet_wf a b h) (by omega), memSet_read_ne b h (by omega)]

/-- Written bytes read back (R219). -/
theorem memSets_read_inside {m : List Host.Cell} (a : Nat) (bs : List Byte) {k : Nat} (h : Memory.wf m) (hk : k < bs.length) :
    Tbl.getD (memSets m a bs) (a + k) emptyByte = bs[k] := by
  induction bs generalizing m a k with
  | nil => simp at hk
  | cons b r ih =>
    rw [memSets]
    cases k with
    | zero =>
      rw [memSets_read_outside (a + 1) r (memSet_wf a b h) (by omega)]
      simpa using memSet_read_self a b h
    | succ k =>
      have := ih (a + 1) (memSet_wf a b h) (k := k) (by simpa using hk)
      simpa [Nat.add_assoc, Nat.add_comm 1 k] using this

/-- Memory at reset lists nothing. -/
theorem reset_memOk : State.reset.memOk := ⟨rfl, rfl⟩

end Sys2Proof.Machine
end

