-- ==== Sys2Proof/Laws/State.lean ====
section
/-! SUPPORT. What each named update of the state leaves and changes, one lemma per field, so that no proof unfolds a record update. -/

namespace Sys2Proof.Machine

open Sys2Proof


/-! ## State.setMe -/

@[simp] theorem State.setMe_me (s : State) (p : Party) : (s.setMe p).me = p := rfl
@[simp] theorem State.setMe_others (s : State) (p : Party) : (s.setMe p).others = s.others := rfl
@[simp] theorem State.setMe_slot (s : State) (p : Party) : (s.setMe p).slot = s.slot := rfl
@[simp] theorem State.setMe_picked (s : State) (p : Party) : (s.setMe p).picked = s.picked := rfl
@[simp] theorem State.setMe_agenda (s : State) (p : Party) : (s.setMe p).agenda = s.agenda := rfl
@[simp] theorem State.setMe_fresh (s : State) (p : Party) : (s.setMe p).fresh = s.fresh := rfl
@[simp] theorem State.setMe_rtime (s : State) (p : Party) : (s.setMe p).rtime = s.rtime := rfl
@[simp] theorem State.setMe_mem (s : State) (p : Party) : (s.setMe p).mem = s.mem := rfl
@[simp] theorem State.setMe_heldPeers (s : State) (p : Party) : (s.setMe p).heldPeers = s.heldPeers := rfl
@[simp] theorem State.setMe_poison (s : State) (p : Party) : (s.setMe p).poison = s.poison := rfl
@[simp] theorem State.setMe_lines (s : State) (p : Party) : (s.setMe p).lines = s.lines := rfl
@[simp] theorem State.setMe_records (s : State) (p : Party) : (s.setMe p).records = s.records := rfl
@[simp] theorem State.setMe_uses (s : State) (p : Party) : (s.setMe p).uses = s.uses := rfl
@[simp] theorem State.setMe_clocks (s : State) (p : Party) : (s.setMe p).clocks = s.clocks := rfl
@[simp] theorem State.setMe_dies (s : State) (p : Party) : (s.setMe p).dies = s.dies := rfl
@[simp] theorem State.setMe_cores (s : State) (p : Party) : (s.setMe p).cores = s.cores := rfl
@[simp] theorem State.setMe_clusters (s : State) (p : Party) : (s.setMe p).clusters = s.clusters := rfl
@[simp] theorem State.setMe_crews (s : State) (p : Party) : (s.setMe p).crews = s.crews := rfl
@[simp] theorem State.setMe_bundles (s : State) (p : Party) : (s.setMe p).bundles = s.bundles := rfl
@[simp] theorem State.setMe_jobs (s : State) (p : Party) : (s.setMe p).jobs = s.jobs := rfl
@[simp] theorem State.setMe_nextJob (s : State) (p : Party) : (s.setMe p).nextJob = s.nextJob := rfl
@[simp] theorem State.setMe_nextBundle (s : State) (p : Party) : (s.setMe p).nextBundle = s.nextBundle := rfl
@[simp] theorem State.setMe_queues (s : State) (p : Party) : (s.setMe p).queues = s.queues := rfl
@[simp] theorem State.setMe_vent (s : State) (p : Party) : (s.setMe p).vent = s.vent := rfl
@[simp] theorem State.setMe_spaces (s : State) (p : Party) : (s.setMe p).spaces = s.spaces := rfl
@[simp] theorem State.setMe_firmware (s : State) (p : Party) : (s.setMe p).firmware = s.firmware := rfl
@[simp] theorem State.setMe_reports (s : State) (p : Party) : (s.setMe p).reports = s.reports := rfl
@[simp] theorem State.setMe_parts (s : State) (p : Party) : (s.setMe p).parts = s.parts := rfl
@[simp] theorem State.setMe_kids (s : State) (p : Party) : (s.setMe p).kids = s.kids := rfl
@[simp] theorem State.setMe_nextGen (s : State) (p : Party) : (s.setMe p).nextGen = s.nextGen := rfl
@[simp] theorem State.setMe_held (s : State) (p : Party) : (s.setMe p).held = s.held := rfl
@[simp] theorem State.setMe_ports (s : State) (p : Party) : (s.setMe p).ports = s.ports := rfl
@[simp] theorem State.setMe_mailbox (s : State) (p : Party) : (s.setMe p).mailbox = s.mailbox := rfl
@[simp] theorem State.setMe_security (s : State) (p : Party) : (s.setMe p).security = s.security := rfl
@[simp] theorem State.setMe_start (s : State) (p : Party) : (s.setMe p).start = s.start := rfl
@[simp] theorem State.setMe_debug (s : State) (p : Party) : (s.setMe p).debug = s.debug := rfl
@[simp] theorem State.setMe_traceSeqs (s : State) (p : Party) : (s.setMe p).traceSeqs = s.traceSeqs := rfl
@[simp] theorem State.setMe_trail (s : State) (p : Party) : (s.setMe p).trail = s.trail := rfl

/-! ## State.changeCore -/

@[simp] theorem State.changeCore_me (s : State) (n : Nat) (f : Core → Core) : (s.changeCore n f).me = s.me := rfl
@[simp] theorem State.changeCore_others (s : State) (n : Nat) (f : Core → Core) : (s.changeCore n f).others = s.others := rfl
@[simp] theorem State.changeCore_slot (s : State) (n : Nat) (f : Core → Core) : (s.changeCore n f).slot = s.slot := rfl
@[simp] theorem State.changeCore_picked (s : State) (n : Nat) (f : Core → Core) : (s.changeCore n f).picked = s.picked := rfl
@[simp] theorem State.changeCore_agenda (s : State) (n : Nat) (f : Core → Core) : (s.changeCore n f).agenda = s.agenda := rfl
@[simp] theorem State.changeCore_fresh (s : State) (n : Nat) (f : Core → Core) : (s.changeCore n f).fresh = s.fresh := rfl
@[simp] theorem State.changeCore_rtime (s : State) (n : Nat) (f : Core → Core) : (s.changeCore n f).rtime = s.rtime := rfl
@[simp] theorem State.changeCore_mem (s : State) (n : Nat) (f : Core → Core) : (s.changeCore n f).mem = s.mem := rfl
@[simp] theorem State.changeCore_heldPeers (s : State) (n : Nat) (f : Core → Core) : (s.changeCore n f).heldPeers = s.heldPeers := rfl
@[simp] theorem State.changeCore_poison (s : State) (n : Nat) (f : Core → Core) : (s.changeCore n f).poison = s.poison := rfl
@[simp] theorem State.changeCore_lines (s : State) (n : Nat) (f : Core → Core) : (s.changeCore n f).lines = s.lines := rfl
@[simp] theorem State.changeCore_records (s : State) (n : Nat) (f : Core → Core) : (s.changeCore n f).records = s.records := rfl
@[simp] theorem State.changeCore_uses (s : State) (n : Nat) (f : Core → Core) : (s.changeCore n f).uses = s.uses := rfl
@[simp] theorem State.changeCore_clocks (s : State) (n : Nat) (f : Core → Core) : (s.changeCore n f).clocks = s.clocks := rfl
@[simp] theorem State.changeCore_dies (s : State) (n : Nat) (f : Core → Core) : (s.changeCore n f).dies = s.dies := rfl
@[simp] theorem State.changeCore_cores (s : State) (n : Nat) (f : Core → Core) : (s.changeCore n f).cores = Tbl.set s.cores n (f (s.core n)) := rfl
@[simp] theorem State.changeCore_clusters (s : State) (n : Nat) (f : Core → Core) : (s.changeCore n f).clusters = s.clusters := rfl
@[simp] theorem State.changeCore_crews (s : State) (n : Nat) (f : Core → Core) : (s.changeCore n f).crews = s.crews := rfl
@[simp] theorem State.changeCore_bundles (s : State) (n : Nat) (f : Core → Core) : (s.changeCore n f).bundles = s.bundles := rfl
@[simp] theorem State.changeCore_jobs (s : State) (n : Nat) (f : Core → Core) : (s.changeCore n f).jobs = s.jobs := rfl
@[simp] theorem State.changeCore_nextJob (s : State) (n : Nat) (f : Core → Core) : (s.changeCore n f).nextJob = s.nextJob := rfl
@[simp] theorem State.changeCore_nextBundle (s : State) (n : Nat) (f : Core → Core) : (s.changeCore n f).nextBundle = s.nextBundle := rfl
@[simp] theorem State.changeCore_queues (s : State) (n : Nat) (f : Core → Core) : (s.changeCore n f).queues = s.queues := rfl
@[simp] theorem State.changeCore_vent (s : State) (n : Nat) (f : Core → Core) : (s.changeCore n f).vent = s.vent := rfl
@[simp] theorem State.changeCore_spaces (s : State) (n : Nat) (f : Core → Core) : (s.changeCore n f).spaces = s.spaces := rfl
@[simp] theorem State.changeCore_firmware (s : State) (n : Nat) (f : Core → Core) : (s.changeCore n f).firmware = s.firmware := rfl
@[simp] theorem State.changeCore_reports (s : State) (n : Nat) (f : Core → Core) : (s.changeCore n f).reports = s.reports := rfl
@[simp] theorem State.changeCore_parts (s : State) (n : Nat) (f : Core → Core) : (s.changeCore n f).parts = s.parts := rfl
@[simp] theorem State.changeCore_kids (s : State) (n : Nat) (f : Core → Core) : (s.changeCore n f).kids = s.kids := rfl
@[simp] theorem State.changeCore_nextGen (s : State) (n : Nat) (f : Core → Core) : (s.changeCore n f).nextGen = s.nextGen := rfl
@[simp] theorem State.changeCore_held (s : State) (n : Nat) (f : Core → Core) : (s.changeCore n f).held = s.held := rfl
@[simp] theorem State.changeCore_ports (s : State) (n : Nat) (f : Core → Core) : (s.changeCore n f).ports = s.ports := rfl
@[simp] theorem State.changeCore_mailbox (s : State) (n : Nat) (f : Core → Core) : (s.changeCore n f).mailbox = s.mailbox := rfl
@[simp] theorem State.changeCore_security (s : State) (n : Nat) (f : Core → Core) : (s.changeCore n f).security = s.security := rfl
@[simp] theorem State.changeCore_start (s : State) (n : Nat) (f : Core → Core) : (s.changeCore n f).start = s.start := rfl
@[simp] theorem State.changeCore_debug (s : State) (n : Nat) (f : Core → Core) : (s.changeCore n f).debug = s.debug := rfl
@[simp] theorem State.changeCore_traceSeqs (s : State) (n : Nat) (f : Core → Core) : (s.changeCore n f).traceSeqs = s.traceSeqs := rfl
@[simp] theorem State.changeCore_trail (s : State) (n : Nat) (f : Core → Core) : (s.changeCore n f).trail = s.trail := rfl

/-! ## State.changeCluster -/

@[simp] theorem State.changeCluster_me (s : State) (c : Nat) (f : Cluster → Cluster) : (s.changeCluster c f).me = s.me := rfl
@[simp] theorem State.changeCluster_others (s : State) (c : Nat) (f : Cluster → Cluster) : (s.changeCluster c f).others = s.others := rfl
@[simp] theorem State.changeCluster_slot (s : State) (c : Nat) (f : Cluster → Cluster) : (s.changeCluster c f).slot = s.slot := rfl
@[simp] theorem State.changeCluster_picked (s : State) (c : Nat) (f : Cluster → Cluster) : (s.changeCluster c f).picked = s.picked := rfl
@[simp] theorem State.changeCluster_agenda (s : State) (c : Nat) (f : Cluster → Cluster) : (s.changeCluster c f).agenda = s.agenda := rfl
@[simp] theorem State.changeCluster_fresh (s : State) (c : Nat) (f : Cluster → Cluster) : (s.changeCluster c f).fresh = s.fresh := rfl
@[simp] theorem State.changeCluster_rtime (s : State) (c : Nat) (f : Cluster → Cluster) : (s.changeCluster c f).rtime = s.rtime := rfl
@[simp] theorem State.changeCluster_mem (s : State) (c : Nat) (f : Cluster → Cluster) : (s.changeCluster c f).mem = s.mem := rfl
@[simp] theorem State.changeCluster_heldPeers (s : State) (c : Nat) (f : Cluster → Cluster) : (s.changeCluster c f).heldPeers = s.heldPeers := rfl
@[simp] theorem State.changeCluster_poison (s : State) (c : Nat) (f : Cluster → Cluster) : (s.changeCluster c f).poison = s.poison := rfl
@[simp] theorem State.changeCluster_lines (s : State) (c : Nat) (f : Cluster → Cluster) : (s.changeCluster c f).lines = s.lines := rfl
@[simp] theorem State.changeCluster_records (s : State) (c : Nat) (f : Cluster → Cluster) : (s.changeCluster c f).records = s.records := rfl
@[simp] theorem State.changeCluster_uses (s : State) (c : Nat) (f : Cluster → Cluster) : (s.changeCluster c f).uses = s.uses := rfl
@[simp] theorem State.changeCluster_clocks (s : State) (c : Nat) (f : Cluster → Cluster) : (s.changeCluster c f).clocks = s.clocks := rfl
@[simp] theorem State.changeCluster_dies (s : State) (c : Nat) (f : Cluster → Cluster) : (s.changeCluster c f).dies = s.dies := rfl
@[simp] theorem State.changeCluster_cores (s : State) (c : Nat) (f : Cluster → Cluster) : (s.changeCluster c f).cores = s.cores := rfl
@[simp] theorem State.changeCluster_clusters (s : State) (c : Nat) (f : Cluster → Cluster) : (s.changeCluster c f).clusters = Tbl.set s.clusters c (f (s.cluster c)) := rfl
@[simp] theorem State.changeCluster_crews (s : State) (c : Nat) (f : Cluster → Cluster) : (s.changeCluster c f).crews = s.crews := rfl
@[simp] theorem State.changeCluster_bundles (s : State) (c : Nat) (f : Cluster → Cluster) : (s.changeCluster c f).bundles = s.bundles := rfl
@[simp] theorem State.changeCluster_jobs (s : State) (c : Nat) (f : Cluster → Cluster) : (s.changeCluster c f).jobs = s.jobs := rfl
@[simp] theorem State.changeCluster_nextJob (s : State) (c : Nat) (f : Cluster → Cluster) : (s.changeCluster c f).nextJob = s.nextJob := rfl
@[simp] theorem State.changeCluster_nextBundle (s : State) (c : Nat) (f : Cluster → Cluster) : (s.changeCluster c f).nextBundle = s.nextBundle := rfl
@[simp] theorem State.changeCluster_queues (s : State) (c : Nat) (f : Cluster → Cluster) : (s.changeCluster c f).queues = s.queues := rfl
@[simp] theorem State.changeCluster_vent (s : State) (c : Nat) (f : Cluster → Cluster) : (s.changeCluster c f).vent = s.vent := rfl
@[simp] theorem State.changeCluster_spaces (s : State) (c : Nat) (f : Cluster → Cluster) : (s.changeCluster c f).spaces = s.spaces := rfl
@[simp] theorem State.changeCluster_firmware (s : State) (c : Nat) (f : Cluster → Cluster) : (s.changeCluster c f).firmware = s.firmware := rfl
@[simp] theorem State.changeCluster_reports (s : State) (c : Nat) (f : Cluster → Cluster) : (s.changeCluster c f).reports = s.reports := rfl
@[simp] theorem State.changeCluster_parts (s : State) (c : Nat) (f : Cluster → Cluster) : (s.changeCluster c f).parts = s.parts := rfl
@[simp] theorem State.changeCluster_kids (s : State) (c : Nat) (f : Cluster → Cluster) : (s.changeCluster c f).kids = s.kids := rfl
@[simp] theorem State.changeCluster_nextGen (s : State) (c : Nat) (f : Cluster → Cluster) : (s.changeCluster c f).nextGen = s.nextGen := rfl
@[simp] theorem State.changeCluster_held (s : State) (c : Nat) (f : Cluster → Cluster) : (s.changeCluster c f).held = s.held := rfl
@[simp] theorem State.changeCluster_ports (s : State) (c : Nat) (f : Cluster → Cluster) : (s.changeCluster c f).ports = s.ports := rfl
@[simp] theorem State.changeCluster_mailbox (s : State) (c : Nat) (f : Cluster → Cluster) : (s.changeCluster c f).mailbox = s.mailbox := rfl
@[simp] theorem State.changeCluster_security (s : State) (c : Nat) (f : Cluster → Cluster) : (s.changeCluster c f).security = s.security := rfl
@[simp] theorem State.changeCluster_start (s : State) (c : Nat) (f : Cluster → Cluster) : (s.changeCluster c f).start = s.start := rfl
@[simp] theorem State.changeCluster_debug (s : State) (c : Nat) (f : Cluster → Cluster) : (s.changeCluster c f).debug = s.debug := rfl
@[simp] theorem State.changeCluster_traceSeqs (s : State) (c : Nat) (f : Cluster → Cluster) : (s.changeCluster c f).traceSeqs = s.traceSeqs := rfl
@[simp] theorem State.changeCluster_trail (s : State) (c : Nat) (f : Cluster → Cluster) : (s.changeCluster c f).trail = s.trail := rfl

/-! ## State.changeBundle -/

@[simp] theorem State.changeBundle_me (s : State) (b : Nat) (f : Bundle → Bundle) : (s.changeBundle b f).me = s.me := rfl
@[simp] theorem State.changeBundle_others (s : State) (b : Nat) (f : Bundle → Bundle) : (s.changeBundle b f).others = s.others := rfl
@[simp] theorem State.changeBundle_slot (s : State) (b : Nat) (f : Bundle → Bundle) : (s.changeBundle b f).slot = s.slot := rfl
@[simp] theorem State.changeBundle_picked (s : State) (b : Nat) (f : Bundle → Bundle) : (s.changeBundle b f).picked = s.picked := rfl
@[simp] theorem State.changeBundle_agenda (s : State) (b : Nat) (f : Bundle → Bundle) : (s.changeBundle b f).agenda = s.agenda := rfl
@[simp] theorem State.changeBundle_fresh (s : State) (b : Nat) (f : Bundle → Bundle) : (s.changeBundle b f).fresh = s.fresh := rfl
@[simp] theorem State.changeBundle_rtime (s : State) (b : Nat) (f : Bundle → Bundle) : (s.changeBundle b f).rtime = s.rtime := rfl
@[simp] theorem State.changeBundle_mem (s : State) (b : Nat) (f : Bundle → Bundle) : (s.changeBundle b f).mem = s.mem := rfl
@[simp] theorem State.changeBundle_heldPeers (s : State) (b : Nat) (f : Bundle → Bundle) : (s.changeBundle b f).heldPeers = s.heldPeers := rfl
@[simp] theorem State.changeBundle_poison (s : State) (b : Nat) (f : Bundle → Bundle) : (s.changeBundle b f).poison = s.poison := rfl
@[simp] theorem State.changeBundle_lines (s : State) (b : Nat) (f : Bundle → Bundle) : (s.changeBundle b f).lines = s.lines := rfl
@[simp] theorem State.changeBundle_records (s : State) (b : Nat) (f : Bundle → Bundle) : (s.changeBundle b f).records = s.records := rfl
@[simp] theorem State.changeBundle_uses (s : State) (b : Nat) (f : Bundle → Bundle) : (s.changeBundle b f).uses = s.uses := rfl
@[simp] theorem State.changeBundle_clocks (s : State) (b : Nat) (f : Bundle → Bundle) : (s.changeBundle b f).clocks = s.clocks := rfl
@[simp] theorem State.changeBundle_dies (s : State) (b : Nat) (f : Bundle → Bundle) : (s.changeBundle b f).dies = s.dies := rfl
@[simp] theorem State.changeBundle_cores (s : State) (b : Nat) (f : Bundle → Bundle) : (s.changeBundle b f).cores = s.cores := rfl
@[simp] theorem State.changeBundle_clusters (s : State) (b : Nat) (f : Bundle → Bundle) : (s.changeBundle b f).clusters = s.clusters := rfl
@[simp] theorem State.changeBundle_crews (s : State) (b : Nat) (f : Bundle → Bundle) : (s.changeBundle b f).crews = s.crews := rfl
@[simp] theorem State.changeBundle_bundles (s : State) (b : Nat) (f : Bundle → Bundle) : (s.changeBundle b f).bundles = updateFirst (·.id == b) f s.bundles := rfl
@[simp] theorem State.changeBundle_jobs (s : State) (b : Nat) (f : Bundle → Bundle) : (s.changeBundle b f).jobs = s.jobs := rfl
@[simp] theorem State.changeBundle_nextJob (s : State) (b : Nat) (f : Bundle → Bundle) : (s.changeBundle b f).nextJob = s.nextJob := rfl
@[simp] theorem State.changeBundle_nextBundle (s : State) (b : Nat) (f : Bundle → Bundle) : (s.changeBundle b f).nextBundle = s.nextBundle := rfl
@[simp] theorem State.changeBundle_queues (s : State) (b : Nat) (f : Bundle → Bundle) : (s.changeBundle b f).queues = s.queues := rfl
@[simp] theorem State.changeBundle_vent (s : State) (b : Nat) (f : Bundle → Bundle) : (s.changeBundle b f).vent = s.vent := rfl
@[simp] theorem State.changeBundle_spaces (s : State) (b : Nat) (f : Bundle → Bundle) : (s.changeBundle b f).spaces = s.spaces := rfl
@[simp] theorem State.changeBundle_firmware (s : State) (b : Nat) (f : Bundle → Bundle) : (s.changeBundle b f).firmware = s.firmware := rfl
@[simp] theorem State.changeBundle_reports (s : State) (b : Nat) (f : Bundle → Bundle) : (s.changeBundle b f).reports = s.reports := rfl
@[simp] theorem State.changeBundle_parts (s : State) (b : Nat) (f : Bundle → Bundle) : (s.changeBundle b f).parts = s.parts := rfl
@[simp] theorem State.changeBundle_kids (s : State) (b : Nat) (f : Bundle → Bundle) : (s.changeBundle b f).kids = s.kids := rfl
@[simp] theorem State.changeBundle_nextGen (s : State) (b : Nat) (f : Bundle → Bundle) : (s.changeBundle b f).nextGen = s.nextGen := rfl
@[simp] theorem State.changeBundle_held (s : State) (b : Nat) (f : Bundle → Bundle) : (s.changeBundle b f).held = s.held := rfl
@[simp] theorem State.changeBundle_ports (s : State) (b : Nat) (f : Bundle → Bundle) : (s.changeBundle b f).ports = s.ports := rfl
@[simp] theorem State.changeBundle_mailbox (s : State) (b : Nat) (f : Bundle → Bundle) : (s.changeBundle b f).mailbox = s.mailbox := rfl
@[simp] theorem State.changeBundle_security (s : State) (b : Nat) (f : Bundle → Bundle) : (s.changeBundle b f).security = s.security := rfl
@[simp] theorem State.changeBundle_start (s : State) (b : Nat) (f : Bundle → Bundle) : (s.changeBundle b f).start = s.start := rfl
@[simp] theorem State.changeBundle_debug (s : State) (b : Nat) (f : Bundle → Bundle) : (s.changeBundle b f).debug = s.debug := rfl
@[simp] theorem State.changeBundle_traceSeqs (s : State) (b : Nat) (f : Bundle → Bundle) : (s.changeBundle b f).traceSeqs = s.traceSeqs := rfl
@[simp] theorem State.changeBundle_trail (s : State) (b : Nat) (f : Bundle → Bundle) : (s.changeBundle b f).trail = s.trail := rfl

/-! ## State.changeCrew -/

@[simp] theorem State.changeCrew_me (s : State) (p : Party) (f : Crew → Crew) : (s.changeCrew p f).me = s.me := rfl
@[simp] theorem State.changeCrew_others (s : State) (p : Party) (f : Crew → Crew) : (s.changeCrew p f).others = s.others := rfl
@[simp] theorem State.changeCrew_slot (s : State) (p : Party) (f : Crew → Crew) : (s.changeCrew p f).slot = s.slot := rfl
@[simp] theorem State.changeCrew_picked (s : State) (p : Party) (f : Crew → Crew) : (s.changeCrew p f).picked = s.picked := rfl
@[simp] theorem State.changeCrew_agenda (s : State) (p : Party) (f : Crew → Crew) : (s.changeCrew p f).agenda = s.agenda := rfl
@[simp] theorem State.changeCrew_fresh (s : State) (p : Party) (f : Crew → Crew) : (s.changeCrew p f).fresh = s.fresh := rfl
@[simp] theorem State.changeCrew_rtime (s : State) (p : Party) (f : Crew → Crew) : (s.changeCrew p f).rtime = s.rtime := rfl
@[simp] theorem State.changeCrew_mem (s : State) (p : Party) (f : Crew → Crew) : (s.changeCrew p f).mem = s.mem := rfl
@[simp] theorem State.changeCrew_heldPeers (s : State) (p : Party) (f : Crew → Crew) : (s.changeCrew p f).heldPeers = s.heldPeers := rfl
@[simp] theorem State.changeCrew_poison (s : State) (p : Party) (f : Crew → Crew) : (s.changeCrew p f).poison = s.poison := rfl
@[simp] theorem State.changeCrew_lines (s : State) (p : Party) (f : Crew → Crew) : (s.changeCrew p f).lines = s.lines := rfl
@[simp] theorem State.changeCrew_records (s : State) (p : Party) (f : Crew → Crew) : (s.changeCrew p f).records = s.records := rfl
@[simp] theorem State.changeCrew_uses (s : State) (p : Party) (f : Crew → Crew) : (s.changeCrew p f).uses = s.uses := rfl
@[simp] theorem State.changeCrew_clocks (s : State) (p : Party) (f : Crew → Crew) : (s.changeCrew p f).clocks = s.clocks := rfl
@[simp] theorem State.changeCrew_dies (s : State) (p : Party) (f : Crew → Crew) : (s.changeCrew p f).dies = s.dies := rfl
@[simp] theorem State.changeCrew_cores (s : State) (p : Party) (f : Crew → Crew) : (s.changeCrew p f).cores = s.cores := rfl
@[simp] theorem State.changeCrew_clusters (s : State) (p : Party) (f : Crew → Crew) : (s.changeCrew p f).clusters = s.clusters := rfl
@[simp] theorem State.changeCrew_crews (s : State) (p : Party) (f : Crew → Crew) : (s.changeCrew p f).crews = updateFirst (·.isOf p) f s.crews := rfl
@[simp] theorem State.changeCrew_bundles (s : State) (p : Party) (f : Crew → Crew) : (s.changeCrew p f).bundles = s.bundles := rfl
@[simp] theorem State.changeCrew_jobs (s : State) (p : Party) (f : Crew → Crew) : (s.changeCrew p f).jobs = s.jobs := rfl
@[simp] theorem State.changeCrew_nextJob (s : State) (p : Party) (f : Crew → Crew) : (s.changeCrew p f).nextJob = s.nextJob := rfl
@[simp] theorem State.changeCrew_nextBundle (s : State) (p : Party) (f : Crew → Crew) : (s.changeCrew p f).nextBundle = s.nextBundle := rfl
@[simp] theorem State.changeCrew_queues (s : State) (p : Party) (f : Crew → Crew) : (s.changeCrew p f).queues = s.queues := rfl
@[simp] theorem State.changeCrew_vent (s : State) (p : Party) (f : Crew → Crew) : (s.changeCrew p f).vent = s.vent := rfl
@[simp] theorem State.changeCrew_spaces (s : State) (p : Party) (f : Crew → Crew) : (s.changeCrew p f).spaces = s.spaces := rfl
@[simp] theorem State.changeCrew_firmware (s : State) (p : Party) (f : Crew → Crew) : (s.changeCrew p f).firmware = s.firmware := rfl
@[simp] theorem State.changeCrew_reports (s : State) (p : Party) (f : Crew → Crew) : (s.changeCrew p f).reports = s.reports := rfl
@[simp] theorem State.changeCrew_parts (s : State) (p : Party) (f : Crew → Crew) : (s.changeCrew p f).parts = s.parts := rfl
@[simp] theorem State.changeCrew_kids (s : State) (p : Party) (f : Crew → Crew) : (s.changeCrew p f).kids = s.kids := rfl
@[simp] theorem State.changeCrew_nextGen (s : State) (p : Party) (f : Crew → Crew) : (s.changeCrew p f).nextGen = s.nextGen := rfl
@[simp] theorem State.changeCrew_held (s : State) (p : Party) (f : Crew → Crew) : (s.changeCrew p f).held = s.held := rfl
@[simp] theorem State.changeCrew_ports (s : State) (p : Party) (f : Crew → Crew) : (s.changeCrew p f).ports = s.ports := rfl
@[simp] theorem State.changeCrew_mailbox (s : State) (p : Party) (f : Crew → Crew) : (s.changeCrew p f).mailbox = s.mailbox := rfl
@[simp] theorem State.changeCrew_security (s : State) (p : Party) (f : Crew → Crew) : (s.changeCrew p f).security = s.security := rfl
@[simp] theorem State.changeCrew_start (s : State) (p : Party) (f : Crew → Crew) : (s.changeCrew p f).start = s.start := rfl
@[simp] theorem State.changeCrew_debug (s : State) (p : Party) (f : Crew → Crew) : (s.changeCrew p f).debug = s.debug := rfl
@[simp] theorem State.changeCrew_traceSeqs (s : State) (p : Party) (f : Crew → Crew) : (s.changeCrew p f).traceSeqs = s.traceSeqs := rfl
@[simp] theorem State.changeCrew_trail (s : State) (p : Party) (f : Crew → Crew) : (s.changeCrew p f).trail = s.trail := rfl

/-! ## State.changePart -/

@[simp] theorem State.changePart_me (s : State) (n : Fin 4) (f : Partition → Partition) : (s.changePart n f).me = s.me := rfl
@[simp] theorem State.changePart_others (s : State) (n : Fin 4) (f : Partition → Partition) : (s.changePart n f).others = s.others := rfl
@[simp] theorem State.changePart_slot (s : State) (n : Fin 4) (f : Partition → Partition) : (s.changePart n f).slot = s.slot := rfl
@[simp] theorem State.changePart_picked (s : State) (n : Fin 4) (f : Partition → Partition) : (s.changePart n f).picked = s.picked := rfl
@[simp] theorem State.changePart_agenda (s : State) (n : Fin 4) (f : Partition → Partition) : (s.changePart n f).agenda = s.agenda := rfl
@[simp] theorem State.changePart_fresh (s : State) (n : Fin 4) (f : Partition → Partition) : (s.changePart n f).fresh = s.fresh := rfl
@[simp] theorem State.changePart_rtime (s : State) (n : Fin 4) (f : Partition → Partition) : (s.changePart n f).rtime = s.rtime := rfl
@[simp] theorem State.changePart_mem (s : State) (n : Fin 4) (f : Partition → Partition) : (s.changePart n f).mem = s.mem := rfl
@[simp] theorem State.changePart_heldPeers (s : State) (n : Fin 4) (f : Partition → Partition) : (s.changePart n f).heldPeers = s.heldPeers := rfl
@[simp] theorem State.changePart_poison (s : State) (n : Fin 4) (f : Partition → Partition) : (s.changePart n f).poison = s.poison := rfl
@[simp] theorem State.changePart_lines (s : State) (n : Fin 4) (f : Partition → Partition) : (s.changePart n f).lines = s.lines := rfl
@[simp] theorem State.changePart_records (s : State) (n : Fin 4) (f : Partition → Partition) : (s.changePart n f).records = s.records := rfl
@[simp] theorem State.changePart_uses (s : State) (n : Fin 4) (f : Partition → Partition) : (s.changePart n f).uses = s.uses := rfl
@[simp] theorem State.changePart_clocks (s : State) (n : Fin 4) (f : Partition → Partition) : (s.changePart n f).clocks = s.clocks := rfl
@[simp] theorem State.changePart_dies (s : State) (n : Fin 4) (f : Partition → Partition) : (s.changePart n f).dies = s.dies := rfl
@[simp] theorem State.changePart_cores (s : State) (n : Fin 4) (f : Partition → Partition) : (s.changePart n f).cores = s.cores := rfl
@[simp] theorem State.changePart_clusters (s : State) (n : Fin 4) (f : Partition → Partition) : (s.changePart n f).clusters = s.clusters := rfl
@[simp] theorem State.changePart_crews (s : State) (n : Fin 4) (f : Partition → Partition) : (s.changePart n f).crews = s.crews := rfl
@[simp] theorem State.changePart_bundles (s : State) (n : Fin 4) (f : Partition → Partition) : (s.changePart n f).bundles = s.bundles := rfl
@[simp] theorem State.changePart_jobs (s : State) (n : Fin 4) (f : Partition → Partition) : (s.changePart n f).jobs = s.jobs := rfl
@[simp] theorem State.changePart_nextJob (s : State) (n : Fin 4) (f : Partition → Partition) : (s.changePart n f).nextJob = s.nextJob := rfl
@[simp] theorem State.changePart_nextBundle (s : State) (n : Fin 4) (f : Partition → Partition) : (s.changePart n f).nextBundle = s.nextBundle := rfl
@[simp] theorem State.changePart_queues (s : State) (n : Fin 4) (f : Partition → Partition) : (s.changePart n f).queues = s.queues := rfl
@[simp] theorem State.changePart_vent (s : State) (n : Fin 4) (f : Partition → Partition) : (s.changePart n f).vent = s.vent := rfl
@[simp] theorem State.changePart_spaces (s : State) (n : Fin 4) (f : Partition → Partition) : (s.changePart n f).spaces = s.spaces := rfl
@[simp] theorem State.changePart_firmware (s : State) (n : Fin 4) (f : Partition → Partition) : (s.changePart n f).firmware = s.firmware := rfl
@[simp] theorem State.changePart_reports (s : State) (n : Fin 4) (f : Partition → Partition) : (s.changePart n f).reports = s.reports := rfl
@[simp] theorem State.changePart_parts (s : State) (n : Fin 4) (f : Partition → Partition) : (s.changePart n f).parts = s.parts.set n (f s.parts[n]) := rfl
@[simp] theorem State.changePart_kids (s : State) (n : Fin 4) (f : Partition → Partition) : (s.changePart n f).kids = s.kids := rfl
@[simp] theorem State.changePart_nextGen (s : State) (n : Fin 4) (f : Partition → Partition) : (s.changePart n f).nextGen = s.nextGen := rfl
@[simp] theorem State.changePart_held (s : State) (n : Fin 4) (f : Partition → Partition) : (s.changePart n f).held = s.held := rfl
@[simp] theorem State.changePart_ports (s : State) (n : Fin 4) (f : Partition → Partition) : (s.changePart n f).ports = s.ports := rfl
@[simp] theorem State.changePart_mailbox (s : State) (n : Fin 4) (f : Partition → Partition) : (s.changePart n f).mailbox = s.mailbox := rfl
@[simp] theorem State.changePart_security (s : State) (n : Fin 4) (f : Partition → Partition) : (s.changePart n f).security = s.security := rfl
@[simp] theorem State.changePart_start (s : State) (n : Fin 4) (f : Partition → Partition) : (s.changePart n f).start = s.start := rfl
@[simp] theorem State.changePart_debug (s : State) (n : Fin 4) (f : Partition → Partition) : (s.changePart n f).debug = s.debug := rfl
@[simp] theorem State.changePart_traceSeqs (s : State) (n : Fin 4) (f : Partition → Partition) : (s.changePart n f).traceSeqs = s.traceSeqs := rfl
@[simp] theorem State.changePart_trail (s : State) (n : Fin 4) (f : Partition → Partition) : (s.changePart n f).trail = s.trail := rfl

/-! ## State.changeDebug -/

@[simp] theorem State.changeDebug_me (s : State) (n : Fin 4) (f : Debug → Debug) : (s.changeDebug n f).me = s.me := rfl
@[simp] theorem State.changeDebug_others (s : State) (n : Fin 4) (f : Debug → Debug) : (s.changeDebug n f).others = s.others := rfl
@[simp] theorem State.changeDebug_slot (s : State) (n : Fin 4) (f : Debug → Debug) : (s.changeDebug n f).slot = s.slot := rfl
@[simp] theorem State.changeDebug_picked (s : State) (n : Fin 4) (f : Debug → Debug) : (s.changeDebug n f).picked = s.picked := rfl
@[simp] theorem State.changeDebug_agenda (s : State) (n : Fin 4) (f : Debug → Debug) : (s.changeDebug n f).agenda = s.agenda := rfl
@[simp] theorem State.changeDebug_fresh (s : State) (n : Fin 4) (f : Debug → Debug) : (s.changeDebug n f).fresh = s.fresh := rfl
@[simp] theorem State.changeDebug_rtime (s : State) (n : Fin 4) (f : Debug → Debug) : (s.changeDebug n f).rtime = s.rtime := rfl
@[simp] theorem State.changeDebug_mem (s : State) (n : Fin 4) (f : Debug → Debug) : (s.changeDebug n f).mem = s.mem := rfl
@[simp] theorem State.changeDebug_heldPeers (s : State) (n : Fin 4) (f : Debug → Debug) : (s.changeDebug n f).heldPeers = s.heldPeers := rfl
@[simp] theorem State.changeDebug_poison (s : State) (n : Fin 4) (f : Debug → Debug) : (s.changeDebug n f).poison = s.poison := rfl
@[simp] theorem State.changeDebug_lines (s : State) (n : Fin 4) (f : Debug → Debug) : (s.changeDebug n f).lines = s.lines := rfl
@[simp] theorem State.changeDebug_records (s : State) (n : Fin 4) (f : Debug → Debug) : (s.changeDebug n f).records = s.records := rfl
@[simp] theorem State.changeDebug_uses (s : State) (n : Fin 4) (f : Debug → Debug) : (s.changeDebug n f).uses = s.uses := rfl
@[simp] theorem State.changeDebug_clocks (s : State) (n : Fin 4) (f : Debug → Debug) : (s.changeDebug n f).clocks = s.clocks := rfl
@[simp] theorem State.changeDebug_dies (s : State) (n : Fin 4) (f : Debug → Debug) : (s.changeDebug n f).dies = s.dies := rfl
@[simp] theorem State.changeDebug_cores (s : State) (n : Fin 4) (f : Debug → Debug) : (s.changeDebug n f).cores = s.cores := rfl
@[simp] theorem State.changeDebug_clusters (s : State) (n : Fin 4) (f : Debug → Debug) : (s.changeDebug n f).clusters = s.clusters := rfl
@[simp] theorem State.changeDebug_crews (s : State) (n : Fin 4) (f : Debug → Debug) : (s.changeDebug n f).crews = s.crews := rfl
@[simp] theorem State.changeDebug_bundles (s : State) (n : Fin 4) (f : Debug → Debug) : (s.changeDebug n f).bundles = s.bundles := rfl
@[simp] theorem State.changeDebug_jobs (s : State) (n : Fin 4) (f : Debug → Debug) : (s.changeDebug n f).jobs = s.jobs := rfl
@[simp] theorem State.changeDebug_nextJob (s : State) (n : Fin 4) (f : Debug → Debug) : (s.changeDebug n f).nextJob = s.nextJob := rfl
@[simp] theorem State.changeDebug_nextBundle (s : State) (n : Fin 4) (f : Debug → Debug) : (s.changeDebug n f).nextBundle = s.nextBundle := rfl
@[simp] theorem State.changeDebug_queues (s : State) (n : Fin 4) (f : Debug → Debug) : (s.changeDebug n f).queues = s.queues := rfl
@[simp] theorem State.changeDebug_vent (s : State) (n : Fin 4) (f : Debug → Debug) : (s.changeDebug n f).vent = s.vent := rfl
@[simp] theorem State.changeDebug_spaces (s : State) (n : Fin 4) (f : Debug → Debug) : (s.changeDebug n f).spaces = s.spaces := rfl
@[simp] theorem State.changeDebug_firmware (s : State) (n : Fin 4) (f : Debug → Debug) : (s.changeDebug n f).firmware = s.firmware := rfl
@[simp] theorem State.changeDebug_reports (s : State) (n : Fin 4) (f : Debug → Debug) : (s.changeDebug n f).reports = s.reports := rfl
@[simp] theorem State.changeDebug_parts (s : State) (n : Fin 4) (f : Debug → Debug) : (s.changeDebug n f).parts = s.parts := rfl
@[simp] theorem State.changeDebug_kids (s : State) (n : Fin 4) (f : Debug → Debug) : (s.changeDebug n f).kids = s.kids := rfl
@[simp] theorem State.changeDebug_nextGen (s : State) (n : Fin 4) (f : Debug → Debug) : (s.changeDebug n f).nextGen = s.nextGen := rfl
@[simp] theorem State.changeDebug_held (s : State) (n : Fin 4) (f : Debug → Debug) : (s.changeDebug n f).held = s.held := rfl
@[simp] theorem State.changeDebug_ports (s : State) (n : Fin 4) (f : Debug → Debug) : (s.changeDebug n f).ports = s.ports := rfl
@[simp] theorem State.changeDebug_mailbox (s : State) (n : Fin 4) (f : Debug → Debug) : (s.changeDebug n f).mailbox = s.mailbox := rfl
@[simp] theorem State.changeDebug_security (s : State) (n : Fin 4) (f : Debug → Debug) : (s.changeDebug n f).security = s.security := rfl
@[simp] theorem State.changeDebug_start (s : State) (n : Fin 4) (f : Debug → Debug) : (s.changeDebug n f).start = s.start := rfl
@[simp] theorem State.changeDebug_traceSeqs (s : State) (n : Fin 4) (f : Debug → Debug) : (s.changeDebug n f).traceSeqs = s.traceSeqs := rfl
@[simp] theorem State.changeDebug_trail (s : State) (n : Fin 4) (f : Debug → Debug) : (s.changeDebug n f).trail = s.trail := rfl

/-! ## State.changeDie -/

@[simp] theorem State.changeDie_me (s : State) (d : Nat) (f : Die → Die) : (s.changeDie d f).me = s.me := rfl
@[simp] theorem State.changeDie_others (s : State) (d : Nat) (f : Die → Die) : (s.changeDie d f).others = s.others := rfl
@[simp] theorem State.changeDie_slot (s : State) (d : Nat) (f : Die → Die) : (s.changeDie d f).slot = s.slot := rfl
@[simp] theorem State.changeDie_picked (s : State) (d : Nat) (f : Die → Die) : (s.changeDie d f).picked = s.picked := rfl
@[simp] theorem State.changeDie_agenda (s : State) (d : Nat) (f : Die → Die) : (s.changeDie d f).agenda = s.agenda := rfl
@[simp] theorem State.changeDie_fresh (s : State) (d : Nat) (f : Die → Die) : (s.changeDie d f).fresh = s.fresh := rfl
@[simp] theorem State.changeDie_rtime (s : State) (d : Nat) (f : Die → Die) : (s.changeDie d f).rtime = s.rtime := rfl
@[simp] theorem State.changeDie_mem (s : State) (d : Nat) (f : Die → Die) : (s.changeDie d f).mem = s.mem := rfl
@[simp] theorem State.changeDie_heldPeers (s : State) (d : Nat) (f : Die → Die) : (s.changeDie d f).heldPeers = s.heldPeers := rfl
@[simp] theorem State.changeDie_poison (s : State) (d : Nat) (f : Die → Die) : (s.changeDie d f).poison = s.poison := rfl
@[simp] theorem State.changeDie_lines (s : State) (d : Nat) (f : Die → Die) : (s.changeDie d f).lines = s.lines := rfl
@[simp] theorem State.changeDie_records (s : State) (d : Nat) (f : Die → Die) : (s.changeDie d f).records = s.records := rfl
@[simp] theorem State.changeDie_uses (s : State) (d : Nat) (f : Die → Die) : (s.changeDie d f).uses = s.uses := rfl
@[simp] theorem State.changeDie_clocks (s : State) (d : Nat) (f : Die → Die) : (s.changeDie d f).clocks = s.clocks := rfl
@[simp] theorem State.changeDie_cores (s : State) (d : Nat) (f : Die → Die) : (s.changeDie d f).cores = s.cores := rfl
@[simp] theorem State.changeDie_clusters (s : State) (d : Nat) (f : Die → Die) : (s.changeDie d f).clusters = s.clusters := rfl
@[simp] theorem State.changeDie_crews (s : State) (d : Nat) (f : Die → Die) : (s.changeDie d f).crews = s.crews := rfl
@[simp] theorem State.changeDie_bundles (s : State) (d : Nat) (f : Die → Die) : (s.changeDie d f).bundles = s.bundles := rfl
@[simp] theorem State.changeDie_jobs (s : State) (d : Nat) (f : Die → Die) : (s.changeDie d f).jobs = s.jobs := rfl
@[simp] theorem State.changeDie_nextJob (s : State) (d : Nat) (f : Die → Die) : (s.changeDie d f).nextJob = s.nextJob := rfl
@[simp] theorem State.changeDie_nextBundle (s : State) (d : Nat) (f : Die → Die) : (s.changeDie d f).nextBundle = s.nextBundle := rfl
@[simp] theorem State.changeDie_queues (s : State) (d : Nat) (f : Die → Die) : (s.changeDie d f).queues = s.queues := rfl
@[simp] theorem State.changeDie_vent (s : State) (d : Nat) (f : Die → Die) : (s.changeDie d f).vent = s.vent := rfl
@[simp] theorem State.changeDie_spaces (s : State) (d : Nat) (f : Die → Die) : (s.changeDie d f).spaces = s.spaces := rfl
@[simp] theorem State.changeDie_firmware (s : State) (d : Nat) (f : Die → Die) : (s.changeDie d f).firmware = s.firmware := rfl
@[simp] theorem State.changeDie_reports (s : State) (d : Nat) (f : Die → Die) : (s.changeDie d f).reports = s.reports := rfl
@[simp] theorem State.changeDie_parts (s : State) (d : Nat) (f : Die → Die) : (s.changeDie d f).parts = s.parts := rfl
@[simp] theorem State.changeDie_kids (s : State) (d : Nat) (f : Die → Die) : (s.changeDie d f).kids = s.kids := rfl
@[simp] theorem State.changeDie_nextGen (s : State) (d : Nat) (f : Die → Die) : (s.changeDie d f).nextGen = s.nextGen := rfl
@[simp] theorem State.changeDie_held (s : State) (d : Nat) (f : Die → Die) : (s.changeDie d f).held = s.held := rfl
@[simp] theorem State.changeDie_ports (s : State) (d : Nat) (f : Die → Die) : (s.changeDie d f).ports = s.ports := rfl
@[simp] theorem State.changeDie_mailbox (s : State) (d : Nat) (f : Die → Die) : (s.changeDie d f).mailbox = s.mailbox := rfl
@[simp] theorem State.changeDie_security (s : State) (d : Nat) (f : Die → Die) : (s.changeDie d f).security = s.security := rfl
@[simp] theorem State.changeDie_start (s : State) (d : Nat) (f : Die → Die) : (s.changeDie d f).start = s.start := rfl
@[simp] theorem State.changeDie_debug (s : State) (d : Nat) (f : Die → Die) : (s.changeDie d f).debug = s.debug := rfl
@[simp] theorem State.changeDie_traceSeqs (s : State) (d : Nat) (f : Die → Die) : (s.changeDie d f).traceSeqs = s.traceSeqs := rfl
@[simp] theorem State.changeDie_trail (s : State) (d : Nat) (f : Die → Die) : (s.changeDie d f).trail = s.trail := rfl

/-! ## State.changeLine -/

@[simp] theorem State.changeLine_me (s : State) (n : Nat) (f : Line → Line) : (s.changeLine n f).me = s.me := rfl
@[simp] theorem State.changeLine_others (s : State) (n : Nat) (f : Line → Line) : (s.changeLine n f).others = s.others := rfl
@[simp] theorem State.changeLine_slot (s : State) (n : Nat) (f : Line → Line) : (s.changeLine n f).slot = s.slot := rfl
@[simp] theorem State.changeLine_picked (s : State) (n : Nat) (f : Line → Line) : (s.changeLine n f).picked = s.picked := rfl
@[simp] theorem State.changeLine_agenda (s : State) (n : Nat) (f : Line → Line) : (s.changeLine n f).agenda = s.agenda := rfl
@[simp] theorem State.changeLine_fresh (s : State) (n : Nat) (f : Line → Line) : (s.changeLine n f).fresh = s.fresh := rfl
@[simp] theorem State.changeLine_rtime (s : State) (n : Nat) (f : Line → Line) : (s.changeLine n f).rtime = s.rtime := rfl
@[simp] theorem State.changeLine_mem (s : State) (n : Nat) (f : Line → Line) : (s.changeLine n f).mem = s.mem := rfl
@[simp] theorem State.changeLine_heldPeers (s : State) (n : Nat) (f : Line → Line) : (s.changeLine n f).heldPeers = s.heldPeers := rfl
@[simp] theorem State.changeLine_poison (s : State) (n : Nat) (f : Line → Line) : (s.changeLine n f).poison = s.poison := rfl
@[simp] theorem State.changeLine_lines (s : State) (n : Nat) (f : Line → Line) : (s.changeLine n f).lines = Tbl.set s.lines n (f (s.line n)) := rfl
@[simp] theorem State.changeLine_records (s : State) (n : Nat) (f : Line → Line) : (s.changeLine n f).records = s.records := rfl
@[simp] theorem State.changeLine_uses (s : State) (n : Nat) (f : Line → Line) : (s.changeLine n f).uses = s.uses := rfl
@[simp] theorem State.changeLine_clocks (s : State) (n : Nat) (f : Line → Line) : (s.changeLine n f).clocks = s.clocks := rfl
@[simp] theorem State.changeLine_dies (s : State) (n : Nat) (f : Line → Line) : (s.changeLine n f).dies = s.dies := rfl
@[simp] theorem State.changeLine_cores (s : State) (n : Nat) (f : Line → Line) : (s.changeLine n f).cores = s.cores := rfl
@[simp] theorem State.changeLine_clusters (s : State) (n : Nat) (f : Line → Line) : (s.changeLine n f).clusters = s.clusters := rfl
@[simp] theorem State.changeLine_crews (s : State) (n : Nat) (f : Line → Line) : (s.changeLine n f).crews = s.crews := rfl
@[simp] theorem State.changeLine_bundles (s : State) (n : Nat) (f : Line → Line) : (s.changeLine n f).bundles = s.bundles := rfl
@[simp] theorem State.changeLine_jobs (s : State) (n : Nat) (f : Line → Line) : (s.changeLine n f).jobs = s.jobs := rfl
@[simp] theorem State.changeLine_nextJob (s : State) (n : Nat) (f : Line → Line) : (s.changeLine n f).nextJob = s.nextJob := rfl
@[simp] theorem State.changeLine_nextBundle (s : State) (n : Nat) (f : Line → Line) : (s.changeLine n f).nextBundle = s.nextBundle := rfl
@[simp] theorem State.changeLine_queues (s : State) (n : Nat) (f : Line → Line) : (s.changeLine n f).queues = s.queues := rfl
@[simp] theorem State.changeLine_vent (s : State) (n : Nat) (f : Line → Line) : (s.changeLine n f).vent = s.vent := rfl
@[simp] theorem State.changeLine_spaces (s : State) (n : Nat) (f : Line → Line) : (s.changeLine n f).spaces = s.spaces := rfl
@[simp] theorem State.changeLine_firmware (s : State) (n : Nat) (f : Line → Line) : (s.changeLine n f).firmware = s.firmware := rfl
@[simp] theorem State.changeLine_reports (s : State) (n : Nat) (f : Line → Line) : (s.changeLine n f).reports = s.reports := rfl
@[simp] theorem State.changeLine_parts (s : State) (n : Nat) (f : Line → Line) : (s.changeLine n f).parts = s.parts := rfl
@[simp] theorem State.changeLine_kids (s : State) (n : Nat) (f : Line → Line) : (s.changeLine n f).kids = s.kids := rfl
@[simp] theorem State.changeLine_nextGen (s : State) (n : Nat) (f : Line → Line) : (s.changeLine n f).nextGen = s.nextGen := rfl
@[simp] theorem State.changeLine_held (s : State) (n : Nat) (f : Line → Line) : (s.changeLine n f).held = s.held := rfl
@[simp] theorem State.changeLine_ports (s : State) (n : Nat) (f : Line → Line) : (s.changeLine n f).ports = s.ports := rfl
@[simp] theorem State.changeLine_mailbox (s : State) (n : Nat) (f : Line → Line) : (s.changeLine n f).mailbox = s.mailbox := rfl
@[simp] theorem State.changeLine_security (s : State) (n : Nat) (f : Line → Line) : (s.changeLine n f).security = s.security := rfl
@[simp] theorem State.changeLine_start (s : State) (n : Nat) (f : Line → Line) : (s.changeLine n f).start = s.start := rfl
@[simp] theorem State.changeLine_debug (s : State) (n : Nat) (f : Line → Line) : (s.changeLine n f).debug = s.debug := rfl
@[simp] theorem State.changeLine_traceSeqs (s : State) (n : Nat) (f : Line → Line) : (s.changeLine n f).traceSeqs = s.traceSeqs := rfl
@[simp] theorem State.changeLine_trail (s : State) (n : Nat) (f : Line → Line) : (s.changeLine n f).trail = s.trail := rfl

/-! ## State.tick -/

@[simp] theorem State.tick_me (s : State) (u : Nat) : (s.tick u).me = s.me := rfl
@[simp] theorem State.tick_others (s : State) (u : Nat) : (s.tick u).others = s.others := rfl
@[simp] theorem State.tick_slot (s : State) (u : Nat) : (s.tick u).slot = s.slot := rfl
@[simp] theorem State.tick_picked (s : State) (u : Nat) : (s.tick u).picked = s.picked := rfl
@[simp] theorem State.tick_agenda (s : State) (u : Nat) : (s.tick u).agenda = s.agenda := rfl
@[simp] theorem State.tick_fresh (s : State) (u : Nat) : (s.tick u).fresh = s.fresh := rfl
@[simp] theorem State.tick_rtime (s : State) (u : Nat) : (s.tick u).rtime = s.rtime := rfl
@[simp] theorem State.tick_mem (s : State) (u : Nat) : (s.tick u).mem = s.mem := rfl
@[simp] theorem State.tick_heldPeers (s : State) (u : Nat) : (s.tick u).heldPeers = s.heldPeers := rfl
@[simp] theorem State.tick_poison (s : State) (u : Nat) : (s.tick u).poison = s.poison := rfl
@[simp] theorem State.tick_lines (s : State) (u : Nat) : (s.tick u).lines = s.lines := rfl
@[simp] theorem State.tick_records (s : State) (u : Nat) : (s.tick u).records = s.records := rfl
@[simp] theorem State.tick_uses (s : State) (u : Nat) : (s.tick u).uses = s.uses := rfl
@[simp] theorem State.tick_dies (s : State) (u : Nat) : (s.tick u).dies = s.dies := rfl
@[simp] theorem State.tick_cores (s : State) (u : Nat) : (s.tick u).cores = s.cores := rfl
@[simp] theorem State.tick_clusters (s : State) (u : Nat) : (s.tick u).clusters = s.clusters := rfl
@[simp] theorem State.tick_crews (s : State) (u : Nat) : (s.tick u).crews = s.crews := rfl
@[simp] theorem State.tick_bundles (s : State) (u : Nat) : (s.tick u).bundles = s.bundles := rfl
@[simp] theorem State.tick_jobs (s : State) (u : Nat) : (s.tick u).jobs = s.jobs := rfl
@[simp] theorem State.tick_nextJob (s : State) (u : Nat) : (s.tick u).nextJob = s.nextJob := rfl
@[simp] theorem State.tick_nextBundle (s : State) (u : Nat) : (s.tick u).nextBundle = s.nextBundle := rfl
@[simp] theorem State.tick_queues (s : State) (u : Nat) : (s.tick u).queues = s.queues := rfl
@[simp] theorem State.tick_vent (s : State) (u : Nat) : (s.tick u).vent = s.vent := rfl
@[simp] theorem State.tick_spaces (s : State) (u : Nat) : (s.tick u).spaces = s.spaces := rfl
@[simp] theorem State.tick_firmware (s : State) (u : Nat) : (s.tick u).firmware = s.firmware := rfl
@[simp] theorem State.tick_reports (s : State) (u : Nat) : (s.tick u).reports = s.reports := rfl
@[simp] theorem State.tick_parts (s : State) (u : Nat) : (s.tick u).parts = s.parts := rfl
@[simp] theorem State.tick_kids (s : State) (u : Nat) : (s.tick u).kids = s.kids := rfl
@[simp] theorem State.tick_nextGen (s : State) (u : Nat) : (s.tick u).nextGen = s.nextGen := rfl
@[simp] theorem State.tick_held (s : State) (u : Nat) : (s.tick u).held = s.held := rfl
@[simp] theorem State.tick_ports (s : State) (u : Nat) : (s.tick u).ports = s.ports := rfl
@[simp] theorem State.tick_mailbox (s : State) (u : Nat) : (s.tick u).mailbox = s.mailbox := rfl
@[simp] theorem State.tick_security (s : State) (u : Nat) : (s.tick u).security = s.security := rfl
@[simp] theorem State.tick_start (s : State) (u : Nat) : (s.tick u).start = s.start := rfl
@[simp] theorem State.tick_debug (s : State) (u : Nat) : (s.tick u).debug = s.debug := rfl
@[simp] theorem State.tick_traceSeqs (s : State) (u : Nat) : (s.tick u).traceSeqs = s.traceSeqs := rfl
@[simp] theorem State.tick_trail (s : State) (u : Nat) : (s.tick u).trail = s.trail := rfl

/-! ## State.markPoison -/

@[simp] theorem State.markPoison_me (s : State) (a : Nat) (n : Nat) : (s.markPoison a n).me = s.me := rfl
@[simp] theorem State.markPoison_others (s : State) (a : Nat) (n : Nat) : (s.markPoison a n).others = s.others := rfl
@[simp] theorem State.markPoison_slot (s : State) (a : Nat) (n : Nat) : (s.markPoison a n).slot = s.slot := rfl
@[simp] theorem State.markPoison_picked (s : State) (a : Nat) (n : Nat) : (s.markPoison a n).picked = s.picked := rfl
@[simp] theorem State.markPoison_agenda (s : State) (a : Nat) (n : Nat) : (s.markPoison a n).agenda = s.agenda := rfl
@[simp] theorem State.markPoison_fresh (s : State) (a : Nat) (n : Nat) : (s.markPoison a n).fresh = s.fresh := rfl
@[simp] theorem State.markPoison_rtime (s : State) (a : Nat) (n : Nat) : (s.markPoison a n).rtime = s.rtime := rfl
@[simp] theorem State.markPoison_mem (s : State) (a : Nat) (n : Nat) : (s.markPoison a n).mem = s.mem := rfl
@[simp] theorem State.markPoison_heldPeers (s : State) (a : Nat) (n : Nat) : (s.markPoison a n).heldPeers = s.heldPeers := rfl
@[simp] theorem State.markPoison_lines (s : State) (a : Nat) (n : Nat) : (s.markPoison a n).lines = s.lines := rfl
@[simp] theorem State.markPoison_records (s : State) (a : Nat) (n : Nat) : (s.markPoison a n).records = s.records := rfl
@[simp] theorem State.markPoison_uses (s : State) (a : Nat) (n : Nat) : (s.markPoison a n).uses = s.uses := rfl
@[simp] theorem State.markPoison_clocks (s : State) (a : Nat) (n : Nat) : (s.markPoison a n).clocks = s.clocks := rfl
@[simp] theorem State.markPoison_dies (s : State) (a : Nat) (n : Nat) : (s.markPoison a n).dies = s.dies := rfl
@[simp] theorem State.markPoison_cores (s : State) (a : Nat) (n : Nat) : (s.markPoison a n).cores = s.cores := rfl
@[simp] theorem State.markPoison_clusters (s : State) (a : Nat) (n : Nat) : (s.markPoison a n).clusters = s.clusters := rfl
@[simp] theorem State.markPoison_crews (s : State) (a : Nat) (n : Nat) : (s.markPoison a n).crews = s.crews := rfl
@[simp] theorem State.markPoison_bundles (s : State) (a : Nat) (n : Nat) : (s.markPoison a n).bundles = s.bundles := rfl
@[simp] theorem State.markPoison_jobs (s : State) (a : Nat) (n : Nat) : (s.markPoison a n).jobs = s.jobs := rfl
@[simp] theorem State.markPoison_nextJob (s : State) (a : Nat) (n : Nat) : (s.markPoison a n).nextJob = s.nextJob := rfl
@[simp] theorem State.markPoison_nextBundle (s : State) (a : Nat) (n : Nat) : (s.markPoison a n).nextBundle = s.nextBundle := rfl
@[simp] theorem State.markPoison_queues (s : State) (a : Nat) (n : Nat) : (s.markPoison a n).queues = s.queues := rfl
@[simp] theorem State.markPoison_vent (s : State) (a : Nat) (n : Nat) : (s.markPoison a n).vent = s.vent := rfl
@[simp] theorem State.markPoison_spaces (s : State) (a : Nat) (n : Nat) : (s.markPoison a n).spaces = s.spaces := rfl
@[simp] theorem State.markPoison_firmware (s : State) (a : Nat) (n : Nat) : (s.markPoison a n).firmware = s.firmware := rfl
@[simp] theorem State.markPoison_reports (s : State) (a : Nat) (n : Nat) : (s.markPoison a n).reports = s.reports := rfl
@[simp] theorem State.markPoison_parts (s : State) (a : Nat) (n : Nat) : (s.markPoison a n).parts = s.parts := rfl
@[simp] theorem State.markPoison_kids (s : State) (a : Nat) (n : Nat) : (s.markPoison a n).kids = s.kids := rfl
@[simp] theorem State.markPoison_nextGen (s : State) (a : Nat) (n : Nat) : (s.markPoison a n).nextGen = s.nextGen := rfl
@[simp] theorem State.markPoison_held (s : State) (a : Nat) (n : Nat) : (s.markPoison a n).held = s.held := rfl
@[simp] theorem State.markPoison_ports (s : State) (a : Nat) (n : Nat) : (s.markPoison a n).ports = s.ports := rfl
@[simp] theorem State.markPoison_mailbox (s : State) (a : Nat) (n : Nat) : (s.markPoison a n).mailbox = s.mailbox := rfl
@[simp] theorem State.markPoison_security (s : State) (a : Nat) (n : Nat) : (s.markPoison a n).security = s.security := rfl
@[simp] theorem State.markPoison_start (s : State) (a : Nat) (n : Nat) : (s.markPoison a n).start = s.start := rfl
@[simp] theorem State.markPoison_debug (s : State) (a : Nat) (n : Nat) : (s.markPoison a n).debug = s.debug := rfl
@[simp] theorem State.markPoison_traceSeqs (s : State) (a : Nat) (n : Nat) : (s.markPoison a n).traceSeqs = s.traceSeqs := rfl
@[simp] theorem State.markPoison_trail (s : State) (a : Nat) (n : Nat) : (s.markPoison a n).trail = s.trail := rfl

/-! ## Party.setS -/

@[simp] theorem Party.setS_role (p : Party) (n : Fin 56) (v : SReg) : (p.setS n v).role = p.role := rfl
@[simp] theorem Party.setS_ident (p : Party) (n : Fin 56) (v : SReg) : (p.setS n v).ident = p.ident := rfl
@[simp] theorem Party.setS_part (p : Party) (n : Fin 56) (v : SReg) : (p.setS n v).part = p.part := rfl
@[simp] theorem Party.setS_asid (p : Party) (n : Fin 56) (v : SReg) : (p.setS n v).asid = p.asid := rfl
@[simp] theorem Party.setS_bundle (p : Party) (n : Fin 56) (v : SReg) : (p.setS n v).bundle = p.bundle := rfl
@[simp] theorem Party.setS_stage (p : Party) (n : Fin 56) (v : SReg) : (p.setS n v).stage = p.stage := rfl
@[simp] theorem Party.setS_crew (p : Party) (n : Fin 56) (v : SReg) : (p.setS n v).crew = p.crew := rfl
@[simp] theorem Party.setS_gang (p : Party) (n : Fin 56) (v : SReg) : (p.setS n v).gang = p.gang := rfl
@[simp] theorem Party.setS_crewN (p : Party) (n : Fin 56) (v : SReg) : (p.setS n v).crewN = p.crewN := rfl
@[simp] theorem Party.setS_gridN (p : Party) (n : Fin 56) (v : SReg) : (p.setS n v).gridN = p.gridN := rfl
@[simp] theorem Party.setS_codebase (p : Party) (n : Fin 56) (v : SReg) : (p.setS n v).codebase = p.codebase := rfl
@[simp] theorem Party.setS_psp (p : Party) (n : Fin 56) (v : SReg) : (p.setS n v).psp = p.psp := rfl
@[simp] theorem Party.setS_userh (p : Party) (n : Fin 56) (v : SReg) : (p.setS n v).userh = p.userh := rfl
@[simp] theorem Party.setS_vreg (p : Party) (n : Fin 56) (v : SReg) : (p.setS n v).vreg = p.vreg := rfl
@[simp] theorem Party.setS_sup (p : Party) (n : Fin 56) (v : SReg) : (p.setS n v).sup = p.sup := rfl
@[simp] theorem Party.setS_present (p : Party) (n : Fin 56) (v : SReg) : (p.setS n v).present = p.present := rfl
@[simp] theorem Party.setS_core (p : Party) (n : Fin 56) (v : SReg) : (p.setS n v).core = p.core := rfl
@[simp] theorem Party.setS_sched (p : Party) (n : Fin 56) (v : SReg) : (p.setS n v).sched = p.sched := rfl
@[simp] theorem Party.setS_qports (p : Party) (n : Fin 56) (v : SReg) : (p.setS n v).qports = p.qports := rfl
@[simp] theorem Party.setS_sqports (p : Party) (n : Fin 56) (v : SReg) : (p.setS n v).sqports = p.sqports := rfl
@[simp] theorem Party.setS_vregs (p : Party) (n : Fin 56) (v : SReg) : (p.setS n v).vregs = p.vregs := rfl
@[simp] theorem Party.setS_preds (p : Party) (n : Fin 56) (v : SReg) : (p.setS n v).preds = p.preds := rfl
@[simp] theorem Party.setS_sregs (p : Party) (n : Fin 56) (v : SReg) : (p.setS n v).sregs = p.sregs.set n v := rfl
@[simp] theorem Party.setS_pcv (p : Party) (n : Fin 56) (v : SReg) : (p.setS n v).pcv = p.pcv := rfl
@[simp] theorem Party.setS_epcv (p : Party) (n : Fin 56) (v : SReg) : (p.setS n v).epcv = p.epcv := rfl
@[simp] theorem Party.setS_inmac (p : Party) (n : Fin 56) (v : SReg) : (p.setS n v).inmac = p.inmac := rfl
@[simp] theorem Party.setS_midx (p : Party) (n : Fin 56) (v : SReg) : (p.setS n v).midx = p.midx := rfl
@[simp] theorem Party.setS_rstack (p : Party) (n : Fin 56) (v : SReg) : (p.setS n v).rstack = p.rstack := rfl
@[simp] theorem Party.setS_rsp (p : Party) (n : Fin 56) (v : SReg) : (p.setS n v).rsp = p.rsp := rfl
@[simp] theorem Party.setS_rsdepth (p : Party) (n : Fin 56) (v : SReg) : (p.setS n v).rsdepth = p.rsdepth := rfl
@[simp] theorem Party.setS_retFrom (p : Party) (n : Fin 56) (v : SReg) : (p.setS n v).retFrom = p.retFrom := rfl
@[simp] theorem Party.setS_cause (p : Party) (n : Fin 56) (v : SReg) : (p.setS n v).cause = p.cause := rfl
@[simp] theorem Party.setS_causem (p : Party) (n : Fin 56) (v : SReg) : (p.setS n v).causem = p.causem := rfl
@[simp] theorem Party.setS_causeset (p : Party) (n : Fin 56) (v : SReg) : (p.setS n v).causeset = p.causeset := rfl
@[simp] theorem Party.setS_contrec (p : Party) (n : Fin 56) (v : SReg) : (p.setS n v).contrec = p.contrec := rfl
@[simp] theorem Party.setS_flags (p : Party) (n : Fin 56) (v : SReg) : (p.setS n v).flags = p.flags := rfl
@[simp] theorem Party.setS_grun (p : Party) (n : Fin 56) (v : SReg) : (p.setS n v).grun = p.grun := rfl
@[simp] theorem Party.setS_tdead (p : Party) (n : Fin 56) (v : SReg) : (p.setS n v).tdead = p.tdead := rfl
@[simp] theorem Party.setS_inj (p : Party) (n : Fin 56) (v : SReg) : (p.setS n v).inj = p.inj := rfl
@[simp] theorem Party.setS_wdogv (p : Party) (n : Fin 56) (v : SReg) : (p.setS n v).wdogv = p.wdogv := rfl
@[simp] theorem Party.setS_issued (p : Party) (n : Fin 56) (v : SReg) : (p.setS n v).issued = p.issued := rfl
@[simp] theorem Party.setS_stalled (p : Party) (n : Fin 56) (v : SReg) : (p.setS n v).stalled = p.stalled := rfl
@[simp] theorem Party.setS_port (p : Party) (n : Fin 56) (v : SReg) : (p.setS n v).port = p.port := rfl
@[simp] theorem Party.setS_mate (p : Party) (n : Fin 56) (v : SReg) : (p.setS n v).mate = p.mate := rfl
@[simp] theorem Party.setS_pend (p : Party) (n : Fin 56) (v : SReg) : (p.setS n v).pend = p.pend := rfl
@[simp] theorem Party.setS_nextId (p : Party) (n : Fin 56) (v : SReg) : (p.setS n v).nextId = p.nextId := rfl
@[simp] theorem Party.setS_handler (p : Party) (n : Fin 56) (v : SReg) : (p.setS n v).handler = p.handler := rfl
@[simp] theorem Party.setS_halted (p : Party) (n : Fin 56) (v : SReg) : (p.setS n v).halted = p.halted := rfl
@[simp] theorem Party.setS_replayable (p : Party) (n : Fin 56) (v : SReg) : (p.setS n v).replayable = p.replayable := rfl
@[simp] theorem Party.setS_remapped (p : Party) (n : Fin 56) (v : SReg) : (p.setS n v).remapped = p.remapped := rfl
@[simp] theorem Party.setS_switchedOut (p : Party) (n : Fin 56) (v : SReg) : (p.setS n v).switchedOut = p.switchedOut := rfl
@[simp] theorem Party.setS_yielding (p : Party) (n : Fin 56) (v : SReg) : (p.setS n v).yielding = p.yielding := rfl
@[simp] theorem Party.setS_stopped (p : Party) (n : Fin 56) (v : SReg) : (p.setS n v).stopped = p.stopped := rfl
@[simp] theorem Party.setS_monitor (p : Party) (n : Fin 56) (v : SReg) : (p.setS n v).monitor = p.monitor := rfl
@[simp] theorem Party.setS_copyErr (p : Party) (n : Fin 56) (v : SReg) : (p.setS n v).copyErr = p.copyErr := rfl
@[simp] theorem Party.setS_drawn (p : Party) (n : Fin 56) (v : SReg) : (p.setS n v).drawn = p.drawn := rfl
@[simp] theorem Party.setS_contDue (p : Party) (n : Fin 56) (v : SReg) : (p.setS n v).contDue = p.contDue := rfl
@[simp] theorem Party.setS_dropped (p : Party) (n : Fin 56) (v : SReg) : (p.setS n v).dropped = p.dropped := rfl
@[simp] theorem Party.setS_lastRel (p : Party) (n : Fin 56) (v : SReg) : (p.setS n v).lastRel = p.lastRel := rfl
@[simp] theorem Party.setS_clauses (p : Party) (n : Fin 56) (v : SReg) : (p.setS n v).clauses = p.clauses := rfl
@[simp] theorem Party.setS_votes (p : Party) (n : Fin 56) (v : SReg) : (p.setS n v).votes = p.votes := rfl
@[simp] theorem Party.setS_noFlush (p : Party) (n : Fin 56) (v : SReg) : (p.setS n v).noFlush = p.noFlush := rfl
@[simp] theorem Party.setS_sync (p : Party) (n : Fin 56) (v : SReg) : (p.setS n v).sync = p.sync := rfl
@[simp] theorem Party.setS_bkptPast (p : Party) (n : Fin 56) (v : SReg) : (p.setS n v).bkptPast = p.bkptPast := rfl
@[simp] theorem Party.setS_atPoint (p : Party) (n : Fin 56) (v : SReg) : (p.setS n v).atPoint = p.atPoint := rfl
@[simp] theorem Party.setS_dropFrom (p : Party) (n : Fin 56) (v : SReg) : (p.setS n v).dropFrom = p.dropFrom := rfl

/-! ## Party.setCause -/

@[simp] theorem Party.setCause_role (p : Party) (c : Cause) : (p.setCause c).role = p.role := rfl
@[simp] theorem Party.setCause_ident (p : Party) (c : Cause) : (p.setCause c).ident = p.ident := rfl
@[simp] theorem Party.setCause_part (p : Party) (c : Cause) : (p.setCause c).part = p.part := rfl
@[simp] theorem Party.setCause_asid (p : Party) (c : Cause) : (p.setCause c).asid = p.asid := rfl
@[simp] theorem Party.setCause_bundle (p : Party) (c : Cause) : (p.setCause c).bundle = p.bundle := rfl
@[simp] theorem Party.setCause_stage (p : Party) (c : Cause) : (p.setCause c).stage = p.stage := rfl
@[simp] theorem Party.setCause_crew (p : Party) (c : Cause) : (p.setCause c).crew = p.crew := rfl
@[simp] theorem Party.setCause_gang (p : Party) (c : Cause) : (p.setCause c).gang = p.gang := rfl
@[simp] theorem Party.setCause_crewN (p : Party) (c : Cause) : (p.setCause c).crewN = p.crewN := rfl
@[simp] theorem Party.setCause_gridN (p : Party) (c : Cause) : (p.setCause c).gridN = p.gridN := rfl
@[simp] theorem Party.setCause_codebase (p : Party) (c : Cause) : (p.setCause c).codebase = p.codebase := rfl
@[simp] theorem Party.setCause_psp (p : Party) (c : Cause) : (p.setCause c).psp = p.psp := rfl
@[simp] theorem Party.setCause_userh (p : Party) (c : Cause) : (p.setCause c).userh = p.userh := rfl
@[simp] theorem Party.setCause_vreg (p : Party) (c : Cause) : (p.setCause c).vreg = p.vreg := rfl
@[simp] theorem Party.setCause_sup (p : Party) (c : Cause) : (p.setCause c).sup = p.sup := rfl
@[simp] theorem Party.setCause_present (p : Party) (c : Cause) : (p.setCause c).present = p.present := rfl
@[simp] theorem Party.setCause_core (p : Party) (c : Cause) : (p.setCause c).core = p.core := rfl
@[simp] theorem Party.setCause_sched (p : Party) (c : Cause) : (p.setCause c).sched = p.sched := rfl
@[simp] theorem Party.setCause_qports (p : Party) (c : Cause) : (p.setCause c).qports = p.qports := rfl
@[simp] theorem Party.setCause_sqports (p : Party) (c : Cause) : (p.setCause c).sqports = p.sqports := rfl
@[simp] theorem Party.setCause_vregs (p : Party) (c : Cause) : (p.setCause c).vregs = p.vregs := rfl
@[simp] theorem Party.setCause_preds (p : Party) (c : Cause) : (p.setCause c).preds = p.preds := rfl
@[simp] theorem Party.setCause_sregs (p : Party) (c : Cause) : (p.setCause c).sregs = p.sregs := rfl
@[simp] theorem Party.setCause_pcv (p : Party) (c : Cause) : (p.setCause c).pcv = p.pcv := rfl
@[simp] theorem Party.setCause_epcv (p : Party) (c : Cause) : (p.setCause c).epcv = p.epcv := rfl
@[simp] theorem Party.setCause_inmac (p : Party) (c : Cause) : (p.setCause c).inmac = p.inmac := rfl
@[simp] theorem Party.setCause_midx (p : Party) (c : Cause) : (p.setCause c).midx = p.midx := rfl
@[simp] theorem Party.setCause_rstack (p : Party) (c : Cause) : (p.setCause c).rstack = p.rstack := rfl
@[simp] theorem Party.setCause_rsp (p : Party) (c : Cause) : (p.setCause c).rsp = p.rsp := rfl
@[simp] theorem Party.setCause_rsdepth (p : Party) (c : Cause) : (p.setCause c).rsdepth = p.rsdepth := rfl
@[simp] theorem Party.setCause_retFrom (p : Party) (c : Cause) : (p.setCause c).retFrom = p.retFrom := rfl
@[simp] theorem Party.setCause_cause (p : Party) (c : Cause) : (p.setCause c).cause = p.cause ||| c.mask := rfl
@[simp] theorem Party.setCause_causem (p : Party) (c : Cause) : (p.setCause c).causem = p.causem := rfl
@[simp] theorem Party.setCause_causeset (p : Party) (c : Cause) : (p.setCause c).causeset = p.causeset := rfl
@[simp] theorem Party.setCause_contrec (p : Party) (c : Cause) : (p.setCause c).contrec = p.contrec := rfl
@[simp] theorem Party.setCause_flags (p : Party) (c : Cause) : (p.setCause c).flags = p.flags := rfl
@[simp] theorem Party.setCause_grun (p : Party) (c : Cause) : (p.setCause c).grun = p.grun := rfl
@[simp] theorem Party.setCause_tdead (p : Party) (c : Cause) : (p.setCause c).tdead = p.tdead := rfl
@[simp] theorem Party.setCause_inj (p : Party) (c : Cause) : (p.setCause c).inj = p.inj := rfl
@[simp] theorem Party.setCause_wdogv (p : Party) (c : Cause) : (p.setCause c).wdogv = p.wdogv := rfl
@[simp] theorem Party.setCause_issued (p : Party) (c : Cause) : (p.setCause c).issued = p.issued := rfl
@[simp] theorem Party.setCause_stalled (p : Party) (c : Cause) : (p.setCause c).stalled = p.stalled := rfl
@[simp] theorem Party.setCause_port (p : Party) (c : Cause) : (p.setCause c).port = p.port := rfl
@[simp] theorem Party.setCause_mate (p : Party) (c : Cause) : (p.setCause c).mate = p.mate := rfl
@[simp] theorem Party.setCause_pend (p : Party) (c : Cause) : (p.setCause c).pend = p.pend := rfl
@[simp] theorem Party.setCause_nextId (p : Party) (c : Cause) : (p.setCause c).nextId = p.nextId := rfl
@[simp] theorem Party.setCause_handler (p : Party) (c : Cause) : (p.setCause c).handler = p.handler := rfl
@[simp] theorem Party.setCause_halted (p : Party) (c : Cause) : (p.setCause c).halted = p.halted := rfl
@[simp] theorem Party.setCause_replayable (p : Party) (c : Cause) : (p.setCause c).replayable = p.replayable := rfl
@[simp] theorem Party.setCause_remapped (p : Party) (c : Cause) : (p.setCause c).remapped = p.remapped := rfl
@[simp] theorem Party.setCause_switchedOut (p : Party) (c : Cause) : (p.setCause c).switchedOut = p.switchedOut := rfl
@[simp] theorem Party.setCause_yielding (p : Party) (c : Cause) : (p.setCause c).yielding = p.yielding := rfl
@[simp] theorem Party.setCause_stopped (p : Party) (c : Cause) : (p.setCause c).stopped = p.stopped := rfl
@[simp] theorem Party.setCause_monitor (p : Party) (c : Cause) : (p.setCause c).monitor = p.monitor := rfl
@[simp] theorem Party.setCause_copyErr (p : Party) (c : Cause) : (p.setCause c).copyErr = p.copyErr := rfl
@[simp] theorem Party.setCause_drawn (p : Party) (c : Cause) : (p.setCause c).drawn = p.drawn := rfl
@[simp] theorem Party.setCause_contDue (p : Party) (c : Cause) : (p.setCause c).contDue = p.contDue := rfl
@[simp] theorem Party.setCause_dropped (p : Party) (c : Cause) : (p.setCause c).dropped = p.dropped := rfl
@[simp] theorem Party.setCause_lastRel (p : Party) (c : Cause) : (p.setCause c).lastRel = p.lastRel := rfl
@[simp] theorem Party.setCause_clauses (p : Party) (c : Cause) : (p.setCause c).clauses = p.clauses := rfl
@[simp] theorem Party.setCause_votes (p : Party) (c : Cause) : (p.setCause c).votes = p.votes := rfl
@[simp] theorem Party.setCause_noFlush (p : Party) (c : Cause) : (p.setCause c).noFlush = p.noFlush := rfl
@[simp] theorem Party.setCause_sync (p : Party) (c : Cause) : (p.setCause c).sync = p.sync := rfl
@[simp] theorem Party.setCause_bkptPast (p : Party) (c : Cause) : (p.setCause c).bkptPast = p.bkptPast := rfl
@[simp] theorem Party.setCause_atPoint (p : Party) (c : Cause) : (p.setCause c).atPoint = p.atPoint := rfl
@[simp] theorem Party.setCause_dropFrom (p : Party) (c : Cause) : (p.setCause c).dropFrom = p.dropFrom := rfl

/-! ## Party.orFlags -/

@[simp] theorem Party.orFlags_role (p : Party) (f : BitVec 32) : (p.orFlags f).role = p.role := rfl
@[simp] theorem Party.orFlags_ident (p : Party) (f : BitVec 32) : (p.orFlags f).ident = p.ident := rfl
@[simp] theorem Party.orFlags_part (p : Party) (f : BitVec 32) : (p.orFlags f).part = p.part := rfl
@[simp] theorem Party.orFlags_asid (p : Party) (f : BitVec 32) : (p.orFlags f).asid = p.asid := rfl
@[simp] theorem Party.orFlags_bundle (p : Party) (f : BitVec 32) : (p.orFlags f).bundle = p.bundle := rfl
@[simp] theorem Party.orFlags_stage (p : Party) (f : BitVec 32) : (p.orFlags f).stage = p.stage := rfl
@[simp] theorem Party.orFlags_crew (p : Party) (f : BitVec 32) : (p.orFlags f).crew = p.crew := rfl
@[simp] theorem Party.orFlags_gang (p : Party) (f : BitVec 32) : (p.orFlags f).gang = p.gang := rfl
@[simp] theorem Party.orFlags_crewN (p : Party) (f : BitVec 32) : (p.orFlags f).crewN = p.crewN := rfl
@[simp] theorem Party.orFlags_gridN (p : Party) (f : BitVec 32) : (p.orFlags f).gridN = p.gridN := rfl
@[simp] theorem Party.orFlags_codebase (p : Party) (f : BitVec 32) : (p.orFlags f).codebase = p.codebase := rfl
@[simp] theorem Party.orFlags_psp (p : Party) (f : BitVec 32) : (p.orFlags f).psp = p.psp := rfl
@[simp] theorem Party.orFlags_userh (p : Party) (f : BitVec 32) : (p.orFlags f).userh = p.userh := rfl
@[simp] theorem Party.orFlags_vreg (p : Party) (f : BitVec 32) : (p.orFlags f).vreg = p.vreg := rfl
@[simp] theorem Party.orFlags_sup (p : Party) (f : BitVec 32) : (p.orFlags f).sup = p.sup := rfl
@[simp] theorem Party.orFlags_present (p : Party) (f : BitVec 32) : (p.orFlags f).present = p.present := rfl
@[simp] theorem Party.orFlags_core (p : Party) (f : BitVec 32) : (p.orFlags f).core = p.core := rfl
@[simp] theorem Party.orFlags_sched (p : Party) (f : BitVec 32) : (p.orFlags f).sched = p.sched := rfl
@[simp] theorem Party.orFlags_qports (p : Party) (f : BitVec 32) : (p.orFlags f).qports = p.qports := rfl
@[simp] theorem Party.orFlags_sqports (p : Party) (f : BitVec 32) : (p.orFlags f).sqports = p.sqports := rfl
@[simp] theorem Party.orFlags_vregs (p : Party) (f : BitVec 32) : (p.orFlags f).vregs = p.vregs := rfl
@[simp] theorem Party.orFlags_preds (p : Party) (f : BitVec 32) : (p.orFlags f).preds = p.preds := rfl
@[simp] theorem Party.orFlags_sregs (p : Party) (f : BitVec 32) : (p.orFlags f).sregs = p.sregs := rfl
@[simp] theorem Party.orFlags_pcv (p : Party) (f : BitVec 32) : (p.orFlags f).pcv = p.pcv := rfl
@[simp] theorem Party.orFlags_epcv (p : Party) (f : BitVec 32) : (p.orFlags f).epcv = p.epcv := rfl
@[simp] theorem Party.orFlags_inmac (p : Party) (f : BitVec 32) : (p.orFlags f).inmac = p.inmac := rfl
@[simp] theorem Party.orFlags_midx (p : Party) (f : BitVec 32) : (p.orFlags f).midx = p.midx := rfl
@[simp] theorem Party.orFlags_rstack (p : Party) (f : BitVec 32) : (p.orFlags f).rstack = p.rstack := rfl
@[simp] theorem Party.orFlags_rsp (p : Party) (f : BitVec 32) : (p.orFlags f).rsp = p.rsp := rfl
@[simp] theorem Party.orFlags_rsdepth (p : Party) (f : BitVec 32) : (p.orFlags f).rsdepth = p.rsdepth := rfl
@[simp] theorem Party.orFlags_retFrom (p : Party) (f : BitVec 32) : (p.orFlags f).retFrom = p.retFrom := rfl
@[simp] theorem Party.orFlags_cause (p : Party) (f : BitVec 32) : (p.orFlags f).cause = p.cause := rfl
@[simp] theorem Party.orFlags_causem (p : Party) (f : BitVec 32) : (p.orFlags f).causem = p.causem := rfl
@[simp] theorem Party.orFlags_causeset (p : Party) (f : BitVec 32) : (p.orFlags f).causeset = p.causeset := rfl
@[simp] theorem Party.orFlags_contrec (p : Party) (f : BitVec 32) : (p.orFlags f).contrec = p.contrec := rfl
@[simp] theorem Party.orFlags_flags (p : Party) (f : BitVec 32) : (p.orFlags f).flags = p.flags ||| f := rfl
@[simp] theorem Party.orFlags_grun (p : Party) (f : BitVec 32) : (p.orFlags f).grun = p.grun := rfl
@[simp] theorem Party.orFlags_tdead (p : Party) (f : BitVec 32) : (p.orFlags f).tdead = p.tdead := rfl
@[simp] theorem Party.orFlags_inj (p : Party) (f : BitVec 32) : (p.orFlags f).inj = p.inj := rfl
@[simp] theorem Party.orFlags_wdogv (p : Party) (f : BitVec 32) : (p.orFlags f).wdogv = p.wdogv := rfl
@[simp] theorem Party.orFlags_issued (p : Party) (f : BitVec 32) : (p.orFlags f).issued = p.issued := rfl
@[simp] theorem Party.orFlags_stalled (p : Party) (f : BitVec 32) : (p.orFlags f).stalled = p.stalled := rfl
@[simp] theorem Party.orFlags_port (p : Party) (f : BitVec 32) : (p.orFlags f).port = p.port := rfl
@[simp] theorem Party.orFlags_mate (p : Party) (f : BitVec 32) : (p.orFlags f).mate = p.mate := rfl
@[simp] theorem Party.orFlags_pend (p : Party) (f : BitVec 32) : (p.orFlags f).pend = p.pend := rfl
@[simp] theorem Party.orFlags_nextId (p : Party) (f : BitVec 32) : (p.orFlags f).nextId = p.nextId := rfl
@[simp] theorem Party.orFlags_handler (p : Party) (f : BitVec 32) : (p.orFlags f).handler = p.handler := rfl
@[simp] theorem Party.orFlags_halted (p : Party) (f : BitVec 32) : (p.orFlags f).halted = p.halted := rfl
@[simp] theorem Party.orFlags_replayable (p : Party) (f : BitVec 32) : (p.orFlags f).replayable = p.replayable := rfl
@[simp] theorem Party.orFlags_remapped (p : Party) (f : BitVec 32) : (p.orFlags f).remapped = p.remapped := rfl
@[simp] theorem Party.orFlags_switchedOut (p : Party) (f : BitVec 32) : (p.orFlags f).switchedOut = p.switchedOut := rfl
@[simp] theorem Party.orFlags_yielding (p : Party) (f : BitVec 32) : (p.orFlags f).yielding = p.yielding := rfl
@[simp] theorem Party.orFlags_stopped (p : Party) (f : BitVec 32) : (p.orFlags f).stopped = p.stopped := rfl
@[simp] theorem Party.orFlags_monitor (p : Party) (f : BitVec 32) : (p.orFlags f).monitor = p.monitor := rfl
@[simp] theorem Party.orFlags_copyErr (p : Party) (f : BitVec 32) : (p.orFlags f).copyErr = p.copyErr := rfl
@[simp] theorem Party.orFlags_drawn (p : Party) (f : BitVec 32) : (p.orFlags f).drawn = p.drawn := rfl
@[simp] theorem Party.orFlags_contDue (p : Party) (f : BitVec 32) : (p.orFlags f).contDue = p.contDue := rfl
@[simp] theorem Party.orFlags_dropped (p : Party) (f : BitVec 32) : (p.orFlags f).dropped = p.dropped := rfl
@[simp] theorem Party.orFlags_lastRel (p : Party) (f : BitVec 32) : (p.orFlags f).lastRel = p.lastRel := rfl
@[simp] theorem Party.orFlags_clauses (p : Party) (f : BitVec 32) : (p.orFlags f).clauses = p.clauses := rfl
@[simp] theorem Party.orFlags_votes (p : Party) (f : BitVec 32) : (p.orFlags f).votes = p.votes := rfl
@[simp] theorem Party.orFlags_noFlush (p : Party) (f : BitVec 32) : (p.orFlags f).noFlush = p.noFlush := rfl
@[simp] theorem Party.orFlags_sync (p : Party) (f : BitVec 32) : (p.orFlags f).sync = p.sync := rfl
@[simp] theorem Party.orFlags_bkptPast (p : Party) (f : BitVec 32) : (p.orFlags f).bkptPast = p.bkptPast := rfl
@[simp] theorem Party.orFlags_atPoint (p : Party) (f : BitVec 32) : (p.orFlags f).atPoint = p.atPoint := rfl
@[simp] theorem Party.orFlags_dropFrom (p : Party) (f : BitVec 32) : (p.orFlags f).dropFrom = p.dropFrom := rfl

/-! ## Party.freeV -/

@[simp] theorem Party.freeV_role (p : Party) (n : Fin 116) : (p.freeV n).role = p.role := rfl
@[simp] theorem Party.freeV_ident (p : Party) (n : Fin 116) : (p.freeV n).ident = p.ident := rfl
@[simp] theorem Party.freeV_part (p : Party) (n : Fin 116) : (p.freeV n).part = p.part := rfl
@[simp] theorem Party.freeV_asid (p : Party) (n : Fin 116) : (p.freeV n).asid = p.asid := rfl
@[simp] theorem Party.freeV_bundle (p : Party) (n : Fin 116) : (p.freeV n).bundle = p.bundle := rfl
@[simp] theorem Party.freeV_stage (p : Party) (n : Fin 116) : (p.freeV n).stage = p.stage := rfl
@[simp] theorem Party.freeV_crew (p : Party) (n : Fin 116) : (p.freeV n).crew = p.crew := rfl
@[simp] theorem Party.freeV_gang (p : Party) (n : Fin 116) : (p.freeV n).gang = p.gang := rfl
@[simp] theorem Party.freeV_crewN (p : Party) (n : Fin 116) : (p.freeV n).crewN = p.crewN := rfl
@[simp] theorem Party.freeV_gridN (p : Party) (n : Fin 116) : (p.freeV n).gridN = p.gridN := rfl
@[simp] theorem Party.freeV_codebase (p : Party) (n : Fin 116) : (p.freeV n).codebase = p.codebase := rfl
@[simp] theorem Party.freeV_psp (p : Party) (n : Fin 116) : (p.freeV n).psp = p.psp := rfl
@[simp] theorem Party.freeV_userh (p : Party) (n : Fin 116) : (p.freeV n).userh = p.userh := rfl
@[simp] theorem Party.freeV_vreg (p : Party) (n : Fin 116) : (p.freeV n).vreg = p.vreg := rfl
@[simp] theorem Party.freeV_sup (p : Party) (n : Fin 116) : (p.freeV n).sup = p.sup := rfl
@[simp] theorem Party.freeV_present (p : Party) (n : Fin 116) : (p.freeV n).present = p.present := rfl
@[simp] theorem Party.freeV_core (p : Party) (n : Fin 116) : (p.freeV n).core = p.core := rfl
@[simp] theorem Party.freeV_sched (p : Party) (n : Fin 116) : (p.freeV n).sched = p.sched := rfl
@[simp] theorem Party.freeV_qports (p : Party) (n : Fin 116) : (p.freeV n).qports = p.qports := rfl
@[simp] theorem Party.freeV_sqports (p : Party) (n : Fin 116) : (p.freeV n).sqports = p.sqports := rfl
@[simp] theorem Party.freeV_vregs (p : Party) (n : Fin 116) : (p.freeV n).vregs = p.vregs.set n none := rfl
@[simp] theorem Party.freeV_preds (p : Party) (n : Fin 116) : (p.freeV n).preds = p.preds := rfl
@[simp] theorem Party.freeV_sregs (p : Party) (n : Fin 116) : (p.freeV n).sregs = p.sregs := rfl
@[simp] theorem Party.freeV_pcv (p : Party) (n : Fin 116) : (p.freeV n).pcv = p.pcv := rfl
@[simp] theorem Party.freeV_epcv (p : Party) (n : Fin 116) : (p.freeV n).epcv = p.epcv := rfl
@[simp] theorem Party.freeV_inmac (p : Party) (n : Fin 116) : (p.freeV n).inmac = p.inmac := rfl
@[simp] theorem Party.freeV_midx (p : Party) (n : Fin 116) : (p.freeV n).midx = p.midx := rfl
@[simp] theorem Party.freeV_rstack (p : Party) (n : Fin 116) : (p.freeV n).rstack = p.rstack := rfl
@[simp] theorem Party.freeV_rsp (p : Party) (n : Fin 116) : (p.freeV n).rsp = p.rsp := rfl
@[simp] theorem Party.freeV_rsdepth (p : Party) (n : Fin 116) : (p.freeV n).rsdepth = p.rsdepth := rfl
@[simp] theorem Party.freeV_retFrom (p : Party) (n : Fin 116) : (p.freeV n).retFrom = p.retFrom := rfl
@[simp] theorem Party.freeV_cause (p : Party) (n : Fin 116) : (p.freeV n).cause = p.cause := rfl
@[simp] theorem Party.freeV_causem (p : Party) (n : Fin 116) : (p.freeV n).causem = p.causem := rfl
@[simp] theorem Party.freeV_causeset (p : Party) (n : Fin 116) : (p.freeV n).causeset = p.causeset := rfl
@[simp] theorem Party.freeV_contrec (p : Party) (n : Fin 116) : (p.freeV n).contrec = p.contrec := rfl
@[simp] theorem Party.freeV_flags (p : Party) (n : Fin 116) : (p.freeV n).flags = p.flags := rfl
@[simp] theorem Party.freeV_grun (p : Party) (n : Fin 116) : (p.freeV n).grun = p.grun := rfl
@[simp] theorem Party.freeV_tdead (p : Party) (n : Fin 116) : (p.freeV n).tdead = p.tdead := rfl
@[simp] theorem Party.freeV_inj (p : Party) (n : Fin 116) : (p.freeV n).inj = p.inj := rfl
@[simp] theorem Party.freeV_wdogv (p : Party) (n : Fin 116) : (p.freeV n).wdogv = p.wdogv := rfl
@[simp] theorem Party.freeV_issued (p : Party) (n : Fin 116) : (p.freeV n).issued = p.issued := rfl
@[simp] theorem Party.freeV_stalled (p : Party) (n : Fin 116) : (p.freeV n).stalled = p.stalled := rfl
@[simp] theorem Party.freeV_port (p : Party) (n : Fin 116) : (p.freeV n).port = p.port := rfl
@[simp] theorem Party.freeV_mate (p : Party) (n : Fin 116) : (p.freeV n).mate = p.mate := rfl
@[simp] theorem Party.freeV_pend (p : Party) (n : Fin 116) : (p.freeV n).pend = p.pend := rfl
@[simp] theorem Party.freeV_nextId (p : Party) (n : Fin 116) : (p.freeV n).nextId = p.nextId := rfl
@[simp] theorem Party.freeV_handler (p : Party) (n : Fin 116) : (p.freeV n).handler = p.handler := rfl
@[simp] theorem Party.freeV_halted (p : Party) (n : Fin 116) : (p.freeV n).halted = p.halted := rfl
@[simp] theorem Party.freeV_replayable (p : Party) (n : Fin 116) : (p.freeV n).replayable = p.replayable := rfl
@[simp] theorem Party.freeV_remapped (p : Party) (n : Fin 116) : (p.freeV n).remapped = p.remapped := rfl
@[simp] theorem Party.freeV_switchedOut (p : Party) (n : Fin 116) : (p.freeV n).switchedOut = p.switchedOut := rfl
@[simp] theorem Party.freeV_yielding (p : Party) (n : Fin 116) : (p.freeV n).yielding = p.yielding := rfl
@[simp] theorem Party.freeV_stopped (p : Party) (n : Fin 116) : (p.freeV n).stopped = p.stopped := rfl
@[simp] theorem Party.freeV_monitor (p : Party) (n : Fin 116) : (p.freeV n).monitor = p.monitor := rfl
@[simp] theorem Party.freeV_copyErr (p : Party) (n : Fin 116) : (p.freeV n).copyErr = p.copyErr := rfl
@[simp] theorem Party.freeV_drawn (p : Party) (n : Fin 116) : (p.freeV n).drawn = p.drawn := rfl
@[simp] theorem Party.freeV_contDue (p : Party) (n : Fin 116) : (p.freeV n).contDue = p.contDue := rfl
@[simp] theorem Party.freeV_dropped (p : Party) (n : Fin 116) : (p.freeV n).dropped = p.dropped := rfl
@[simp] theorem Party.freeV_lastRel (p : Party) (n : Fin 116) : (p.freeV n).lastRel = p.lastRel := rfl
@[simp] theorem Party.freeV_clauses (p : Party) (n : Fin 116) : (p.freeV n).clauses = p.clauses := rfl
@[simp] theorem Party.freeV_votes (p : Party) (n : Fin 116) : (p.freeV n).votes = p.votes := rfl
@[simp] theorem Party.freeV_noFlush (p : Party) (n : Fin 116) : (p.freeV n).noFlush = p.noFlush := rfl
@[simp] theorem Party.freeV_sync (p : Party) (n : Fin 116) : (p.freeV n).sync = p.sync := rfl
@[simp] theorem Party.freeV_bkptPast (p : Party) (n : Fin 116) : (p.freeV n).bkptPast = p.bkptPast := rfl
@[simp] theorem Party.freeV_atPoint (p : Party) (n : Fin 116) : (p.freeV n).atPoint = p.atPoint := rfl
@[simp] theorem Party.freeV_dropFrom (p : Party) (n : Fin 116) : (p.freeV n).dropFrom = p.dropFrom := rfl

/-! ## Party.addPend -/

@[simp] theorem Party.addPend_role (p : Party) (k : PendKind) (act : LaneMask) (accs : List LaneAcc) (ord : Bool) (sc : Scope) (bound : Option (List VReg)) (dests : List (Fin 116)) : (p.addPend k act accs ord sc bound dests).role = p.role := rfl
@[simp] theorem Party.addPend_ident (p : Party) (k : PendKind) (act : LaneMask) (accs : List LaneAcc) (ord : Bool) (sc : Scope) (bound : Option (List VReg)) (dests : List (Fin 116)) : (p.addPend k act accs ord sc bound dests).ident = p.ident := rfl
@[simp] theorem Party.addPend_part (p : Party) (k : PendKind) (act : LaneMask) (accs : List LaneAcc) (ord : Bool) (sc : Scope) (bound : Option (List VReg)) (dests : List (Fin 116)) : (p.addPend k act accs ord sc bound dests).part = p.part := rfl
@[simp] theorem Party.addPend_asid (p : Party) (k : PendKind) (act : LaneMask) (accs : List LaneAcc) (ord : Bool) (sc : Scope) (bound : Option (List VReg)) (dests : List (Fin 116)) : (p.addPend k act accs ord sc bound dests).asid = p.asid := rfl
@[simp] theorem Party.addPend_bundle (p : Party) (k : PendKind) (act : LaneMask) (accs : List LaneAcc) (ord : Bool) (sc : Scope) (bound : Option (List VReg)) (dests : List (Fin 116)) : (p.addPend k act accs ord sc bound dests).bundle = p.bundle := rfl
@[simp] theorem Party.addPend_stage (p : Party) (k : PendKind) (act : LaneMask) (accs : List LaneAcc) (ord : Bool) (sc : Scope) (bound : Option (List VReg)) (dests : List (Fin 116)) : (p.addPend k act accs ord sc bound dests).stage = p.stage := rfl
@[simp] theorem Party.addPend_crew (p : Party) (k : PendKind) (act : LaneMask) (accs : List LaneAcc) (ord : Bool) (sc : Scope) (bound : Option (List VReg)) (dests : List (Fin 116)) : (p.addPend k act accs ord sc bound dests).crew = p.crew := rfl
@[simp] theorem Party.addPend_gang (p : Party) (k : PendKind) (act : LaneMask) (accs : List LaneAcc) (ord : Bool) (sc : Scope) (bound : Option (List VReg)) (dests : List (Fin 116)) : (p.addPend k act accs ord sc bound dests).gang = p.gang := rfl
@[simp] theorem Party.addPend_crewN (p : Party) (k : PendKind) (act : LaneMask) (accs : List LaneAcc) (ord : Bool) (sc : Scope) (bound : Option (List VReg)) (dests : List (Fin 116)) : (p.addPend k act accs ord sc bound dests).crewN = p.crewN := rfl
@[simp] theorem Party.addPend_gridN (p : Party) (k : PendKind) (act : LaneMask) (accs : List LaneAcc) (ord : Bool) (sc : Scope) (bound : Option (List VReg)) (dests : List (Fin 116)) : (p.addPend k act accs ord sc bound dests).gridN = p.gridN := rfl
@[simp] theorem Party.addPend_codebase (p : Party) (k : PendKind) (act : LaneMask) (accs : List LaneAcc) (ord : Bool) (sc : Scope) (bound : Option (List VReg)) (dests : List (Fin 116)) : (p.addPend k act accs ord sc bound dests).codebase = p.codebase := rfl
@[simp] theorem Party.addPend_psp (p : Party) (k : PendKind) (act : LaneMask) (accs : List LaneAcc) (ord : Bool) (sc : Scope) (bound : Option (List VReg)) (dests : List (Fin 116)) : (p.addPend k act accs ord sc bound dests).psp = p.psp := rfl
@[simp] theorem Party.addPend_userh (p : Party) (k : PendKind) (act : LaneMask) (accs : List LaneAcc) (ord : Bool) (sc : Scope) (bound : Option (List VReg)) (dests : List (Fin 116)) : (p.addPend k act accs ord sc bound dests).userh = p.userh := rfl
@[simp] theorem Party.addPend_vreg (p : Party) (k : PendKind) (act : LaneMask) (accs : List LaneAcc) (ord : Bool) (sc : Scope) (bound : Option (List VReg)) (dests : List (Fin 116)) : (p.addPend k act accs ord sc bound dests).vreg = p.vreg := rfl
@[simp] theorem Party.addPend_sup (p : Party) (k : PendKind) (act : LaneMask) (accs : List LaneAcc) (ord : Bool) (sc : Scope) (bound : Option (List VReg)) (dests : List (Fin 116)) : (p.addPend k act accs ord sc bound dests).sup = p.sup := rfl
@[simp] theorem Party.addPend_present (p : Party) (k : PendKind) (act : LaneMask) (accs : List LaneAcc) (ord : Bool) (sc : Scope) (bound : Option (List VReg)) (dests : List (Fin 116)) : (p.addPend k act accs ord sc bound dests).present = p.present := rfl
@[simp] theorem Party.addPend_core (p : Party) (k : PendKind) (act : LaneMask) (accs : List LaneAcc) (ord : Bool) (sc : Scope) (bound : Option (List VReg)) (dests : List (Fin 116)) : (p.addPend k act accs ord sc bound dests).core = p.core := rfl
@[simp] theorem Party.addPend_sched (p : Party) (k : PendKind) (act : LaneMask) (accs : List LaneAcc) (ord : Bool) (sc : Scope) (bound : Option (List VReg)) (dests : List (Fin 116)) : (p.addPend k act accs ord sc bound dests).sched = p.sched := rfl
@[simp] theorem Party.addPend_qports (p : Party) (k : PendKind) (act : LaneMask) (accs : List LaneAcc) (ord : Bool) (sc : Scope) (bound : Option (List VReg)) (dests : List (Fin 116)) : (p.addPend k act accs ord sc bound dests).qports = p.qports := rfl
@[simp] theorem Party.addPend_sqports (p : Party) (k : PendKind) (act : LaneMask) (accs : List LaneAcc) (ord : Bool) (sc : Scope) (bound : Option (List VReg)) (dests : List (Fin 116)) : (p.addPend k act accs ord sc bound dests).sqports = p.sqports := rfl
@[simp] theorem Party.addPend_vregs (p : Party) (k : PendKind) (act : LaneMask) (accs : List LaneAcc) (ord : Bool) (sc : Scope) (bound : Option (List VReg)) (dests : List (Fin 116)) : (p.addPend k act accs ord sc bound dests).vregs = p.vregs := rfl
@[simp] theorem Party.addPend_preds (p : Party) (k : PendKind) (act : LaneMask) (accs : List LaneAcc) (ord : Bool) (sc : Scope) (bound : Option (List VReg)) (dests : List (Fin 116)) : (p.addPend k act accs ord sc bound dests).preds = p.preds := rfl
@[simp] theorem Party.addPend_sregs (p : Party) (k : PendKind) (act : LaneMask) (accs : List LaneAcc) (ord : Bool) (sc : Scope) (bound : Option (List VReg)) (dests : List (Fin 116)) : (p.addPend k act accs ord sc bound dests).sregs = p.sregs := rfl
@[simp] theorem Party.addPend_pcv (p : Party) (k : PendKind) (act : LaneMask) (accs : List LaneAcc) (ord : Bool) (sc : Scope) (bound : Option (List VReg)) (dests : List (Fin 116)) : (p.addPend k act accs ord sc bound dests).pcv = p.pcv := rfl
@[simp] theorem Party.addPend_epcv (p : Party) (k : PendKind) (act : LaneMask) (accs : List LaneAcc) (ord : Bool) (sc : Scope) (bound : Option (List VReg)) (dests : List (Fin 116)) : (p.addPend k act accs ord sc bound dests).epcv = p.epcv := rfl
@[simp] theorem Party.addPend_inmac (p : Party) (k : PendKind) (act : LaneMask) (accs : List LaneAcc) (ord : Bool) (sc : Scope) (bound : Option (List VReg)) (dests : List (Fin 116)) : (p.addPend k act accs ord sc bound dests).inmac = p.inmac := rfl
@[simp] theorem Party.addPend_midx (p : Party) (k : PendKind) (act : LaneMask) (accs : List LaneAcc) (ord : Bool) (sc : Scope) (bound : Option (List VReg)) (dests : List (Fin 116)) : (p.addPend k act accs ord sc bound dests).midx = p.midx := rfl
@[simp] theorem Party.addPend_rstack (p : Party) (k : PendKind) (act : LaneMask) (accs : List LaneAcc) (ord : Bool) (sc : Scope) (bound : Option (List VReg)) (dests : List (Fin 116)) : (p.addPend k act accs ord sc bound dests).rstack = p.rstack := rfl
@[simp] theorem Party.addPend_rsp (p : Party) (k : PendKind) (act : LaneMask) (accs : List LaneAcc) (ord : Bool) (sc : Scope) (bound : Option (List VReg)) (dests : List (Fin 116)) : (p.addPend k act accs ord sc bound dests).rsp = p.rsp := rfl
@[simp] theorem Party.addPend_rsdepth (p : Party) (k : PendKind) (act : LaneMask) (accs : List LaneAcc) (ord : Bool) (sc : Scope) (bound : Option (List VReg)) (dests : List (Fin 116)) : (p.addPend k act accs ord sc bound dests).rsdepth = p.rsdepth := rfl
@[simp] theorem Party.addPend_retFrom (p : Party) (k : PendKind) (act : LaneMask) (accs : List LaneAcc) (ord : Bool) (sc : Scope) (bound : Option (List VReg)) (dests : List (Fin 116)) : (p.addPend k act accs ord sc bound dests).retFrom = p.retFrom := rfl
@[simp] theorem Party.addPend_cause (p : Party) (k : PendKind) (act : LaneMask) (accs : List LaneAcc) (ord : Bool) (sc : Scope) (bound : Option (List VReg)) (dests : List (Fin 116)) : (p.addPend k act accs ord sc bound dests).cause = p.cause := rfl
@[simp] theorem Party.addPend_causem (p : Party) (k : PendKind) (act : LaneMask) (accs : List LaneAcc) (ord : Bool) (sc : Scope) (bound : Option (List VReg)) (dests : List (Fin 116)) : (p.addPend k act accs ord sc bound dests).causem = p.causem := rfl
@[simp] theorem Party.addPend_causeset (p : Party) (k : PendKind) (act : LaneMask) (accs : List LaneAcc) (ord : Bool) (sc : Scope) (bound : Option (List VReg)) (dests : List (Fin 116)) : (p.addPend k act accs ord sc bound dests).causeset = p.causeset := rfl
@[simp] theorem Party.addPend_contrec (p : Party) (k : PendKind) (act : LaneMask) (accs : List LaneAcc) (ord : Bool) (sc : Scope) (bound : Option (List VReg)) (dests : List (Fin 116)) : (p.addPend k act accs ord sc bound dests).contrec = p.contrec := rfl
@[simp] theorem Party.addPend_flags (p : Party) (k : PendKind) (act : LaneMask) (accs : List LaneAcc) (ord : Bool) (sc : Scope) (bound : Option (List VReg)) (dests : List (Fin 116)) : (p.addPend k act accs ord sc bound dests).flags = p.flags := rfl
@[simp] theorem Party.addPend_grun (p : Party) (k : PendKind) (act : LaneMask) (accs : List LaneAcc) (ord : Bool) (sc : Scope) (bound : Option (List VReg)) (dests : List (Fin 116)) : (p.addPend k act accs ord sc bound dests).grun = p.grun := rfl
@[simp] theorem Party.addPend_tdead (p : Party) (k : PendKind) (act : LaneMask) (accs : List LaneAcc) (ord : Bool) (sc : Scope) (bound : Option (List VReg)) (dests : List (Fin 116)) : (p.addPend k act accs ord sc bound dests).tdead = p.tdead := rfl
@[simp] theorem Party.addPend_inj (p : Party) (k : PendKind) (act : LaneMask) (accs : List LaneAcc) (ord : Bool) (sc : Scope) (bound : Option (List VReg)) (dests : List (Fin 116)) : (p.addPend k act accs ord sc bound dests).inj = p.inj := rfl
@[simp] theorem Party.addPend_wdogv (p : Party) (k : PendKind) (act : LaneMask) (accs : List LaneAcc) (ord : Bool) (sc : Scope) (bound : Option (List VReg)) (dests : List (Fin 116)) : (p.addPend k act accs ord sc bound dests).wdogv = p.wdogv := rfl
@[simp] theorem Party.addPend_issued (p : Party) (k : PendKind) (act : LaneMask) (accs : List LaneAcc) (ord : Bool) (sc : Scope) (bound : Option (List VReg)) (dests : List (Fin 116)) : (p.addPend k act accs ord sc bound dests).issued = p.issued := rfl
@[simp] theorem Party.addPend_stalled (p : Party) (k : PendKind) (act : LaneMask) (accs : List LaneAcc) (ord : Bool) (sc : Scope) (bound : Option (List VReg)) (dests : List (Fin 116)) : (p.addPend k act accs ord sc bound dests).stalled = p.stalled := rfl
@[simp] theorem Party.addPend_port (p : Party) (k : PendKind) (act : LaneMask) (accs : List LaneAcc) (ord : Bool) (sc : Scope) (bound : Option (List VReg)) (dests : List (Fin 116)) : (p.addPend k act accs ord sc bound dests).port = p.port := rfl
@[simp] theorem Party.addPend_mate (p : Party) (k : PendKind) (act : LaneMask) (accs : List LaneAcc) (ord : Bool) (sc : Scope) (bound : Option (List VReg)) (dests : List (Fin 116)) : (p.addPend k act accs ord sc bound dests).mate = p.mate := rfl
@[simp] theorem Party.addPend_nextId (p : Party) (k : PendKind) (act : LaneMask) (accs : List LaneAcc) (ord : Bool) (sc : Scope) (bound : Option (List VReg)) (dests : List (Fin 116)) : (p.addPend k act accs ord sc bound dests).nextId = p.nextId + 1 := rfl
@[simp] theorem Party.addPend_handler (p : Party) (k : PendKind) (act : LaneMask) (accs : List LaneAcc) (ord : Bool) (sc : Scope) (bound : Option (List VReg)) (dests : List (Fin 116)) : (p.addPend k act accs ord sc bound dests).handler = p.handler := rfl
@[simp] theorem Party.addPend_halted (p : Party) (k : PendKind) (act : LaneMask) (accs : List LaneAcc) (ord : Bool) (sc : Scope) (bound : Option (List VReg)) (dests : List (Fin 116)) : (p.addPend k act accs ord sc bound dests).halted = p.halted := rfl
@[simp] theorem Party.addPend_replayable (p : Party) (k : PendKind) (act : LaneMask) (accs : List LaneAcc) (ord : Bool) (sc : Scope) (bound : Option (List VReg)) (dests : List (Fin 116)) : (p.addPend k act accs ord sc bound dests).replayable = p.replayable := rfl
@[simp] theorem Party.addPend_remapped (p : Party) (k : PendKind) (act : LaneMask) (accs : List LaneAcc) (ord : Bool) (sc : Scope) (bound : Option (List VReg)) (dests : List (Fin 116)) : (p.addPend k act accs ord sc bound dests).remapped = p.remapped := rfl
@[simp] theorem Party.addPend_switchedOut (p : Party) (k : PendKind) (act : LaneMask) (accs : List LaneAcc) (ord : Bool) (sc : Scope) (bound : Option (List VReg)) (dests : List (Fin 116)) : (p.addPend k act accs ord sc bound dests).switchedOut = p.switchedOut := rfl
@[simp] theorem Party.addPend_yielding (p : Party) (k : PendKind) (act : LaneMask) (accs : List LaneAcc) (ord : Bool) (sc : Scope) (bound : Option (List VReg)) (dests : List (Fin 116)) : (p.addPend k act accs ord sc bound dests).yielding = p.yielding := rfl
@[simp] theorem Party.addPend_stopped (p : Party) (k : PendKind) (act : LaneMask) (accs : List LaneAcc) (ord : Bool) (sc : Scope) (bound : Option (List VReg)) (dests : List (Fin 116)) : (p.addPend k act accs ord sc bound dests).stopped = p.stopped := rfl
@[simp] theorem Party.addPend_monitor (p : Party) (k : PendKind) (act : LaneMask) (accs : List LaneAcc) (ord : Bool) (sc : Scope) (bound : Option (List VReg)) (dests : List (Fin 116)) : (p.addPend k act accs ord sc bound dests).monitor = p.monitor := rfl
@[simp] theorem Party.addPend_copyErr (p : Party) (k : PendKind) (act : LaneMask) (accs : List LaneAcc) (ord : Bool) (sc : Scope) (bound : Option (List VReg)) (dests : List (Fin 116)) : (p.addPend k act accs ord sc bound dests).copyErr = p.copyErr := rfl
@[simp] theorem Party.addPend_drawn (p : Party) (k : PendKind) (act : LaneMask) (accs : List LaneAcc) (ord : Bool) (sc : Scope) (bound : Option (List VReg)) (dests : List (Fin 116)) : (p.addPend k act accs ord sc bound dests).drawn = p.drawn := rfl
@[simp] theorem Party.addPend_contDue (p : Party) (k : PendKind) (act : LaneMask) (accs : List LaneAcc) (ord : Bool) (sc : Scope) (bound : Option (List VReg)) (dests : List (Fin 116)) : (p.addPend k act accs ord sc bound dests).contDue = p.contDue := rfl
@[simp] theorem Party.addPend_dropped (p : Party) (k : PendKind) (act : LaneMask) (accs : List LaneAcc) (ord : Bool) (sc : Scope) (bound : Option (List VReg)) (dests : List (Fin 116)) : (p.addPend k act accs ord sc bound dests).dropped = p.dropped := rfl
@[simp] theorem Party.addPend_lastRel (p : Party) (k : PendKind) (act : LaneMask) (accs : List LaneAcc) (ord : Bool) (sc : Scope) (bound : Option (List VReg)) (dests : List (Fin 116)) : (p.addPend k act accs ord sc bound dests).lastRel = p.lastRel := rfl
@[simp] theorem Party.addPend_clauses (p : Party) (k : PendKind) (act : LaneMask) (accs : List LaneAcc) (ord : Bool) (sc : Scope) (bound : Option (List VReg)) (dests : List (Fin 116)) : (p.addPend k act accs ord sc bound dests).clauses = p.clauses := rfl
@[simp] theorem Party.addPend_votes (p : Party) (k : PendKind) (act : LaneMask) (accs : List LaneAcc) (ord : Bool) (sc : Scope) (bound : Option (List VReg)) (dests : List (Fin 116)) : (p.addPend k act accs ord sc bound dests).votes = p.votes := rfl
@[simp] theorem Party.addPend_noFlush (p : Party) (k : PendKind) (act : LaneMask) (accs : List LaneAcc) (ord : Bool) (sc : Scope) (bound : Option (List VReg)) (dests : List (Fin 116)) : (p.addPend k act accs ord sc bound dests).noFlush = p.noFlush := rfl
@[simp] theorem Party.addPend_sync (p : Party) (k : PendKind) (act : LaneMask) (accs : List LaneAcc) (ord : Bool) (sc : Scope) (bound : Option (List VReg)) (dests : List (Fin 116)) : (p.addPend k act accs ord sc bound dests).sync = p.sync := rfl
@[simp] theorem Party.addPend_bkptPast (p : Party) (k : PendKind) (act : LaneMask) (accs : List LaneAcc) (ord : Bool) (sc : Scope) (bound : Option (List VReg)) (dests : List (Fin 116)) : (p.addPend k act accs ord sc bound dests).bkptPast = p.bkptPast := rfl
@[simp] theorem Party.addPend_atPoint (p : Party) (k : PendKind) (act : LaneMask) (accs : List LaneAcc) (ord : Bool) (sc : Scope) (bound : Option (List VReg)) (dests : List (Fin 116)) : (p.addPend k act accs ord sc bound dests).atPoint = p.atPoint := rfl
@[simp] theorem Party.addPend_dropFrom (p : Party) (k : PendKind) (act : LaneMask) (accs : List LaneAcc) (ord : Bool) (sc : Scope) (bound : Option (List VReg)) (dests : List (Fin 116)) : (p.addPend k act accs ord sc bound dests).dropFrom = p.dropFrom := rfl

/-! ## Party.contTaken -/

@[simp] theorem Party.contTaken_role (p : Party)  : (p.contTaken ).role = p.role := rfl
@[simp] theorem Party.contTaken_ident (p : Party)  : (p.contTaken ).ident = p.ident := rfl
@[simp] theorem Party.contTaken_part (p : Party)  : (p.contTaken ).part = p.part := rfl
@[simp] theorem Party.contTaken_asid (p : Party)  : (p.contTaken ).asid = p.asid := rfl
@[simp] theorem Party.contTaken_bundle (p : Party)  : (p.contTaken ).bundle = p.bundle := rfl
@[simp] theorem Party.contTaken_stage (p : Party)  : (p.contTaken ).stage = p.stage := rfl
@[simp] theorem Party.contTaken_crew (p : Party)  : (p.contTaken ).crew = p.crew := rfl
@[simp] theorem Party.contTaken_gang (p : Party)  : (p.contTaken ).gang = p.gang := rfl
@[simp] theorem Party.contTaken_crewN (p : Party)  : (p.contTaken ).crewN = p.crewN := rfl
@[simp] theorem Party.contTaken_gridN (p : Party)  : (p.contTaken ).gridN = p.gridN := rfl
@[simp] theorem Party.contTaken_codebase (p : Party)  : (p.contTaken ).codebase = p.codebase := rfl
@[simp] theorem Party.contTaken_psp (p : Party)  : (p.contTaken ).psp = p.psp := rfl
@[simp] theorem Party.contTaken_userh (p : Party)  : (p.contTaken ).userh = p.userh := rfl
@[simp] theorem Party.contTaken_vreg (p : Party)  : (p.contTaken ).vreg = p.vreg := rfl
@[simp] theorem Party.contTaken_sup (p : Party)  : (p.contTaken ).sup = p.sup := rfl
@[simp] theorem Party.contTaken_present (p : Party)  : (p.contTaken ).present = p.present := rfl
@[simp] theorem Party.contTaken_core (p : Party)  : (p.contTaken ).core = p.core := rfl
@[simp] theorem Party.contTaken_sched (p : Party)  : (p.contTaken ).sched = p.sched := rfl
@[simp] theorem Party.contTaken_qports (p : Party)  : (p.contTaken ).qports = p.qports := rfl
@[simp] theorem Party.contTaken_sqports (p : Party)  : (p.contTaken ).sqports = p.sqports := rfl
@[simp] theorem Party.contTaken_vregs (p : Party)  : (p.contTaken ).vregs = p.vregs := rfl
@[simp] theorem Party.contTaken_preds (p : Party)  : (p.contTaken ).preds = p.preds := rfl
@[simp] theorem Party.contTaken_sregs (p : Party)  : (p.contTaken ).sregs = p.sregs := rfl
@[simp] theorem Party.contTaken_pcv (p : Party)  : (p.contTaken ).pcv = p.pcv := rfl
@[simp] theorem Party.contTaken_epcv (p : Party)  : (p.contTaken ).epcv = p.epcv := rfl
@[simp] theorem Party.contTaken_inmac (p : Party)  : (p.contTaken ).inmac = p.inmac := rfl
@[simp] theorem Party.contTaken_midx (p : Party)  : (p.contTaken ).midx = p.midx := rfl
@[simp] theorem Party.contTaken_rstack (p : Party)  : (p.contTaken ).rstack = p.rstack := rfl
@[simp] theorem Party.contTaken_rsp (p : Party)  : (p.contTaken ).rsp = p.rsp := rfl
@[simp] theorem Party.contTaken_rsdepth (p : Party)  : (p.contTaken ).rsdepth = p.rsdepth := rfl
@[simp] theorem Party.contTaken_retFrom (p : Party)  : (p.contTaken ).retFrom = p.retFrom := rfl
@[simp] theorem Party.contTaken_cause (p : Party)  : (p.contTaken ).cause = p.cause := rfl
@[simp] theorem Party.contTaken_causem (p : Party)  : (p.contTaken ).causem = p.causem := rfl
@[simp] theorem Party.contTaken_causeset (p : Party)  : (p.contTaken ).causeset = p.causeset := rfl
@[simp] theorem Party.contTaken_contrec (p : Party)  : (p.contTaken ).contrec = p.contrec := rfl
@[simp] theorem Party.contTaken_flags (p : Party)  : (p.contTaken ).flags = p.flags := rfl
@[simp] theorem Party.contTaken_grun (p : Party)  : (p.contTaken ).grun = p.grun := rfl
@[simp] theorem Party.contTaken_tdead (p : Party)  : (p.contTaken ).tdead = p.tdead := rfl
@[simp] theorem Party.contTaken_inj (p : Party)  : (p.contTaken ).inj = p.inj := rfl
@[simp] theorem Party.contTaken_wdogv (p : Party)  : (p.contTaken ).wdogv = p.wdogv := rfl
@[simp] theorem Party.contTaken_issued (p : Party)  : (p.contTaken ).issued = p.issued := rfl
@[simp] theorem Party.contTaken_stalled (p : Party)  : (p.contTaken ).stalled = p.stalled := rfl
@[simp] theorem Party.contTaken_port (p : Party)  : (p.contTaken ).port = p.port := rfl
@[simp] theorem Party.contTaken_mate (p : Party)  : (p.contTaken ).mate = p.mate := rfl
@[simp] theorem Party.contTaken_pend (p : Party)  : (p.contTaken ).pend = p.pend := rfl
@[simp] theorem Party.contTaken_nextId (p : Party)  : (p.contTaken ).nextId = p.nextId := rfl
@[simp] theorem Party.contTaken_handler (p : Party)  : (p.contTaken ).handler = p.handler := rfl
@[simp] theorem Party.contTaken_halted (p : Party)  : (p.contTaken ).halted = p.halted := rfl
@[simp] theorem Party.contTaken_replayable (p : Party)  : (p.contTaken ).replayable = p.replayable := rfl
@[simp] theorem Party.contTaken_remapped (p : Party)  : (p.contTaken ).remapped = p.remapped := rfl
@[simp] theorem Party.contTaken_switchedOut (p : Party)  : (p.contTaken ).switchedOut = p.switchedOut := rfl
@[simp] theorem Party.contTaken_yielding (p : Party)  : (p.contTaken ).yielding = p.yielding := rfl
@[simp] theorem Party.contTaken_stopped (p : Party)  : (p.contTaken ).stopped = p.stopped := rfl
@[simp] theorem Party.contTaken_monitor (p : Party)  : (p.contTaken ).monitor = p.monitor := rfl
@[simp] theorem Party.contTaken_copyErr (p : Party)  : (p.contTaken ).copyErr = p.copyErr := rfl
@[simp] theorem Party.contTaken_drawn (p : Party)  : (p.contTaken ).drawn = [] := rfl
@[simp] theorem Party.contTaken_contDue (p : Party)  : (p.contTaken ).contDue = false := rfl
@[simp] theorem Party.contTaken_dropped (p : Party)  : (p.contTaken ).dropped = 0 := rfl
@[simp] theorem Party.contTaken_lastRel (p : Party)  : (p.contTaken ).lastRel = p.lastRel := rfl
@[simp] theorem Party.contTaken_clauses (p : Party)  : (p.contTaken ).clauses = p.clauses := rfl
@[simp] theorem Party.contTaken_votes (p : Party)  : (p.contTaken ).votes = p.votes := rfl
@[simp] theorem Party.contTaken_noFlush (p : Party)  : (p.contTaken ).noFlush = p.noFlush := rfl
@[simp] theorem Party.contTaken_sync (p : Party)  : (p.contTaken ).sync = p.sync := rfl
@[simp] theorem Party.contTaken_bkptPast (p : Party)  : (p.contTaken ).bkptPast = p.bkptPast := rfl
@[simp] theorem Party.contTaken_atPoint (p : Party)  : (p.contTaken ).atPoint = p.atPoint := rfl
@[simp] theorem Party.contTaken_dropFrom (p : Party)  : (p.contTaken ).dropFrom = none := rfl

/-! ## Party.swapPorts -/

@[simp] theorem Party.swapPorts_role (p : Party)  : (p.swapPorts ).role = p.role := rfl
@[simp] theorem Party.swapPorts_ident (p : Party)  : (p.swapPorts ).ident = p.ident := rfl
@[simp] theorem Party.swapPorts_part (p : Party)  : (p.swapPorts ).part = p.part := rfl
@[simp] theorem Party.swapPorts_asid (p : Party)  : (p.swapPorts ).asid = p.asid := rfl
@[simp] theorem Party.swapPorts_bundle (p : Party)  : (p.swapPorts ).bundle = p.bundle := rfl
@[simp] theorem Party.swapPorts_stage (p : Party)  : (p.swapPorts ).stage = p.stage := rfl
@[simp] theorem Party.swapPorts_crew (p : Party)  : (p.swapPorts ).crew = p.crew := rfl
@[simp] theorem Party.swapPorts_gang (p : Party)  : (p.swapPorts ).gang = p.gang := rfl
@[simp] theorem Party.swapPorts_crewN (p : Party)  : (p.swapPorts ).crewN = p.crewN := rfl
@[simp] theorem Party.swapPorts_gridN (p : Party)  : (p.swapPorts ).gridN = p.gridN := rfl
@[simp] theorem Party.swapPorts_codebase (p : Party)  : (p.swapPorts ).codebase = p.codebase := rfl
@[simp] theorem Party.swapPorts_psp (p : Party)  : (p.swapPorts ).psp = p.psp := rfl
@[simp] theorem Party.swapPorts_userh (p : Party)  : (p.swapPorts ).userh = p.userh := rfl
@[simp] theorem Party.swapPorts_vreg (p : Party)  : (p.swapPorts ).vreg = p.vreg := rfl
@[simp] theorem Party.swapPorts_sup (p : Party)  : (p.swapPorts ).sup = p.sup := rfl
@[simp] theorem Party.swapPorts_present (p : Party)  : (p.swapPorts ).present = p.present := rfl
@[simp] theorem Party.swapPorts_core (p : Party)  : (p.swapPorts ).core = p.core := rfl
@[simp] theorem Party.swapPorts_sched (p : Party)  : (p.swapPorts ).sched = p.sched := rfl
@[simp] theorem Party.swapPorts_qports (p : Party)  : (p.swapPorts ).qports = p.qports := rfl
@[simp] theorem Party.swapPorts_sqports (p : Party)  : (p.swapPorts ).sqports = p.sqports := rfl
@[simp] theorem Party.swapPorts_vregs (p : Party)  : (p.swapPorts ).vregs = p.vregs := rfl
@[simp] theorem Party.swapPorts_preds (p : Party)  : (p.swapPorts ).preds = p.preds := rfl
@[simp] theorem Party.swapPorts_sregs (p : Party)  : (p.swapPorts ).sregs = p.sregs := rfl
@[simp] theorem Party.swapPorts_pcv (p : Party)  : (p.swapPorts ).pcv = p.pcv := rfl
@[simp] theorem Party.swapPorts_epcv (p : Party)  : (p.swapPorts ).epcv = p.epcv := rfl
@[simp] theorem Party.swapPorts_inmac (p : Party)  : (p.swapPorts ).inmac = p.inmac := rfl
@[simp] theorem Party.swapPorts_midx (p : Party)  : (p.swapPorts ).midx = p.midx := rfl
@[simp] theorem Party.swapPorts_rstack (p : Party)  : (p.swapPorts ).rstack = p.rstack := rfl
@[simp] theorem Party.swapPorts_rsp (p : Party)  : (p.swapPorts ).rsp = p.rsp := rfl
@[simp] theorem Party.swapPorts_rsdepth (p : Party)  : (p.swapPorts ).rsdepth = p.rsdepth := rfl
@[simp] theorem Party.swapPorts_retFrom (p : Party)  : (p.swapPorts ).retFrom = p.retFrom := rfl
@[simp] theorem Party.swapPorts_cause (p : Party)  : (p.swapPorts ).cause = p.cause := rfl
@[simp] theorem Party.swapPorts_causem (p : Party)  : (p.swapPorts ).causem = p.causem := rfl
@[simp] theorem Party.swapPorts_causeset (p : Party)  : (p.swapPorts ).causeset = p.causeset := rfl
@[simp] theorem Party.swapPorts_contrec (p : Party)  : (p.swapPorts ).contrec = p.contrec := rfl
@[simp] theorem Party.swapPorts_flags (p : Party)  : (p.swapPorts ).flags = p.flags := rfl
@[simp] theorem Party.swapPorts_grun (p : Party)  : (p.swapPorts ).grun = p.grun := rfl
@[simp] theorem Party.swapPorts_tdead (p : Party)  : (p.swapPorts ).tdead = p.tdead := rfl
@[simp] theorem Party.swapPorts_inj (p : Party)  : (p.swapPorts ).inj = p.inj := rfl
@[simp] theorem Party.swapPorts_wdogv (p : Party)  : (p.swapPorts ).wdogv = p.wdogv := rfl
@[simp] theorem Party.swapPorts_issued (p : Party)  : (p.swapPorts ).issued = p.issued := rfl
@[simp] theorem Party.swapPorts_stalled (p : Party)  : (p.swapPorts ).stalled = p.stalled := rfl
@[simp] theorem Party.swapPorts_port (p : Party)  : (p.swapPorts ).port = p.mate := rfl
@[simp] theorem Party.swapPorts_mate (p : Party)  : (p.swapPorts ).mate = p.port := rfl
@[simp] theorem Party.swapPorts_pend (p : Party)  : (p.swapPorts ).pend = p.pend := rfl
@[simp] theorem Party.swapPorts_nextId (p : Party)  : (p.swapPorts ).nextId = p.nextId := rfl
@[simp] theorem Party.swapPorts_handler (p : Party)  : (p.swapPorts ).handler = p.handler := rfl
@[simp] theorem Party.swapPorts_halted (p : Party)  : (p.swapPorts ).halted = p.halted := rfl
@[simp] theorem Party.swapPorts_replayable (p : Party)  : (p.swapPorts ).replayable = p.replayable := rfl
@[simp] theorem Party.swapPorts_remapped (p : Party)  : (p.swapPorts ).remapped = p.remapped := rfl
@[simp] theorem Party.swapPorts_switchedOut (p : Party)  : (p.swapPorts ).switchedOut = p.switchedOut := rfl
@[simp] theorem Party.swapPorts_yielding (p : Party)  : (p.swapPorts ).yielding = p.yielding := rfl
@[simp] theorem Party.swapPorts_stopped (p : Party)  : (p.swapPorts ).stopped = p.stopped := rfl
@[simp] theorem Party.swapPorts_monitor (p : Party)  : (p.swapPorts ).monitor = p.monitor := rfl
@[simp] theorem Party.swapPorts_copyErr (p : Party)  : (p.swapPorts ).copyErr = p.copyErr := rfl
@[simp] theorem Party.swapPorts_drawn (p : Party)  : (p.swapPorts ).drawn = p.drawn := rfl
@[simp] theorem Party.swapPorts_contDue (p : Party)  : (p.swapPorts ).contDue = p.contDue := rfl
@[simp] theorem Party.swapPorts_dropped (p : Party)  : (p.swapPorts ).dropped = p.dropped := rfl
@[simp] theorem Party.swapPorts_lastRel (p : Party)  : (p.swapPorts ).lastRel = p.lastRel := rfl
@[simp] theorem Party.swapPorts_clauses (p : Party)  : (p.swapPorts ).clauses = p.clauses := rfl
@[simp] theorem Party.swapPorts_votes (p : Party)  : (p.swapPorts ).votes = p.votes := rfl
@[simp] theorem Party.swapPorts_noFlush (p : Party)  : (p.swapPorts ).noFlush = p.noFlush := rfl
@[simp] theorem Party.swapPorts_sync (p : Party)  : (p.swapPorts ).sync = p.sync := rfl
@[simp] theorem Party.swapPorts_bkptPast (p : Party)  : (p.swapPorts ).bkptPast = p.bkptPast := rfl
@[simp] theorem Party.swapPorts_atPoint (p : Party)  : (p.swapPorts ).atPoint = p.atPoint := rfl
@[simp] theorem Party.swapPorts_dropFrom (p : Party)  : (p.swapPorts ).dropFrom = p.dropFrom := rfl

/-- The later update of the party stands. -/
@[simp] theorem setMe_setMe (s : State) (p q : Party) : (s.setMe p).setMe q = s.setMe q := rfl

end Sys2Proof.Machine
end

