-- ==== Sys2Proof/Laws/Operands.lean ====
section
/-! SUPPORT. What the operand forms do on registers (R22-R31, R95, R96, R105): reading them changes nothing, a lane word reads, frees its
marked sources and writes the active lanes, a uniform word writes one register. -/

namespace Sys2Proof.Machine

open Sys2Proof

@[simp] theorem begun_seeV (s : State) (n : Fin 116) : s.begun.seeV n = s.seeV n := rfl
@[simp] theorem begun_seeS (s : State) (n : Fin 56) : s.begun.seeS n = s.seeS n := rfl
@[simp] theorem begun_active (s : State) : s.begun.me.active = s.me.active := rfl
@[simp] theorem begun_fits (s : State) (a b : List (Fin 116)) : s.begun.me.fits a b = s.me.fits a b := rfl
@[simp] theorem begun_loads (s : State) : s.begun.me.loads = s.me.loads := rfl
@[simp] theorem begun_stores (s : State) : s.begun.me.stores = s.me.stores := rfl
@[simp] theorem begun_engines (s : State) : s.begun.me.engines = s.me.engines := rfl
@[simp] theorem begun_clockUnit (s : State) : s.begun.me.clockUnit = s.me.clockUnit := rfl
@[simp] theorem begun_core (s : State) (n : Nat) : s.begun.core n = s.core n := rfl
@[simp] theorem begun_wait (s : State) : s.begun.me.port.wait = s.me.port.wait := rfl

/-- Reading registers answers what each name shows, and changes nothing. -/
theorem readVs_regs (ns : List (Fin 116)) (c : List (Fin 8 × VReg)) (s : State) :
    readVs (ns.map VOp.v) c s = .ok (ns.map s.seeV, s) := by
  induction ns with
  | nil => rfl
  | cons n r ih => simp only [List.map_cons, readVs, act_bind, act_get, ih, act_pure]

/-- Reading uniform registers answers what each shows, and changes nothing. -/
theorem readSs_regs (ns : List (Fin 56)) (c : List (Fin 8 × SReg)) (s : State) :
    readSs (ns.map SOp.s) c s = .ok (ns.map s.seeS, s) := by
  induction ns with
  | nil => rfl
  | cons n r ih => simp only [List.map_cons, readSs, act_bind, act_get, ih, act_pure]

/-- The check of R24 passes. -/
theorem checkVreg_ok {s : State} {freed dests : List (Fin 116)} (h : s.fitsAll freed dests = true) :
    checkVreg freed dests s = .ok ((), s) := by
  unfold checkVreg
  simp only [act_bind, act_get]
  have h' : (s.me.active == 0 || s.me.fits freed dests) = true := h
  rw [act_check h']; rfl

/-- The sources of a lane word, where they are registers. -/
theorem laneReads_regs {s : State} {dests : List (Fin 116)} {d : VOp} {srcs : List Src} {old : Bool} {ns : List (Fin 116)}
    {a b o : VReg} (hv : srcs.map (·.1) = ns.map VOp.v) (hf : s.fitsAll (marked srcs) dests = true)
    (ha : (ns.map s.seeV).getD 0 .zero = a) (hb : (ns.map s.seeV).getD 1 .zero = b)
    (ho : (match d, old with | .v n, true => s.seeV n | _, _ => .zero) = o)
    (hp : ((a.poison ||| b.poison ||| o.poison) &&& s.me.active == 0) = true) :
    laneReads dests d srcs old s = .ok ((a, b, o), s.setMe (s.me.freeAll (marked srcs))) := by
  have hc := act_check hp .pois
  unfold laneReads
  cases d <;> cases old <;> subst ho <;>
    simp only [act_bind, act_get, checkVreg_ok hf, hv, readVs_regs, ha, hb] <;> rw [hc] <;> rfl

/-- Writing a vector register. -/
theorem writeDest_reg (n : Fin 116) (v : VReg) (s : State) :
    writeDest (.v n) v s = .ok ((), s.setMe (s.me.writeV s.me.active n v)) := rfl

/-- Writing a uniform register. -/
theorem writeS_reg (n : Fin 56) (v : DWord) (s : State) :
    writeS (.s n) v s = .ok ((), s.setMe (s.me.setS n { val := v, poison := false })) := rfl

/-- Uniform registers without poison. -/
theorem readClean_regs {ns : List (Fin 56)} {s : State} (h : ∀ n ∈ ns, (s.seeS n).poison = false) :
    readClean (ns.map SOp.s) s = .ok (ns.map fun n => (s.seeS n).val, s) := by
  unfold readClean
  simp only [act_bind, readSs_regs]
  rw [act_check (by simpa [List.all_eq_true] using h)]
  simp [Function.comp_def]

/-- One uniform register without poison. -/
theorem readS_reg {n : Fin 56} {s : State} (h : (s.seeS n).poison = false) : readS (.s n) s = .ok ((s.seeS n).val, s) := by
  unfold readS
  have := readClean_regs (ns := [n]) (s := s) (by simpa using h)
  simp only [List.map_cons, List.map_nil] at this
  simp [act_bind, this]

/-- Freeing names leaves the ports and everything but the vector registers. -/
theorem freeAll_port (p : Party) (ns : List (Fin 116)) : (p.freeAll ns).port = p.port := by
  unfold Party.freeAll
  induction ns generalizing p with
  | nil => rfl
  | cons n r ih => simp [List.foldl_cons, ih]

/-- Writing a register leaves the ports. -/
@[simp] theorem writeV_port (p : Party) (m : LaneMask) (d : Fin 116) (v : VReg) : (p.writeV m d v).port = p.port := by
  unfold Party.writeV; split <;> rfl

/-- Freeing names leaves the active lanes. -/
@[simp] theorem freeAll_active (p : Party) (ns : List (Fin 116)) : (p.freeAll ns).active = p.active := by
  unfold Party.active; rw [freeAll_port]

/-- The poison of what a lane word reads, from the check over all its registers. -/
theorem clean_reads {s : State} {act : LaneMask} {d : Fin 116} {ns : List (Fin 116)} {old : Bool} (hl : ns.length ≤ 2)
    (hc : s.cleanIn act ((if old then [d] else []) ++ ns) = true) :
    ((((ns[0]?.map s.seeV).getD .zero).poison ||| ((ns[1]?.map s.seeV).getD .zero).poison |||
      (if old then s.seeV d else .zero).poison) &&& act == 0) = true := by
  unfold State.cleanIn at hc
  have hcc := beq_iff_eq.1 hc
  refine beq_iff_eq.2 ?_
  rcases ns with _ | ⟨x, _ | ⟨y, _ | _⟩⟩ <;> cases old <;>
    simp [VReg.zero] at hcc hl ⊢ <;> first | exact hcc | (rw [← hcc]; congr 1; ac_rfl)

/-- What a lane word reads on registers, and the names its marks free. -/
theorem laneReads_begun {s : State} {d : Fin 116} {srcs : List Src} {old : Bool} {ns : List (Fin 116)} (dests : List (Fin 116))
    (hv : srcs.map (·.1) = ns.map VOp.v) (hl : ns.length ≤ 2) (hf : s.fitsAll (marked srcs) dests = true)
    (hc : s.cleanIn s.me.active ((if old then [d] else []) ++ ns) = true) :
    laneReads dests (.v d) srcs old s.begun =
      .ok (((ns[0]?.map s.seeV).getD .zero, (ns[1]?.map s.seeV).getD .zero, if old then s.seeV d else .zero),
        s.begun.setMe (s.begun.me.freeAll (marked srcs))) := by
  apply laneReads_regs (s := s.begun) (ns := ns) hv hf
  · cases ns <;> rfl
  · rcases ns with _ | ⟨_, _ | ⟨_, _⟩⟩ <;> rfl
  · cases old <;> rfl
  · exact clean_reads hl hc

/-- A lane word on registers: it writes its value into the active lanes of D, and frees its marked sources (R22, R95, R96). -/
theorem laneWord_regs {s : State} {sw : Bool} {d : Fin 116} {srcs : List Src} {old : Bool} {ns : List (Fin 116)}
    (f : Word → Word → Word → Word) (hr : s.canRun sw 1 = true) (hv : srcs.map (·.1) = ns.map VOp.v) (hl : ns.length ≤ 2)
    (hf : s.fitsAll (marked srcs) [d] = true) (hc : s.cleanIn s.me.active ((if old then [d] else []) ++ ns) = true) :
    laneWord sw (.v d) srcs old f s = .next (State.retire (s.begun.setMe
      ((s.begun.me.freeAll (marked srcs)).writeV s.me.active d (.clean fun l =>
        f ((ns[0]?.map s.seeV).getD .zero).val[l] ((ns[1]?.map s.seeV).getD .zero).val[l]
          (if old then s.seeV d else .zero).val[l]))) 1) := by
  apply word_next hr
  · refine (act_bind_ok (laneReads_begun [d] hv hl hf hc) _).trans ?_
    simp [writeDest_reg]
  · simp only [State.setMe_me, writeV_port, freeAll_port]; exact wait_none_of_canRun hr

/-- A predicate word on registers: it writes its predicate in the active lanes (R32, R103). -/
theorem predWord_regs {s : State} {sw : Bool} {d : Fin 8} {srcs : List Src} {ns : List (Fin 116)} (f : Word → Word → Bool)
    (hr : s.canRun sw 1 = true) (hv : srcs.map (·.1) = ns.map VOp.v) (hl : ns.length ≤ 2)
    (hf : s.fitsAll (marked srcs) [] = true) (hc : s.cleanIn s.me.active ns = true) :
    predWord sw d srcs f s = .next (State.retire (s.begun.setMe
      ((s.begun.me.freeAll (marked srcs)).setPred s.me.active d (maskOf fun l =>
        f ((ns[0]?.map s.seeV).getD .zero).val[l] ((ns[1]?.map s.seeV).getD .zero).val[l]))) 1) := by
  apply word_next hr
  · refine (act_bind_ok (laneReads_begun (d := 0) (old := false) [] hv hl hf (by simpa using hc)) _).trans ?_
    simp
  · have : ∀ (p : Party) (m : LaneMask) (v : LaneMask), (p.setPred m d v).port = p.port := by
      intro p m v; unfold Party.setPred; split <;> rfl
    simp only [State.setMe_me, this, freeAll_port]; exact wait_none_of_canRun hr

/-- A uniform word on registers writes one register (R31, R107). -/
theorem uniWord_regs {s : State} {sw : Bool} {d : Fin 56} {ns : List (Fin 56)} (f : DWord → DWord → DWord)
    (hr : s.canRun sw 1 = true) (hc : ∀ n ∈ ns, (s.seeS n).poison = false) :
    uniWord sw (.s d) (ns.map .s) f s = .next (State.retire (s.begun.setMe (s.begun.me.setS d
      { val := f ((ns.map fun n => (s.seeS n).val).getD 0 0) ((ns.map fun n => (s.seeS n).val).getD 1 0), poison := false })) 1) := by
  apply word_next hr
  · exact (act_bind_ok (readClean_regs (s := s.begun) hc) _).trans rfl
  · exact wait_none_of_canRun hr

end Sys2Proof.Machine
end

