-- ==== Sys2Proof/Laws/PerInstr.lean ====
section
/-! SUPPORT. One lemma per instruction and event: how many words its encoding takes. -/

namespace Sys2Proof.Laws.Encoding

open Sys2Proof

/-- A word takes one word of a clause, SLIT also its literal (R46, R109), and an event none. -/
def Statement (i : Instr) : Prop :=
  (encode i).length = match i.cls with | some _ => if i.takesLiteral then 2 else 1 | none => 0

theorem iadd (f : F3) (m : Sat) : Statement (.iadd f m) := rfl
theorem isub (f : F3) (m : Sat) : Statement (.isub f m) := rfl
theorem imul (f : F3) : Statement (.imul f) := rfl
theorem imulh (f : F3) (u : Bool) : Statement (.imulh f u) := rfl
theorem imad (f : F3) : Statement (.imad f) := rfl
theorem imin (f : F3) (u : Bool) : Statement (.imin f u) := rfl
theorem imax (f : F3) (u : Bool) : Statement (.imax f u) := rfl
theorem iabs (f : F2) : Statement (.iabs f) := rfl
theorem and (f : F3) : Statement (.and f) := rfl
theorem or (f : F3) : Statement (.or f) := rfl
theorem xor (f : F3) : Statement (.xor f) := rfl
theorem andn (f : F3) : Statement (.andn f) := rfl
theorem shl (f : F3) : Statement (.shl f) := rfl
theorem shr (f : F3) : Statement (.shr f) := rfl
theorem sar (f : F3) : Statement (.sar f) := rfl
theorem rol (f : F3) : Statement (.rol f) := rfl
theorem popc (f : F2) : Statement (.popc f) := rfl
theorem clz (f : F2) : Statement (.clz f) := rfl
theorem brev (f : F2) : Statement (.brev f) := rfl
theorem bfx (f : F3) : Statement (.bfx f) := rfl
theorem bfi (f : F3) : Statement (.bfi f) := rfl
theorem isets (f : FP3) (c : Cmp) : Statement (.isets f c) := rfl
theorem isetu (f : FP3) (c : Cmp) : Statement (.isetu f c) := rfl
theorem sel (f : F3) (p : Fin 4) : Statement (.sel f p) := rfl
theorem mov (f : F2) : Statement (.mov f) := rfl
theorem bpick (f : F3) : Statement (.bpick f) := rfl
theorem plop (f : FPred) (o : POp) : Statement (.plop f o) := rfl
theorem pmovToP (f : FVtoP) : Statement (.pmovToP f) := rfl
theorem pmovToV (f : FPtoV) : Statement (.pmovToV f) := rfl
theorem iaddi (f : FImm) : Statement (.iaddi f) := rfl
theorem shi (f : FShift) : Statement (.shi f) := rfl
theorem andi (f : FImm) : Statement (.andi f) := rfl
theorem movi (w : Bool) (d : VOp) (i : BitVec 18) : Statement (.movi w d i) := rfl
theorem movhi (w : Bool) (d : VOp) (i : BitVec 14) : Statement (.movhi w d i) := rfl
theorem fadd (f : F3) (r : Rnd) : Statement (.fadd f r) := rfl
theorem fsub (f : F3) (r : Rnd) : Statement (.fsub f r) := rfl
theorem fmul (f : F3) (r : Rnd) : Statement (.fmul f r) := rfl
theorem ffma (f : F3) (r : Rnd) : Statement (.ffma f r) := rfl
theorem fmin (f : F3) (n : Bool) : Statement (.fmin f n) := rfl
theorem fmax (f : F3) (n : Bool) : Statement (.fmax f n) := rfl
theorem fmov (f : F2) (o : FSign) : Statement (.fmov f o) := rfl
theorem fsetp (f : FP3) (c : FCmp) : Statement (.fsetp f c) := rfl
theorem frcp (f : F2) : Statement (.frcp f) := rfl
theorem frsq (f : F2) : Statement (.frsq f) := rfl
theorem fsqrt (f : F2) : Statement (.fsqrt f) := rfl
theorem fexp2 (f : F2) : Statement (.fexp2 f) := rfl
theorem flog2 (f : F2) : Statement (.flog2 f) := rfl
theorem fred (f : F2) : Statement (.fred f) := rfl
theorem fsinr (f : F2) : Statement (.fsinr f) := rfl
theorem fcosr (f : F2) : Statement (.fcosr f) := rfl
theorem fcvt (f : F2) (c : Fin 14) (r : Rnd) : Statement (.fcvt f c r) := rfl
theorem faddp (f : F3) (h : Bool) (z : Bool) : Statement (.faddp f h z) := rfl
theorem fmulp (f : F3) (h : Bool) (z : Bool) : Statement (.fmulp f h z) := rfl
theorem ffmap (f : F3) (h : Bool) (z : Bool) : Statement (.ffmap f h z) := rfl
theorem fclass (f : F2) : Statement (.fclass f) := rfl
theorem fscale (f : F3) (r : Rnd) : Statement (.fscale f r) := rfl
theorem lxch (f : F3) (k : LxKind) : Statement (.lxch f k) := rfl
theorem lxchi (f : FLxi) : Statement (.lxchi f) := rfl
theorem pfold (w : Bool) (d : Fin 8) (a : Fin 8) (o : Fold) : Statement (.pfold w d a o) := rfl
theorem pmask (f : FPtoV) (c : Bool) : Statement (.pmask f c) := rfl
theorem redx (f : F2) (o : Red) : Statement (.redx f o) := rfl
theorem argmx (f : F3) (s : Bool) : Statement (.argmx f s) := rfl
theorem rand (f : F3) : Statement (.rand f) := rfl
theorem gumb (f : F3) : Statement (.gumb f) := rfl
theorem ldb (f : FMem) : Statement (.ldb f) := rfl
theorem ldbs (f : FMem) : Statement (.ldbs f) := rfl
theorem ldh (f : FMem) : Statement (.ldh f) := rfl
theorem ldhs (f : FMem) : Statement (.ldhs f) := rfl
theorem ldw (f : FMem) : Statement (.ldw f) := rfl
theorem ldd (f : FMem) : Statement (.ldd f) := rfl
theorem ldq (f : FMem) : Statement (.ldq f) := rfl
theorem stb (f : FMem) : Statement (.stb f) := rfl
theorem sth (f : FMem) : Statement (.sth f) := rfl
theorem stw (f : FMem) : Statement (.stw f) := rfl
theorem std (f : FMem) : Statement (.std f) := rfl
theorem stq (f : FMem) : Statement (.stq f) := rfl
theorem aadd (f : FMem) : Statement (.aadd f) := rfl
theorem amin (f : FMem) : Statement (.amin f) := rfl
theorem amax (f : FMem) : Statement (.amax f) := rfl
theorem aminu (f : FMem) : Statement (.aminu f) := rfl
theorem amaxu (f : FMem) : Statement (.amaxu f) := rfl
theorem aand (f : FMem) : Statement (.aand f) := rfl
theorem aor (f : FMem) : Statement (.aor f) := rfl
theorem axor (f : FMem) : Statement (.axor f) := rfl
theorem axch (f : FMem) : Statement (.axch f) := rfl
theorem acas (f : FMem) : Statement (.acas f) := rfl
theorem afadd (f : FMem) : Statement (.afadd f) := rfl
theorem fence (w : Bool) (k : FenceKind) (s : Scope) : Statement (.fence w k s) := rfl
theorem mon (w : Bool) (a : Fin 116) (s : Fin 56) (x : Bool) : Statement (.mon w a s x) := rfl
theorem mwait (w : Bool) (s : SOp) : Statement (.mwait w s) := rfl
theorem pref (w : Bool) (l : Bool) (e : Bool) (a : Fin 116) (s : Fin 56) (x : Bool) : Statement (.pref w l e a s x) := rfl
theorem cmo (w : Bool) (o : CmoOp) (l : Fin 6) (s : Fin 56) : Statement (.cmo w o l s) := rfl
theorem claim (w : Bool) (s : Fin 56) : Statement (.claim w s) := rfl
theorem smap (w : Bool) (n : Fin 8) (s : Fin 56) : Statement (.smap w n s) := rfl
theorem sunmap (w : Bool) (n : Fin 8) (x : Bool) : Statement (.sunmap w n x) := rfl
theorem mqput (w : Bool) (d : Fin 116) (s : Fin 56) (x : Bool) (o : Scope) : Statement (.mqput w d s x o) := rfl
theorem mqget (w : Bool) (d : Fin 116) (s : Fin 56) (o : Scope) : Statement (.mqget w d s o) := rfl
theorem vspill (w : Bool) (d : Fin 116) (s : Fin 56) (x : Bool) : Statement (.vspill w d s x) := rfl
theorem vfill (w : Bool) (d : Fin 116) (s : Fin 56) : Statement (.vfill w d s) := rfl
theorem dwopen (w : Bool) (c : Bool) (s : Fin 56) : Statement (.dwopen w c s) := rfl
theorem dwacc (w : Bool) (s : Fin 56) : Statement (.dwacc w s) := rfl
theorem bar (w : Bool) (k : BarKind) (s : Fin 56) (o : Scope) : Statement (.bar w k s o) := rfl
theorem bra (f : FB) : Statement (.bra f) := rfl
theorem brx (w : Bool) (a : VOp) (l : Bool) : Statement (.brx w a l) := rfl
theorem call (f : FB) : Statement (.call f) := rfl
theorem callx (w : Bool) (a : VOp) (l : Bool) : Statement (.callx w a l) := rfl
theorem ret (w : Bool) : Statement (.ret w) := rfl
theorem exit (w : Bool) : Statement (.exit w) := rfl
theorem mcall (w : Bool) (n : Fin 64) (p : VOp) (q : VOp) (t : Fin 32) : Statement (.mcall w n p q t) := rfl
theorem nop (w : Bool) : Statement (.nop w) := rfl
theorem sread (w : Bool) (d : Dest) (n : BitVec 9) : Statement (.sread w d n) := rfl
theorem swrite (w : Bool) (a : Source) (n : BitVec 9) : Statement (.swrite w a n) := rfl
theorem icinv (w : Bool) (a : SOp) (b : SOp) (m : Bool) : Statement (.icinv w a b m) := rfl
theorem tmark (w : Bool) (i : BitVec 18) : Statement (.tmark w i) := rfl
theorem rdv (w : Bool) (d : Fin 56) (v : BitVec 8) (s : BitVec 8) : Statement (.rdv w d v s) := rfl
theorem sleept (w : Bool) (a : SOp) (i : BitVec 13) : Statement (.sleept w a i) := rfl
theorem yield (w : Bool) : Statement (.yield w) := rfl
theorem wdog (w : Bool) (a : SOp) : Statement (.wdog w a) := rfl
theorem trap (w : Bool) (i : BitVec 18) : Statement (.trap w i) := rfl
theorem rte (w : Bool) : Statement (.rte w) := rfl
theorem cclr (w : Bool) (i : BitVec 18) : Statement (.cclr w i) := rfl
theorem bkpt (w : Bool) (i : BitVec 18) : Statement (.bkpt w i) := rfl
theorem halt (w : Bool) : Statement (.halt w) := rfl
theorem sadd (f : FS) : Statement (.sadd f) := rfl
theorem ssub (f : FS) : Statement (.ssub f) := rfl
theorem smul (f : FS) : Statement (.smul f) := rfl
theorem smulh (f : FS) : Statement (.smulh f) := rfl
theorem sdivu (f : FS) : Statement (.sdivu f) := rfl
theorem sand (f : FS) : Statement (.sand f) := rfl
theorem sor (f : FS) : Statement (.sor f) := rfl
theorem sxor (f : FS) : Statement (.sxor f) := rfl
theorem sshl (f : FS) : Statement (.sshl f) := rfl
theorem sshr (f : FS) : Statement (.sshr f) := rfl
theorem ssar (f : FS) : Statement (.ssar f) := rfl
theorem smin (f : FS) : Statement (.smin f) := rfl
theorem smax (f : FS) : Statement (.smax f) := rfl
theorem sset (f : FS) (c : SCmp) : Statement (.sset f c) := rfl
theorem saddi (w : Bool) (d : SOp) (a : SOp) (i : BitVec 13) : Statement (.saddi w d a i) := rfl
theorem smovi (w : Bool) (d : SOp) (i : BitVec 19) : Statement (.smovi w d i) := rfl
theorem slit (w : Bool) (d : SOp) (m : LitMode) (lit : BitVec 32) : Statement (.slit w d m lit) := rfl
theorem sbra (w : Bool) (z : Bool) (a : SOp) (i : BitVec 13) : Statement (.sbra w z a i) := rfl
theorem sld (w : Bool) (d : Fin 56) (a : Fin 56) (i : BitVec 13) : Statement (.sld w d a i) := rfl
theorem sst (w : Bool) (d : SOp) (a : Fin 56) (i : BitVec 13) : Statement (.sst w d a i) := rfl
theorem sv2s (w : Bool) (d : SOp) (a : VOp) (n : Fin 32) : Statement (.sv2s w d a n) := rfl
theorem ss2v (w : Bool) (d : VOp) (a : SOp) (h : Bool) : Statement (.ss2v w d a h) := rfl
theorem wload (w : Bool) (a : SOp) (b : SOp) (c : SOp) : Statement (.wload w a b c) := rfl
theorem wswap (w : Bool) : Statement (.wswap w) := rfl
theorem azero (w : Bool) (g : Bool) (b : Bool) : Statement (.azero w g b) := rfl
theorem mma (w : Bool) (a : SOp) (b : SOp) (c : SOp) (m : Bool) : Statement (.mma w a b c m) := rfl
theorem mmaq (w : Bool) (q : Fin 8) (b : SOp) (m : Bool) : Statement (.mmaq w q b m) := rfl
theorem mmag (w : Bool) (c : Fin 8) (b : SOp) (u : Fin 8) : Statement (.mmag w c b u) := rfl
theorem again (w : Bool) (a : SOp) (b : SOp) : Statement (.again w a b) := rfl
theorem ascan (w : Bool) (a : SOp) (k : Bool) (b : Bool) : Statement (.ascan w a k b) := rfl
theorem carryld (w : Bool) (a : SOp) (b : SOp) (z : Bool) : Statement (.carryld w a b z) := rfl
theorem carryst (w : Bool) (a : SOp) (b : SOp) : Statement (.carryst w a b) := rfl
theorem drain (w : Bool) (a : SOp) (b : SOp) (c : SOp) (m : Bool) : Statement (.drain w a b c m) := rfl
theorem drainq (w : Bool) (q : Fin 8) (b : SOp) (m : Bool) : Statement (.drainq w q b m) := rfl
theorem draing (w : Bool) (d : SOp) (a : SOp) (b : SOp) (c : SOp) : Statement (.draing w d a b c) := rfl
theorem draingQ (w : Bool) (d : SOp) (q : Fin 8) (b : SOp) (c : SOp) : Statement (.draingQ w d q b c) := rfl
theorem msync (w : Bool) (p : Bool) (k : SyncKind) (s : Scope) : Statement (.msync w p k s) := rfl
theorem mstat (w : Bool) (d : SOp) (c : Bool) : Statement (.mstat w d c) := rfl
theorem cpy (w : Bool) (d : SOp) (a : SOp) : Statement (.cpy w d a) := rfl
theorem cpyr (w : Bool) (d : SOp) (a : SOp) : Statement (.cpyr w d a) := rfl
theorem gath (w : Bool) (d : SOp) (a : SOp) : Statement (.gath w d a) := rfl
theorem scat (w : Bool) (d : SOp) (a : SOp) : Statement (.scat w d a) := rfl
theorem jwait (w : Bool) (n : Fin 6) : Statement (.jwait w n) := rfl
theorem jstat (w : Bool) (d : SOp) (c : Bool) : Statement (.jstat w d c) := rfl
theorem enq (f : FS) : Statement (.enq f) := rfl
theorem swriteTdead (w : Bool) (a : Source) : Statement (.swriteTdead w a) := rfl
theorem swriteChkmode (w : Bool) (a : Source) : Statement (.swriteChkmode w a) := rfl
theorem swriteInj (w : Bool) (a : Source) : Statement (.swriteInj w a) := rfl
theorem swriteDvfsreq (w : Bool) (a : Source) : Statement (.swriteDvfsreq w a) := rfl
theorem swriteCauseset (w : Bool) (a : Source) : Statement (.swriteCauseset w a) := rfl
theorem vote (c : Nat) : Statement (.vote c) := rfl
theorem longResultWriteback (p : Ident) (n : Nat) : Statement (.longResultWriteback p n) := rfl
theorem storePerformed (p : Ident) (n : Portion) : Statement (.storePerformed p n) := rfl
theorem releaseComplete (p : Ident) (n : Portion) : Statement (.releaseComplete p n) := rfl
theorem reorderCheck (c : Nat) : Statement (.reorderCheck c) := rfl
theorem intervalCheck (l : Nat) (k : Nat) (i : Nat) : Statement (.intervalCheck l k i) := rfl
theorem horizonBroadcast (t : Nat) : Statement (.horizonBroadcast t) := rfl
theorem lineEviction (u : Nat) (l : Nat) : Statement (.lineEviction u l) := rfl
theorem engineJobStart (j : Nat) : Statement (.engineJobStart j) := rfl
theorem copyJobComplete (j : Nat) (r : Option Nat) : Statement (.copyJobComplete j r) := rfl
theorem matrixJobComplete (j : Nat) : Statement (.matrixJobComplete j) := rfl
theorem promiseMissed (j : Nat) : Statement (.promiseMissed j) := rfl
theorem timerExpiry (p : Ident) : Statement (.timerExpiry p) := rfl
theorem watchdogExpiry (p : Ident) : Statement (.watchdogExpiry p) := rfl
theorem mwaitWake (p : Ident) : Statement (.mwaitWake p) := rfl
theorem mwaitTimeout (p : Ident) : Statement (.mwaitTimeout p) := rfl
theorem sleeptEnd (p : Ident) : Statement (.sleeptEnd p) := rfl
theorem barWaitEnd (p : Ident) : Statement (.barWaitEnd p) := rfl
theorem jwaitEnd (p : Ident) : Statement (.jwaitEnd p) := rfl
theorem rdvReady (p : Ident) : Statement (.rdvReady p) := rfl
theorem causeDelivery (p : Ident) : Statement (.causeDelivery p) := rfl
theorem replayRetry (p : Ident) : Statement (.replayRetry p) := rfl
theorem gangRetire (p : Ident) : Statement (.gangRetire p) := rfl
theorem killRequest (p : Ident) : Statement (.killRequest p) := rfl
theorem doorbell (q : Nat) (t : BitVec 32) : Statement (.doorbell q t) := rfl
theorem nopCommand (q : Nat) : Statement (.nopCommand q) := rfl
theorem launch (q : Nat) : Statement (.launch q) := rfl
theorem waitsem (q : Nat) : Statement (.waitsem q) := rfl
theorem signal (q : Nat) : Statement (.signal q) := rfl
theorem semaphoreChange (q : Nat) : Statement (.semaphoreChange q) := rfl
theorem semaphorePoll (q : Nat) : Statement (.semaphorePoll q) := rfl
theorem stageFinish (b : Nat) (g : Nat) : Statement (.stageFinish b g) := rfl
theorem bundleRetire (b : Nat) : Statement (.bundleRetire b) := rfl
theorem crewAdmit (b : Nat) (g : Nat) (c : Nat) (u : Nat) : Statement (.crewAdmit b g c u) := rfl
theorem crewSteal (d : Nat) (u : Nat) : Statement (.crewSteal d u) := rfl
theorem queueStallPreempt (b : Nat) (g : Nat) (c : Nat) : Statement (.queueStallPreempt b g c) := rfl
theorem preemptRequest (b : Nat) (g : Nat) (c : Nat) : Statement (.preemptRequest b g c) := rfl
theorem drainTimeout (b : Nat) (g : Nat) (c : Nat) : Statement (.drainTimeout b g c) := rfl
theorem preemptWithdraw (b : Nat) (g : Nat) (c : Nat) : Statement (.preemptWithdraw b g c) := rfl
theorem flush (b : Nat) (g : Nat) (c : Nat) : Statement (.flush b g c) := rfl
theorem save (b : Nat) (g : Nat) (c : Nat) : Statement (.save b g c) := rfl
theorem crewRestore (b : Nat) (g : Nat) (c : Nat) (u : Nat) : Statement (.crewRestore b g c u) := rfl
theorem instanceRestore (b : Nat) (g : Nat) (c : Nat) (u : Nat) : Statement (.instanceRestore b g c u) := rfl
theorem relockStart (d : Fin 4) : Statement (.relockStart d) := rfl
theorem relockEnd (d : Fin 4) : Statement (.relockEnd d) := rfl
theorem corePowerGate (c : Nat) : Statement (.corePowerGate c) := rfl
theorem corePowerUp (c : Nat) : Statement (.corePowerUp c) := rfl
theorem dieFailure (d : Fin 4) : Statement (.dieFailure d) := rfl
theorem hostMemoryAccess (a : HostAccess) : Statement (.hostMemoryAccess a) := rfl
theorem peerInboundAccess (a : PeerAccess) : Statement (.peerInboundAccess a) := rfl
theorem claimMove (p : Ident) (n : Nat) : Statement (.claimMove p n) := rfl
theorem controlStoreWrite (c : Nat) (o : Nat) (v : BitVec 32) : Statement (.controlStoreWrite c o v) := rfl
theorem ascreate (t : Nat) : Statement (.ascreate t) := rfl
theorem asdestroy (a : Nat) : Statement (.asdestroy a) := rfl
theorem map (a : Nat) (va : Nat) (e : BitVec 64) (lv : Nat) : Statement (.map a va e lv) := rfl
theorem unmap (a : Nat) (va : Nat) (lv : Nat) : Statement (.unmap a va lv) := rfl
theorem unmapComplete (a : Nat) (va : Nat) (lv : Nat) : Statement (.unmapComplete a va lv) := rfl
theorem keynew (t : Nat) : Statement (.keynew t) := rfl
theorem keyretire (k : Nat) : Statement (.keyretire k) := rfl
theorem partset (ms : List (BitVec 4)) (ks : List Nat) : Statement (.partset ms ks) := rfl
theorem peeropen (o : Nat) (pa : Nat) (len : Nat) (k : Nat) (rw : Bool) : Statement (.peeropen o pa len k rw) := rfl
theorem peerclose (o : Nat) (n : Nat) : Statement (.peerclose o n) := rfl
theorem dvfsset (d : Nat) (x : Nat) : Statement (.dvfsset d x) := rfl
theorem svnset (v : Nat) : Statement (.svnset v) := rfl
theorem registerWrite (o : Nat) (v : BitVec 64) : Statement (.registerWrite o v) := rfl
theorem queueOperationComplete (p : Ident) (n : Nat) : Statement (.queueOperationComplete p n) := rfl
theorem readReturned (p : Ident) (n : Portion) : Statement (.readReturned p n) := rfl
theorem malformedCommand (q : Nat) : Statement (.malformedCommand q) := rfl
theorem debugHalt (t : Fin 4) (c : Bool) : Statement (.debugHalt t c) := rfl
theorem debugResume (t : Fin 4) (c : Bool) : Statement (.debugResume t c) := rfl
theorem debugDump (t : Fin 4) (c : Bool) : Statement (.debugDump t c) := rfl
theorem sinkheadWrite (t : Fin 4) (v : BitVec 64) : Statement (.sinkheadWrite t v) := rfl
theorem jrnheadWrite (t : Fin 4) (v : BitVec 64) : Statement (.jrnheadWrite t v) := rfl
theorem sampleTick (c : Nat) : Statement (.sampleTick c) := rfl
theorem syncPeriodic (p : Ident) : Statement (.syncPeriodic p) := rfl
theorem thermalLimit (d : Fin 4) : Statement (.thermalLimit d) := rfl
theorem thermalRestore (d : Fin 4) : Statement (.thermalRestore d) := rfl
theorem powerLimitCheck (d : Fin 4) : Statement (.powerLimitCheck d) := rfl
theorem coldStart (e : StartEnd) : Statement (.coldStart e) := rfl
theorem warmStartPackage (e : StartEnd) : Statement (.warmStartPackage e) := rfl
theorem warmStartPartition (m : BitVec 4) (e : StartEnd) : Statement (.warmStartPartition m e) := rfl
theorem softError (e : SoftError) : Statement (.softError e) := rfl
theorem ewelothLinkDown (o : Fin 16) : Statement (.ewelothLinkDown o) := rfl
theorem ewelothLinkUp (o : Fin 16) : Statement (.ewelothLinkUp o) := rfl
theorem getCertificate (s : Nat) (o : Nat) (n : Nat) : Statement (.getCertificate s o n) := rfl
theorem challenge (s : Nat) (nonce : BitVec 256) : Statement (.challenge s nonce) := rfl
theorem getMeasurements (i : Nat) (sg : Bool) (nonce : BitVec 256) : Statement (.getMeasurements i sg nonce) := rfl
theorem spdmUnsupported (c : BitVec 8) : Statement (.spdmUnsupported c) := rfl
theorem getVersion : Statement (.getVersion) := rfl
theorem getCapabilities : Statement (.getCapabilities) := rfl
theorem negotiateAlgorithms : Statement (.negotiateAlgorithms) := rfl
theorem getDigests : Statement (.getDigests) := rfl
theorem powerLoss : Statement (.powerLoss) := rfl

end Sys2Proof.Laws.Encoding
end

