-- ==== Sys2Proof/Tests/Slice0.lean ====
section
/-! SUPPORT. Tests of the decoder and of a few meanings against the spec's own examples, and a witness for the hypotheses of each statement. -/

namespace Sys2Proof.Tests

open Sys2Proof Sys2Proof.Machine Sys2Proof.Claims

set_option Elab.async false

/-! ## Ill-formed words (R25, R30, R59) -/

/-- Two vector sources and a destination. -/
def abc (d a b : VOp) : F3 := { w := false, d, a, b, la := false, lb := false }
/-- A memory word. -/
def memOf (d : Fin 116) (ord : Bool) (scope : Scope) : FMem := { w := false, d, a := 1, s := 0, lx := false, ord, scope }

theorem test_port_never_old_destination : (Instr.imad (abc (.q 0) (.v 1) (.v 2))).wf = false ∧ (Instr.movhi false (.q 1) 5).wf = false := by decide
theorem test_port_never_long_destination :
    (Instr.frcp { w := false, d := .q 0, a := .v 1, la := false }).wf = false ∧
    (Instr.lxch (abc (.q 0) (.v 1) (.v 2)) .sel).wf = false ∧
    (Instr.lxchi { w := false, d := .q 2, a := .v 1, la := false, k := .sel, n := 0 }).wf = false ∧
    (Instr.sdivu { w := false, d := .sq 0, a := .s 1, b := .s 2 }).wf = false := by decide
theorem test_pairs_are_even :
    (Instr.fred { w := false, d := .v 3, a := .v 1, la := false }).wf = false ∧
    (Instr.rand (abc (.v 0) (.v 1) (.v 2))).wf = false ∧ (Instr.rand (abc (.v 0) (.v 2) (.v 5))).wf = false ∧
    (Instr.ldd (memOf 3 false .none)).wf = false ∧ (Instr.acas (memOf 3 false .dev)).wf = false := by decide
theorem test_quads_are_multiples_of_4 : (Instr.ldq (memOf 6 false .none)).wf = false ∧ (Instr.stq (memOf 6 false .none)).wf = false := by decide
theorem test_fcvt_checks :
    (Instr.fcvt { w := false, d := .q 0, a := .v 2, la := false } 4 .rne).wf = false ∧
    (Instr.fcvt { w := false, d := .v 0, a := .v 3, la := false } 12 .rne).wf = false ∧
    (Instr.fcvt { w := false, d := .v 0, a := .v 3, la := false } 6 .rz).wf = false := by decide
theorem test_ordered_needs_scope : (Instr.ldw (memOf 2 true .none)).wf = false ∧ (Instr.stw (memOf 2 true .none)).wf = false := by decide
theorem test_scopes :
    (Instr.aadd (memOf 2 false .none)).wf = false ∧ (Instr.fence false .full .none).wf = false ∧
    (Instr.bar false .arrive 0 .sys).wf = false ∧ (Instr.bar false .arrive 0 .none).wf = false ∧
    (Instr.msync false false .wait .dev).wf = false ∧ (Instr.msync false false .rel .none).wf = false := by decide
theorem test_register_ranges :
    (Instr.cmo false .clean 0 55).wf = false ∧ (Instr.claim false 55).wf = false ∧ (Instr.smap false 0 54).wf = false ∧
    (Instr.bar false .arrive 55 .dev).wf = false := by decide
theorem test_salvage_cleans : (Instr.cmo false .inv 5 0).wf = false := by decide
theorem test_own_rows : (Instr.swrite false (.s (.s 1)) 0x024).wf = false := by decide
theorem test_rdv_names_a_port : (Instr.rdv false 0 0 0).wf = false := by decide
theorem test_slit_hi_port : (Instr.slit false (.sq 0) .hi 0).wf = false := by decide
theorem test_zero_fields : (Instr.dwopen false true 3).wf = false ∧ (Instr.carryld false (.s 1) (.s 0) true).wf = false := by decide

/-! ## Words written out in the spec -/

theorem test_decode_vi :
    decodeWord .vi 0x000C0825 none = .ok (.iadd { w := false, d := .v 3, a := .v 1, b := .v 2, la := false, lb := true } .ss) ∧
    decodeWord .vi 0x42142203 none = .ok (.shi { w := false, d := .v 5, a := .v 4, la := false, k := .arith, n := 3 }) ∧
    decodeWord .vi 0x60185678 none = .ok (.movi false (.v 6) 0x05678) ∧ decodeWord .vi 0x6218048D none = .ok (.movhi false (.v 6) 0x048D) := by and_intros <;> rfl
theorem test_decode_vf :
    decodeWord .vf 0x202020C8 none = .ok (.fcvt { w := false, d := .v 8, a := .v 4, la := true } 12 .rne) ∧
    decodeWord .vf 0x32241901 none = .ok (.lxchi { w := false, d := .v 9, a := .v 3, la := false, k := .flip, n := 1 }) ∧
    decodeWord .vf 0x38305800 none = .ok (.redx { w := false, d := .v 12, a := .v 11, la := false } .fadd) ∧
    decodeWord .vf 0x3E281060 none = .ok (.gumb (abc (.v 10) (.v 2) (.v 6))) := by and_intros <;> rfl
theorem test_decode_vm :
    decodeWord .vm 0x0818110D none = .ok (.ldw { w := false, d := 6, a := 2, s := 8, lx := false, ord := true, scope := .dev }) ∧
    decodeWord .vm 0x140C110D none = .ok (.stw { w := false, d := 3, a := 2, s := 8, lx := false, ord := true, scope := .dev }) ∧
    decodeWord .vm 0x16100930 none = .ok (.std { w := false, d := 4, a := 1, s := 9, lx := true, ord := false, scope := .none }) ∧
    decodeWord .vm 0x2010110D none = .ok (.aadd { w := false, d := 4, a := 2, s := 8, lx := false, ord := true, scope := .dev }) ∧
    decodeWord .vm 0x32181105 none = .ok (.acas { w := false, d := 6, a := 2, s := 8, lx := false, ord := false, scope := .dev }) := by and_intros <;> rfl
theorem test_decode_vm_others :
    decodeWord .vm 0x400C0005 none = .ok (.fence false .full .dev) ∧ decodeWord .vm 0x42001100 none = .ok (.mon false 2 8 false) ∧
    decodeWord .vm 0x44000180 none = .ok (.mwait false (.s 12)) ∧ decodeWord .vm 0x48380280 none = .ok (.cmo false .clinv 3 20) ∧
    decodeWord .vm 0x4A000200 none = .ok (.claim false 16) ∧ decodeWord .vm 0x60080145 none = .ok (.bar false .arwait 10 .dev) ∧
    decodeWord .vm 0x50080180 none = .ok (.smap false 2 12) := by and_intros <;> rfl
theorem test_decode_ct :
    decodeWord .ct 0x0C288122 none = .ok (.mcall false 5 (.v 8) (.v 9) 2) ∧ decodeWord .ct 0x10280220 none = .ok (.sread false (.s (.s 10)) 0x020) ∧
    decodeWord .ct 0x12005224 none = .ok (.swriteTdead false (.s (.s 10))) ∧ decodeWord .ct 0x12003231 none = .ok (.swriteChkmode false (.s (.s 6))) ∧
    decodeWord .ct 0x12002A30 none = .ok (.swriteInj false (.s (.s 5))) ∧ decodeWord .ct 0x12003232 none = .ok (.swriteDvfsreq false (.s (.s 6))) ∧
    decodeWord .ct 0x20140201 none = .ok (.rdv false 5 1 2) ∧ decodeWord .ct 0x22014000 none = .ok (.sleept false (.s 10) 0) := by and_intros <;> rfl
theorem test_decode_ct_others :
    decodeWord .ct 0x24000000 none = .ok (.yield false) ∧ decodeWord .ct 0x2600E000 none = .ok (.wdog false (.s 7)) ∧
    decodeWord .ct 0x30000005 none = .ok (.trap false 5) ∧ decodeWord .ct 0x36000000 none = .ok (.bkpt false 0) ∧
    decodeWord .ct 0x34000040 none = .ok (.cclr false 0x40) := by and_intros <;> rfl
theorem test_decode_un :
    decodeWord .un 0x2A402000 none = .ok (.sld false 8 1 0) ∧ decodeWord .un 0xA8091FFE none = .ok (.sbra true true (.s 8) 0x1FFE) := by and_intros <;> rfl
theorem test_decode_mx :
    decodeWord .mx 0x00002106 none = .ok (.wload false (.s 1) (.s 2) (.s 3)) ∧ decodeWord .mx 0x0600A30F none = .ok (.mma false (.s 5) (.s 6) (.s 7) true) ∧
    decodeWord .mx 0x0A000302 none = .ok (.mmag false 0 (.s 6) 1) ∧ decodeWord .mx 0x18690498 none = .ok (.draing false (.s 13) (.s 8) (.s 9) (.s 12)) ∧
    decodeWord .mx 0x1A000015 none = .ok (.msync false false .rel .dev) ∧ decodeWord .mx 0x10014580 none = .ok (.carryld false (.s 10) (.s 11) false) ∧
    decodeWord .mx 0x0E00E000 none = .ok (.ascan false (.s 7) false false) ∧ decodeWord .mx 0x14010484 none = .ok (.drain false (.s 8) (.s 9) (.s 2) false) := by and_intros <;> rfl
theorem test_decode_cp :
    decodeWord .cp 0x0C4A8A80 none = .ok (.enq { w := false, d := .s 9, a := .s 20, b := .s 21 }) ∧
    decodeWord .cp 0x00298000 none = .ok (.cpy false (.s 5) (.s 12)) ∧ decodeWord .cp 0x08000000 none = .ok (.jwait false 0) ∧
    decodeWord .cp 0x0A300000 none = .ok (.jstat false (.s 6) false) := by and_intros <;> rfl
theorem test_decode_header :
    decodeHeader 0x22A0FF00 = .ok { n := 2, cls := .vf, gp := 2, gi := true, ldw := 0, stw := 31, enw := 7, lb := false } := by rfl

/-! ## Numbers worked in the spec -/

/-- The table of R150. -/
theorem test_m8_codes :
    toM8 (.fin false 1 0) = (0x08, 0) ∧ toM8 (.fin true 1 0) = (0x88, 0) ∧ toM8 (.fin false 3 0) = (0x0B, 0) ∧ toM8 (.fin false 100 0) = (0x1A, flagINX) ∧
    toM8 (.fin false 3968 0) = (0x40, flagINX) ∧ toM8 (.fin false 1 (-13)) = (0x00, flagUNF ||| flagINX) ∧
    toM8 (.fin false 100000 0) = (0x7F, flagOVF ||| flagINX) ∧ toM8 .nan = (0x80, 0) := by decide
/-- The table of R304. -/
theorem test_increments :
    (List.range 12).map (fun n => ({ Die.initial 8 with cur := n } : Die).increment) =
      [131072, 116508, 104858, 95325, 87381, 80660, 74898, 69905, 65536, 61681, 58254, 55188] := by decide
/-- The column of R156: gains 0.5, offsets 1, carry 4. -/
theorem test_scan_column :
    ((scanColumn (List.replicate 4 ({ bits := 0x3F000000, poison := false }, { bits := 0x3F800000, poison := false }))
      { bits := 0x40800000, poison := false }).1.map fun x => (x.1.bits, x.2.bits)) =
    [(0x3F000000, 0x40400000), (0x3E800000, 0x40200000), (0x3E000000, 0x40100000), (0x3D800000, 0x40080000)] := by decide
/-- R171 and R173: 1 + 2 is 3 without a flag, the reciprocal of 2 is 0.5, and FLOG2 of 1 is +0. -/
theorem test_floats :
    fadd32 .rne 0x3F800000 0x40000000 = (0x40400000, 0) ∧ frcp32 0x40000000 = (0x3F000000, 0) ∧ (flog2_32 0x3F800000).1 = 0 := by decide

/-! ## Small machines -/

/-- A clause of fifteen words at a port, all lanes live and active. -/
def runPort : Port :=
  { Port.free with
    held := true, hdr := { Port.free.hdr with n := 15 }, words := List.replicate 15 0, lanes := 0xFFFFFFFF, active := 0xFFFFFFFF, started := true }

/-- A user gang of bundle 1 with all lanes at offset 0. -/
def gang : Party :=
  { Party.vacant with ident := 7, bundle := 1, crewN := 1, gridN := 1, present := 0xFFFFFFFF, pcv := Vector.replicate 32 0, port := runPort }

/-- A 2 MiB leaf at PA 0 under key 1 with R, W, X, U, A and D (R354). -/
def leaf : BitVec 64 := 0x00400000000000DF

/-- A stage of one gang and a queue into it and out of it. -/
def stageRec : StageRec :=
  { entry := 0, kind := 0, coresident := false, perdie := false, twin := false, priv := false, idem := false, gridN := 1, crewN := 1, vreg := 116,
    mininst := 1, maxinst := 1, clauses := 0, stash := 0, mq := true, lanesN := 32, q := Vector.replicate 8 none, sq := Vector.replicate 8 none,
    qu := Vector.replicate 8 none, args := Vector.replicate 16 0 }

/-- A bundle of that stage. -/
def bundle : Bundle :=
  { id := 1, part := 0, asid := 0, queue := 0, cseq := 0,
    desc := { codebase := 0, pspbase := 0, userh := 0xFFFFFFFF, stages := [stageRec], queues := [{ depth := 4, scalar := false, twin := 0, src := 0, dst := 0 }] },
    stages := [{ pending := [], resident := 1, exited := 0, finished := false, goneClauses := 0, goneNoFlush := false }],
    queues := [{ entries := [], closed := false, fullSince := none }], status := 0, record := none, trapImm := 0, saved := [], retired := false, endTime := 0 }

/-- Its crew. -/
def crew : Crew :=
  { bundle := 1, stage := 0, crew := 0, core := 0, windows := Vector.replicate 8 none, draft := none, reserve := 116, prmp := none, clauses := 0,
    noFlush := false }

/-- A root table, and one table below it for each level down to 1, at 127 GiB, with the leaf in the last one (R353): the bytes that are not 0. -/
def tables : List Host.Cell :=
  [(0x1FC0000000, 0x01), (0x1FC0000001, 0x10), (0x1FC0000003, 0xC0), (0x1FC0000004, 0x1F),
   (0x1FC0001000, 0x01), (0x1FC0001001, 0x20), (0x1FC0001003, 0xC0), (0x1FC0001004, 0x1F),
   (0x1FC0002000, 0x01), (0x1FC0002001, 0x30), (0x1FC0002003, 0xC0), (0x1FC0002004, 0x1F),
   (0x1FC0003000, 0xDF), (0x1FC0003006, 0x40)]
theorem tables_eq : tables = (List.range 4).foldl (fun m k =>
    memSets m (0x1FC0000000 + 0x1000 * k) (bytesLE 8 (if k = 3 then leaf.toNat else 0x1FC0000000 + 0x1000 * (k + 1) + 1))) [] := by decide +kernel

/-- The machine with that gang at its issue slot, and VA 0 to 2 MiB mapped to PA 0. -/
def run : State :=
  { State.reset with
    me := gang, slot := .ready, mem := tables, spaces := [(0, { part := 0, root := 0x1FC0000000 })], bundles := [bundle], crews := [crew] }

/-- Change the gang. -/
def withMe (f : Party → Party) : State := run.setMe (f run.me)

/-- A uniform register holds a value. -/
def withS (n : Fin 56) (v : DWord) : State := withMe fun p => p.setS n { val := v, poison := false }

/-- A vector register holds a value in every lane. -/
def filled (n : Fin 116) (v : Word) (p : Party) : Party := { p with vregs := p.vregs.set n (some { val := Vector.replicate 32 v, poison := 0 }) }

/-- The next state satisfies a condition. -/
def leaves (o : Host.Outcome State Fault Refusal) (f : State → Bool) : Bool :=
  match o with
  | .next t => f t
  | _ => false

/-- R100: IADD.SS of the largest s32 and 1 saturates. -/
theorem test_iadd_saturates :
    leaves (exec (.iadd (abc (.v 3) (.v 1) (.v 2)) .ss) (withMe fun p => filled 1 0x7FFFFFFF (filled 2 1 p)))
      (fun t => (t.seeV 3).val[5] == 0x7FFFFFFF && t.me.port.idx == 1) = true := by rfl
/-- R104: MOVI and MOVHI build 0x12345678. -/
theorem test_movhi : leaves (exec (.movhi false (.v 6) 0x048D) (withMe (filled 6 0x00005678))) (fun t => (t.seeV 6).val[31] == 0x12345678) = true := by rfl
/-- R108: SDIVU by 0 leaves all ones outstanding. -/
theorem test_sdivu_by_0 :
    leaves (exec (.sdivu { w := false, d := .s 3, a := .s 1, b := .s 2 }) (withS 1 5))
      (fun t => t.me.pend.map (·.kind) == [.svalue 3 0xFFFFFFFFFFFFFFFF]) = true := by rfl
/-- R109: SLIT takes two words. -/
theorem test_slit_length : leaves (exec (.slit false (.s 4) .sx 0x80000000) run) (fun t => (t.seeS 4).val == 0xFFFFFFFF80000000 && t.me.port.idx == 2) = true := by rfl
/-- R112: SV2S reads a lane that is not active. -/
theorem test_sv2s_inactive :
    leaves (exec (.sv2s false (.s 2) (.v 1) 9) (withMe fun p => filled 1 77 { p with port := { p.port with active := 1 } })) (fun t => (t.seeS 2).val == 77) = true := by rfl
/-- R85: EXIT ends the active lanes and no others. -/
theorem test_exit_lanes :
    leaves (exec (.exit false) (withMe fun p => { p with port := { p.port with active := 0xFF } }))
      (fun t => t.me.pcv[7] == 0xFFFFFFFF && t.me.pcv[8] == 0) = true := by rfl
/-- R380, R385: TRAP sets SWTR, and the gang enters the user handler at USERH; without one it is killed. -/
theorem test_trap :
    leaves (exec (.trap false 5) (withMe fun p => { p with userh := 0x800 }))
      (fun t => t.me.cause == Cause.mask .swtr && t.me.pcv[3] == 0x800 && !t.me.sup && t.me.handler.isSome) = true ∧
    leaves (exec (.trap false 5) run) (fun t => t.me.stopped) = true := by and_intros <;> rfl
/-- R382, R383: RTE outside a handler raises ILLI, for which the gang enters the supervisor handler at offset 0. -/
theorem test_rte_outside : leaves (exec (.rte false) run) (fun t => t.me.cause &&& Cause.mask .illi != 0 && t.me.sup && t.me.pcv[3] == 0) = true := by rfl
/-- R117: an access that is not aligned raises ALGN and moves nothing. -/
theorem test_misaligned : leaves (exec (.ldw (memOf 4 false .none)) (withMe (filled 1 2))) (fun t => t.me.cause &&& Cause.mask .algn != 0 && t.me.pend.isEmpty) = true := by rfl
/-- R56: a load waits among the outstanding words on its counter. -/
theorem test_load_outstanding : leaves (exec (.ldw (memOf 4 false .none)) run) (fun t => t.me.loads == 1 && (t.me.vregs[4]).isNone) = true := by decide +kernel

/-! ## The first step after reset (log 2) -/

theorem test_first_iadd : leaves (step (State.reset.withFetchWord 32 0x000C0825)) (fun t => (t.me.vregs[3]).isSome) = true := by decide +kernel
theorem test_first_movi : leaves (step (State.reset.withFetchWord 32 0x60185678)) (fun t => (t.me.vregs[6].getD .zero).val[5] == 0x5678) = true := by decide +kernel

/-! ## Witnesses: the hypotheses of each statement hold together -/

theorem witness_IntegerLaneWords : ∃ x, intForm (.iadd (abc (.v 3) (.v 1) (.v 2)) .wrap) = some x ∧ x.d = .v 3 ∧
    x.srcs.map (·.1) = ([1, 2] : List (Fin 116)).map VOp.v ∧ run.canRun x.sw 1 = true ∧ run.fitsAll (marked x.srcs) [3] = true ∧
    run.cleanIn run.me.active ((if x.old then [3] else []) ++ [1, 2]) = true := ⟨_, rfl, rfl, rfl, rfl, rfl, rfl⟩
theorem witness_FloatLaneWords : ∃ x, floatForm (.ffma (abc (.v 3) (.v 1) (.v 115)) .rne) = some x ∧ x.d = .v 3 ∧
    x.srcs.map (·.1) = ([1, 115] : List (Fin 116)).map VOp.v ∧ run.canRun x.sw 1 = true ∧ run.fitsAll (marked x.srcs) [3] = true ∧
    run.cleanIn run.me.active ((if x.old then [3] else []) ++ [1, 115]) = true := ⟨_, rfl, rfl, rfl, rfl, rfl, rfl⟩
theorem witness_PredicateWords : ∃ x, predForm (.isets { w := false, d := 7, a := .v 1, b := .v 2, la := false, lb := true } .lt) = some x ∧
    x.srcs.map (·.1) = ([1, 2] : List (Fin 116)).map VOp.v ∧ run.canRun x.sw 1 = true ∧ run.fitsAll (marked x.srcs) [] = true ∧
    run.cleanIn run.me.active [1, 2] = true := ⟨_, rfl, rfl, rfl, rfl, rfl⟩
theorem witness_UniformWords : ∃ x, uniForm (.slit false (.s 55) .hi 9) = some x ∧ x.d = .s 55 ∧ x.srcs = ([55] : List (Fin 56)).map SOp.s ∧
    run.canRun x.sw x.len = true ∧ ∀ n ∈ ([55] : List (Fin 56)), (run.seeS n).poison = false := ⟨_, rfl, rfl, rfl, rfl, by decide⟩
theorem witness_UniformVectorMoves : run.canRun false 1 = true ∧ (run.seeS 1).poison = false ∧ (run.seeS 2).poison = false ∧
    (run.seeV 1).poison.has 31 = false ∧ run.fitsAll [] [3] = true := by and_intros <;> rfl
theorem witness_LongResultWords : ∃ x, longForm (.fred { w := false, d := .v 4, a := .v 1, la := true }) = some x ∧ x.d = .v 4 ∧
    x.srcs.map (·.1) = ([1] : List (Fin 116)).map VOp.v ∧ run.canRun x.sw 1 = true ∧
    run.fitsAll (marked x.srcs) ((List.range x.n).map (vnext 4)) = true ∧ x.bad run.me (([1] : List (Fin 116)).map run.seeV) = 0 :=
  ⟨_, rfl, rfl, rfl, rfl, rfl, rfl⟩

/-- The gang's ports 0 and its stage's queue with these entries. -/
def queued (es : List QEntry) : State :=
  { withMe fun p => { p with qports := Vector.replicate 8 (some 0), sqports := Vector.replicate 8 (some 0) } with
    bundles := [{ bundle with queues := [{ entries := es, closed := false, fullSince := none }] }] }

theorem witness_WordsOnPorts :
    (match laneReads [] (.q 1) [(.q 0, false), (.q 0, false)] false (queued [.vec .zero]).begun with
     | .ok (_, t) => (match writeDest (.q 1) .zero t with | .ok _ => true | .error _ => false)
     | .error _ => false) = true ∧
    (match readClean [.sq 0, .s 1] (queued [.sca { val := 5, poison := false }]).begun with
     | .ok (vs, t) => (match writeS (.sq 1) 6 t with | .ok _ => vs == [5, 0] | .error _ => false)
     | .error _ => false) = true := by and_intros <;> rfl
theorem witness_QueuePorts (es : List QEntry) : (queued es).bundle (queued es).me.bundle = some { bundle with queues := [{ entries := es, closed := false, fullSince := none }] } ∧
    (queued es).me.qports[0] = some 0 ∧ (queued es).me.sqports[7] = some 0 ∧ (queued es).me.stage = 0 ∧
    (bundle.stages[0]?).any (·.finished) = false := by and_intros <;> rfl

theorem witness_LoadsIssue : loadForm (.ldq (memOf 4 true .dev)) = some (memOf 4 true .dev, .zero, 16, 4) ∧ run.canRun false 1 = true ∧
    run.room true false = true ∧ run.fitsAll [] (group 4 4) = true ∧ baseOk run 0 = true ∧ run.cleanIn run.me.active [1] = true ∧
    allAllowed run .load .dev 16 (lanesOf run (memOf 4 true .dev) fun _ => []) = true := by and_intros <;> rfl
theorem witness_StoresIssue : storeForm (.stb (memOf 4 true .dev)) = some (memOf 4 true .dev, 1, 1) ∧ run.canRun false 1 = true ∧
    run.room false true = true ∧ baseOk run 0 = true ∧ run.cleanIn run.me.active (1 :: group 4 1) = true ∧
    (let parts := lanesOf run (memOf 4 true .dev) (storeBytes ((group 4 1).map run.seeV) 1)
     allAllowed run .store .dev 1 parts = true ∧ sendsEarly (withMe fun p => { p with inj := 1 }) true parts = true) := by and_intros <;> rfl
theorem witness_AtomicsIssue : atomForm (.acas (memOf 4 false .sys)) = some (memOf 4 false .sys, .cas, 2) ∧ run.canRun false 1 = true ∧
    run.room true false = true ∧ baseOk run 0 = true ∧ run.fitsAll [] [4] = true ∧ run.cleanIn run.me.active (1 :: group 4 2) = true ∧
    allAllowed run .atomic .sys 4 (lanesOf run (memOf 4 false .sys) fun _ => []) = true := by and_intros <;> rfl
theorem witness_UniformMemoryIssue : run.canRun false 1 = true ∧ run.room true false = true ∧ run.room false false = true ∧
    (withS 1 0x1000).seeS 1 = { val := 0x1000, poison := false } ∧
    allAllowed (withS 1 0x1000) .load .none 8 [(0, ((0x1000 : DWord) + (0x1FF8 : BitVec 13).signExtend 64).toNat, [])] = true ∧
    allAllowed (withS 1 0x1000) .store .none 8 [(0, ((0x1000 : DWord) + (0x1FF8 : BitVec 13).signExtend 64).toNat, bytesLE 8 7)] = true := by
  and_intros <;> rfl

/-- A draft window of two slots at VA 0, C = 0. -/
def draft : Draft := { holder := 7, desc := 0x1000, base := 0, slotsz := 128, c := 0, t := 0, nslot := 2, stashoff := 0, bytes := [] }
/-- A crew that drafts. -/
def drafting : State := { run with crews := [{ crew with draft := some draft }] }

/-- A replay whose journal holds an end of the MWAIT at the port, for a reason. -/
def told (why : Nat) : State := run.changeDebug 0 fun d =>
  { d with ctl := 0x80, replay := [{ kind := 0x13, ident := run.me.ident, pos := run.me.position, key := why, vals := [] }] }

theorem witness_MonitorWords :
    (told 1).wakeRecorded run.me = some 1 ∧ (told 0).wakeRecorded run.me = some 0 ∧ run.wakeRecorded run.me = none ∧
    ((withMe fun p => { p with port := { p.port with active := 0 } }).canRun false 1 = true ∧
      LaneMask.lanes (withMe fun p => { p with port := { p.port with active := 0 } }).me.active = []) ∧
    LaneMask.lanes run.me.active = 0 :: (List.finRange 32).tail ∧ (run.seeV 1).poison.has 0 = false ∧ laneVa (run.seeS 0).val (run.seeV 1) 0 = 0 ∧
    (run.translate run.me .load 0).toOption.map (·.mt) = some 0 ∧ run.allows .load .none 4 0 = true ∧
    run.room true false = true ∧ run.monitorFired run.me ⟨0, 0, 0, none, false⟩ = false ∧ run.monitorFired run.me ⟨0, 0, 0, none, true⟩ = true ∧
    run.checkerFree 1 = true ∧ run.me.loads = 0 ∧ (run.seeS 2).poison = false ∧
    ((operandOf (queued [.sca { val := 5, poison := false }]).begun (.sq 0)).any fun x => x.1 == 5) = true ∧ (operandOf run.begun (.s 2)).isSome = true := by
  and_intros <;> decide +kernel
theorem witness_ScopesInclude : (∀ d < 4, ∀ t u : Fin 4, run.parts[t].dies.getLsbD d = true → run.parts[u].dies.getLsbD d = true → t = u) ∧
    run.inScope .dev (.party run.me) (.vent 3) = true ∧ run.inScope .crew (.party run.me) (.party { gang with ident := 8, crew := 1 }) = false := by
  and_intros <;> decide +kernel
theorem witness_CacheWordsIssue : (withS 1 1).canRun false 1 = true ∧ (withS 1 1).room false true = true ∧ ((withS 1 1).seeS 0).poison = false ∧
    ((withS 1 1).seeS (snext 0 1)).poison = false ∧ (withS 1 1).me.sup = false ∧ linesOf 0 1 = [0] ∧ ∃ y, (withS 1 1).translate run.me .load 0 = .ok y :=
  ⟨rfl, rfl, rfl, rfl, rfl, rfl, _, rfl⟩
theorem witness_ClaimIssues : (withS 1 4096).canRun false 1 = true ∧ (withS 1 4096).room false true = true ∧ ((withS 1 4096).seeS 1).val.toNat = 4096 ∧
    (((withS 1 4096).leavesIn gang 1 0 (rangeEnd 0 4096)).map fun x => (x.1, x.2.toOption)) = [(0, some (1, leaf))] ∧
    claimable false leaf = true ∧ (withS 1 4096).extentMixed 0 1 leaf = false ∧ (leafPages 1 leaf).length = 512 := by
  and_intros <;> decide +kernel
theorem witness_BarrierWords : run.canRun false 1 = true ∧ run.checkerFree 2 = true ∧ run.me.stores < 30 ∧
    (run.translate run.me .atomic 0).toOption.map (·.mt) = some 0 ∧ run.allows .atomic .dev 16 0 = true := by and_intros <;> decide +kernel

/-- The core serves bundle 1's message queues and has stash. -/
def serving : State := { withS 1 128 with cores := [(0, { Core.initial with split := 1, mqOwner := some 1, mq := Vector.replicate 4 [{ sender := 0, entry := .zero }] })] }
/-- A window mapped. -/
def mapped : State := { serving with crews := [{ crew with windows := crew.windows.set 0 (some { va := 0, len := 128, off := 0, asid := 0, lines := [], dirty := [] }) }] }

theorem witness_StashWords : serving.crewOf serving.me = some crew ∧ smapLegal (serving.core serving.me.core) crew 0 0 128 0 = true ∧
    serving.canRun false 1 = true ∧ serving.checkerFree 1 = true ∧ mapped.room false true = true ∧ (∃ c x, mapped.crewOf mapped.me = some c ∧
      c.windows[0] = some x ∧ mapped.crewTouches mapped.me x.va x.len = false) ∧
    mapped.me.ready (mapped.me.wordNow (.store false false) []) = true := ⟨rfl, rfl, rfl, rfl, rfl, ⟨_, _, rfl, rfl, rfl⟩, rfl⟩
theorem witness_MessageQueueWords : serving.mqServes 0 serving.me = true ∧ serving.me.engines < 6 ∧ 0 < (serving.core 0).credits[0]?.getD 0 ∧
    serving.cleanIn serving.me.active [3] = true ∧ (serving.seeS 0).val.toNat < 4 ∧ serving.room false false = true ∧
    (serving.core 0).mq[0]?.getD [] = [{ sender := 0, entry := .zero }] ∧ serving.fitsAll [] [3] = true := by
  refine ⟨rfl, by decide, by decide, rfl, by decide, rfl, rfl, rfl⟩
theorem witness_SpillIssues : run.canRun false 1 = true ∧ run.room false true = true ∧ (run.seeS 0).val.toNat % 16 = 0 ∧
    (let r := spillRecord (run.spillSource 3)
     let parts := (List.range (r.length / 4)).map fun k => ((0 : Fin 32), ((run.seeS 0).val.toNat + 4 * k) % 2 ^ 64, (r.drop (4 * k)).take 4)
     wholeAllowed run .store 4 parts = true) := by and_intros <;> rfl

/-- A line whose bytes stand under key 1. -/
def keyed : Line := { Line.initial with kid := 1, dkid := 1, dgen := 1 }
/-- Memory holds the record of a register of sevens at VA 0. -/
def spilled : State := { run with lines := [(0, keyed)] }.writeBytes 1 0 (spillRecord (some { val := Vector.replicate 32 7, poison := 0 }))

theorem witness_FillIssues : spilled.canRun false 1 = true ∧ spilled.checkerFree 2 = true ∧ spilled.me.loads < 30 ∧ spilled.me.fits [] [3] = true ∧
    readable spilled.begun (wordParts 0 4) = true ∧
    (let x := readIssued spilled.begun (wordParts 0 4)
     let t := natLE ((x.2.flatMap (·.1)).take 4)
     t / 2 ^ 16 = 0x5653 ∧ t % 256 = 1 ∧ t / 256 % 256 = spillLen 1 ∧ natLE ((x.2.flatMap (·.1)).drop 8) = 0 ∧ (x.2.all fun y => !y.2) = true ∧
       readable x.1 (wordParts 16 1) = true ∧ readable x.1 [] = true) := by and_intros <;> decide +kernel
/-- No copy differs where none of the lines listed has one that does. -/
theorem no_differing (s : State) (h : (s.lines.all fun x => x.2.holders.all fun y => y.own.isNone) = true) (n : Nat) : noDiffering s n = true := by
  have get (t : Tbl Line) (ht : (t.all fun x => x.2.holders.all fun y => y.own.isNone) = true) :
      ((Tbl.get t n).getD .initial).holders.all (fun y => y.own.isNone) = true := by
    induction t with
    | nil => rfl
    | cons x xs ih =>
      simp only [List.all_cons, Bool.and_eq_true] at ht
      simp only [Tbl.get]
      split
      · exact ht.1
      · split
        · rfl
        · exact ih ht.2
  exact get s.lines h
theorem witness_ReadsAtIssue : spilled.memOk ∧ readable spilled (wordParts 0 4) = true ∧
    (let t := spilled.noted .load ((wordParts 0 4).map (·.2.1))
     let accs := (wordParts 0 4).map (spilled.partAt .load 4)
     plainRead t t.me (t.me.wordNow (.sld 0) accs) ∧ ∀ a ∈ accs, a.pa % 4 = 0) :=
  ⟨by unfold State.memOk Memory.wf; decide +kernel, by decide +kernel, ⟨no_differing _ (by decide +kernel), by decide +kernel, by decide +kernel⟩, by decide +kernel⟩
/-- A descriptor at VA 0 of a window of no slots at 0x2000. -/
def described : State :=
  { serving with lines := [(0, keyed)] }.writeBytes 1 0 (bytesLE 8 0x2000 ++ bytesLE 4 128 ++ bytesLE 12 0 ++ bytesLE 8 0)
theorem witness_DraftWords : readable described.begun (wordParts 0 8) = true ∧ described.canRun false 1 = true ∧
    (let ps := (readIssued described.begun (wordParts 0 8)).2
     (ps.all fun x => !x.2) = true ∧ draftLegal (described.core 0) crew
       { holder := 7, desc := 0, base := 0x2000, slotsz := 128, c := 0, t := 0, nslot := 0, stashoff := 0, bytes := [] } (ps.flatMap (·.1)) = true) ∧
    (let desc := [((0 : Fin 32), draft.desc + 12, bytesLE 4 draft.c), (0, draft.desc + 16, bytesLE 4 0)]
     wholeAllowed drafting .store 1 desc = true) ∧
    serving.room false false = true ∧ draft.holder = drafting.me.ident ∧ drafting.checkerFree 2 = true ∧ drafting.draftQuiet drafting.me draft = true ∧
    (let d : Draft := { draft with t := 1, bytes := [(4, 9)] }
     let desc := [((0 : Fin 32), d.desc + 12, bytesLE 4 1), (0, d.desc + 16, bytesLE 4 0)]
     1 ≤ d.t ∧ d.c + 1 ≤ d.nslot ∧ Tbl.sorted d.bytes = true ∧ d.commits 1 ≠ [] ∧ wholeAllowed drafting .store 1 (d.commits 1 ++ desc) = true) := by
  and_intros <;> decide +kernel

/-- A clause of one NOP at offset 0, under key 1. -/
def coded : State :=
  { run with lines := [(0, keyed)] }.writeBytes 1 0 (bytesLE 4 ({ Port.free.hdr with cls := .ct } : Header).encode ++ bytesLE 4 (encodeBits (.nop false)))

/-- A branch of the lanes in which P0 is 0, from the first word of the clause at 0 back to 0. -/
def back : FB := { w := false, p := 0, n := true, off := BitVec.ofInt 21 (-1) }

theorem witness_Branches : coded.canRun false 1 = true ∧ targetOf coded back.off.toInt = 0 ∧ takenBy coded back = 0xFFFFFFFF ∧
    targetsOk coded (takenBy coded back) (Vector.replicate 32 0) = true ∧ coded.cleanIn coded.me.active [1] = true ∧ (coded.seeV 1).val[0] = 0 ∧
    (coded.seeS 0).val.toNat = 0 := by and_intros <;> decide +kernel
/-- Four entries on chip in every lane. -/
def deep : State := coded.setMe { coded.me with rstack := Vector.replicate 32 [4, 8, 12, 16], rsdepth := Vector.replicate 32 4 }
theorem witness_Calls : roomOnChip coded (takenBy coded back) = true ∧ deep.me.spills (takenBy deep back) = List.finRange 32 ∧
    ((List.finRange 32).all fun l => deep.me.inRegion l (deep.me.rsp[l] - 4)) = true ∧
    (let parts := (List.finRange 32).map fun l => (l, (deep.me.rsp[l] - 4).toNat, bytesLE 4 16)
     allAllowed deep .store .gang 4 parts = true) ∧
    targetsOk deep (takenBy deep back) (Vector.replicate 32 0) = true ∧ deep.room false true = true := by and_intros <;> decide +kernel
/-- One active lane of depth 1 whose entry is in memory, at VA 0. -/
def shallow (bad : Bool) : State :=
  let s := coded.setMe { run.me with rsdepth := Vector.replicate 32 1, rsp := Vector.replicate 32 0, port := { run.me.port with active := 1 } }
  if bad then s.markPoison 0 4 else s
/-- Its RET waits for the refill. -/
def refilling (bad : Bool) : State :=
  match exec (.ret false) (shallow bad) with
  | .next t => t
  | _ => shallow bad
theorem witness_Returns : ((LaneMask.lanes deep.me.active).all fun l => deep.me.rsdepth[l] != 0 && deep.me.rstack[l] != []) = true ∧
    (run.me.active.has 31 = true ∧ run.me.rsdepth[31] = 0) ∧ (shallow false).canRun false 1 = true ∧ (shallow false).room true false = true ∧
    (maskOf fun l => (shallow false).me.active.has l && ((shallow false).me.rstack[l]).isEmpty) = 1 ∧
    allAllowed (shallow false) .load .gang 4 [(0, 0, [])] = true := by and_intros <;> decide +kernel
theorem witness_Refills : ∀ bad : Bool, (let s := refilling bad
    let n := (shallow bad).me.nextId
    let t := s.performIn 7 n false (Portion.whole n).lanes
    (s.pendOf 7 n).any (fun x => x.2.kind == .refill) && t.me.ident == 7 && t.me.port.wait == some (.refill n) && match t.pendOf 7 n with
      | some (q, e) => q == t.me && e.kind == .refill && e.performed && match e.bound with
        | some (r :: _) => (r.poison &&& e.active != 0) == bad
        | _ => false
      | none => false) = true := by decide +kernel
theorem witness_ExitEndsLanes : run.canRun true 1 = true := by rfl
/-- A microprogram of one MOVI in slot 5 of core 0. -/
def micro : State :=
  { run with cores := [(0, { Core.initial with cstore := [(320, BitVec.ofNat 32 ({ Port.free.hdr with n := 1 } : Header).encode), (321, 0x60185678)] })] }
theorem witness_MicroprogramsAndFetch : (micro.slotBody 0 5 8 9 2).map (·.2) = some [0x60185678] ∧
    ((micro.slotBody 0 5 8 9 2).all fun x => micro.me.waitsMet x.1) = true ∧ micro.canRun false 1 = true ∧ micro.me.stores = 0 ∧
    micro.me.pend = [] ∧ (run.changeDebug 0 fun d => { d with ctl := 5 }).debugBit 0 0 = true ∧ (run.changeDebug 0 fun d => { d with ctl := 5 }).debugBit 0 2 = true ∧
    (micro.seeS 0).poison = false := by and_intros <;> decide +kernel
theorem witness_SpecialRegisterReads : mayName run.me 0x020 = true ∧ notJournaled run = true ∧ uniformSreg run 0x020 = some 0 ∧
    mayName run.me 0x01A = true ∧ run.me.isThread = false ∧ laneSreg run.me 0x01A 0 = some 0 ∧ LaneMask.lanes run.me.active ≠ [] ∧
    run.fitsAll [] [3] = true ∧ mayName run.me 0x014 = false ∧ uniformSreg run 0x1FF = none ∧ laneSreg run.me 0x1FF 0 = none ∧
    (∀ l, laneSreg run.me 0x000 l = some (BitVec.ofNat 64 l.val)) := by and_intros <;> decide +kernel
theorem witness_SpecialRegisterWrites : ownSwrite 0x013 = false ∧ mayName run.me 0x013 = true ∧ (uniformSreg run 0x013).isSome = true ∧
    mayName { run.me with sup := true } 0x019 = true ∧ mayName run.me 0x011 = true ∧ (mayName run.me 0x014 = false ∧ 0x014 ≤ 0x01D) ∧
    (uniformSreg run 0x027 = none ∧ laneSreg run.me 0x027 0 = none ∧ supOnly 0x027 = false) := by and_intros <;> decide +kernel
theorem witness_SystemRegisterWrites : (withS 1 0xB).canRun false 1 = true ∧ countersZero gang = true ∧ (0xB : DWord).toNat % 16 ≤ 11 ∧
    (3 : DWord).toNat % 16 ≤ 3 ∧ (1 : DWord).toNat % 4 ≤ 1 ∧ gang.sup = false ∧ gang.isThread = false := by and_intros <;> decide
theorem witness_SchedulingWords : (∀ x ∈ (queued []).me.named 1 0x80, x.2.isSome = true) ∧ (queued [.vec .zero]).rdvValue (queued []).me 1 0 % 2 ^ 16 ≠ 0 ∧
    (queued [.vec .zero]).canRun false 1 = true ∧ notJournaled (queued []) = true ∧
    ((operandOf (queued [.sca { val := 5, poison := false }]).begun (.sq 0)).any fun x => x.1 == 5) = true ∧
    ((run.seeS 1).val + (0 : BitVec 13).signExtend 64).toNat ≤ run.rtime.toNat ∧
    run.rtime.toNat < ((run.seeS 1).val + (5 : BitVec 13).signExtend 64).toNat := by and_intros <;> decide +kernel
theorem witness_TrapWords : run.me.active ≠ 0 ∧ gang.isThread = false ∧ { gang with role := .cThread }.isThread = true ∧
    (withMe fun p => { p with port := { p.port with active := 0 } }).me.active = 0 := by and_intros <;> decide

/-- A gang in its handler, with lane 3's EPCV at offset 8. -/
def handling (stops : List Port) : State :=
  withMe fun p => { p with handler := some { sup := false, privBefore := false, live := 0xFFFFFFFF, stops }, epcv := Vector.replicate 32 8 }
theorem witness_ReturnFromHandler : (handling []).me.hasLong = false ∧ (handling []).me.pastEnd 1 = false ∧
    ({ runPort with idx := 14, head := 0xFFFFFFC0 } : Port).fallThrough > 0xFFFFFFFB ∧ (handling []).me.blocked = false ∧ (handling []).me.pendingCauses = 0 ∧
    (handling []).debugBit 0 7 = false ∧
    (let r : Port := { runPort with halted := true, head := 4 }
     let s := handling [r]
     r.stopOffset = 8 ∧ (maskOf fun l => r.lanes.has l && s.me.pcv[l] != 0xFFFFFFFF && s.me.epcv[l] != 0xFFFFFFFF &&
       s.me.epcv[l] &&& 0xFFFFFFFC == r.stopOffset) ≠ 0) ∧ run.me.handler = none := by and_intros <;> decide +kernel
theorem witness_NextWord : { runPort with retry := some .perm }.retry = some .perm ∧ run.me.port.retry = none ∧ run.me.port.micro = none ∧ run.me.port.idx + 1 < run.me.port.hdr.n ∧ run.me.port.hdr.n ≤ run.me.port.idx + 15 ∧
    run.me.port.trapped = false ∧ run.me.mate.held = false ∧ run.me.mate.halted = false ∧ run.me.pendingCauses = 0 ∧ run.me.isThread = false ∧
    (let m : Micro := { slot := 0, hdr := runPort.hdr, words := [0, 0], idx := 0, active := 1 }
     m.idx + 1 < m.words.length ∧ m.words.length ≤ m.idx + 2) := by and_intros <;> decide +kernel

/-- A party with this CAUSE. -/
def caused (c : BitVec 32) : State := withMe fun p => { p with cause := c }
/-- It can take a cause. -/
def takes (s : State) : Bool := !s.me.switchedOut && !s.me.replayable && !s.me.stopped && !s.me.halted && s.me.live != 0
theorem witness_HandlerEntry : takes (caused 1) = true ∧ (caused 1).me.handler = none ∧ (caused 1).me.pendingCauses &&& 0x1000 = 0 ∧
    (caused 1).me.pendingCauses &&& 0xC = 0 ∧ ((caused 1).me.pendingCauses &&& 0x1C033 != 0) = true ∧
    ((caused 0x400).me.pendingCauses &&& 0x1C033 != 0) = false ∧ (caused 0x400).me.pendingCauses &&& 0xFC0 ≠ 0 ∧ (caused 0x400).me.userh = 0xFFFFFFFF ∧
    (caused 4).me.port.retries = false ∧ takes (caused 0x400) = true ∧
    ((afterDrops (caused 0x24)).me.port.retries = false ∧ (afterDrops (caused 0x24)).me.mate.retries = false) := by and_intros <;> decide +kernel
theorem witness_OtherDeliveries : takes (caused 0x1000) = true ∧ (caused 0x1000).me.pendingCauses &&& 0x1000 ≠ 0 ∧
    (caused 4).me.pendingCauses &&& 0x1000 = 0 ∧ (caused 4).me.pendingCauses &&& 0xC ≠ 0 ∧ { (caused 4).me.port with halted := true, retry := some .xlat }.retries = true ∧
    (caused 1).me.pendingCauses &&& 0x3CE73 ≠ 0 ∧ (caused 0x80).me.pendingCauses &&& 0x3CE73 = 0 ∧ (run.bundle 1).any (·.status == 0) = true := by
  and_intros <;> decide
theorem witness_FaultInHandlerKills : (handling []).me.handler.isSome = true ∧ Cause.illi ≠ .xlat ∧ Cause.illi ≠ .perm ∧
    Cause.mask .illi &&& (handling []).me.causem ≠ 0 := by and_intros <;> decide

/-- The M-thread of cluster 0. -/
def mThread : State := withMe fun p => { p with role := .mThread }
theorem witness_MatrixJobWords :
    (mxForm mThread (.wload false (.s 1) (.s 2) (.s 3))).any (fun x => mThread.canRun x.w 1 && cleanS mThread x.regs && (x.reasons.all fun r => !r.2) &&
      footOk mThread.begun true x.reads x.writes) = true ∧ mThread.me.engines < 6 ∧
    (mxForm mThread (.mma false (.s 1) (.s 2) (.s 3) false)).any (fun x => (x.reasons.find? (·.2)).isSome) = true := by and_intros <;> decide +kernel
theorem witness_MatrixStatusWords : mThread.canRun false 1 = true ∧ mThread.checkerFree 1 = true ∧ mThread.me.engines < 6 ∧ mThread.mxJobs mThread.me = 0 ∧ mThread.room false false = true ∧
    mThread.me.pend = [] ∧ notJournaled mThread = true := by and_intros <;> decide +kernel

/-- A card at VA 0 that copies 16 bytes from 0x100 to 0x1000. -/
def card : State := { run with lines := [(0, keyed)] }.writeBytes 1 0 (bytesLE 8 0x1000 ++ bytesLE 8 0x100 ++ bytesLE 12 0 ++ bytesLE 4 16 ++ bytesLE 32 0)
theorem witness_CopyJobWords : card.canRun false 1 = true ∧ card.room false false = true ∧ cleanS card [2] = true ∧
    readable card.begun (wordParts 0 16) = true ∧
    (let x := readIssued card.begun (wordParts 0 16)
     (x.2.all fun y => !y.2) = true ∧ cardLegal .cpy (x.2.flatMap (·.1)) = true ∧ footOk x.1 false [(0x100, 16)] [(0x1000, 16)] = true ∧
       notJournaled x.1 = true ∧ x.1.me.port.wait = none) := by and_intros <;> decide +kernel
/-- A copy job of the gang. -/
def job : Job :=
  { id := 3, kind := .cpy 0x1000 0x100 16, issuer := 7, bundle := 1, cluster := 0, pend := 0, opened := true, started := true, complete := false, reported := false,
    promise := 0, missed := false, reads := [{ va := 0x100, pa := 0x100, len := 16, kid := 1, mt := 0 }],
    writes := [{ va := 0x1000, pa := 0x1000, len := 16, kid := 1, mt := 0 }], err := 0, faulty := none, total := 16, copy := true, row := 0, buf := [],
    buf2 := [] }
/-- The machine with that job. -/
def copying : State := { run with jobs := [job] }
theorem witness_JobStatusWords : copying.canRun false 1 = true ∧ copying.checkerFree 1 = true ∧ (copying.unreported copying.me.ident).length = 1 ∧ notJournaled copying = true := by
  and_intros <;> decide +kernel
/-- A command queue that takes commands of partition 0's bundles, empty or full. -/
def queue (tail : Word) : State := { run with queues := [(0, { Qcb.initial with enable := true, devenq := true, tail })] }
theorem witness_EnqueueWord :
    (queue 0).canRun false 1 = true ∧ (queue 0).checkerFree 2 = true ∧ notJournaled (queue 0) = true ∧ (queue 0).me.engines < 6 ∧
    readable (queue 0).begun (wordParts 0 16) = true ∧ wholeAllowed (queue 16).begun .load 4 (wordParts 0 16) = true ∧ cleanS (queue 0) [1, 2] = true ∧ ((queue 0).seeS 2).val.toNat ≤ 1023 ∧
    (let c := Tbl.getD (queue 16).queues 0 .initial
     c.enable = true ∧ c.devenq = true ∧ c.part = gang.part ∧ (c.tail - c.head).toNat = 2 ^ c.log2n) := by and_intros <;> decide +kernel

/-- An outstanding word of the gang. -/
def pend (k : PendKind) (accs : List LaneAcc) : Pend :=
  { id := 3, kind := k, active := 1, accs, past := [], vals := [], ord := false, scope := .none, bound := none, performed := false, early := 0, flags := 0,
    tp := 0, pos := 0, dests := [] }
/-- An access of lane 0 at PA 0x40 under key 1. -/
def acc (len : Nat) (data : List Byte) : LaneAcc := { lane := 0, va := 0x40, pa := 0x40, kid := 1, mt := 0, len, data }
/-- The machine with these outstanding words. -/
def outst (es : List Pend) : State := withMe fun p => { p with pend := es }
/-- A store of four bytes, and a store that is a release with its time. -/
def st4 : Pend := pend (.store true true) [acc 4 [1, 2, 3, 4]]
/-- A store that is a release and has its time. -/
def rel4 : Pend := { st4 with ord := true, tp := 5 }
/-- A store into the tentative range. -/
def tent4 : Pend := pend (.store true true) [{ acc 4 [1, 2, 3, 4] with tent := true }]
/-- The drafting crew's gang has it outstanding. -/
def drafted : State := drafting.setMe { drafting.me with pend := [tent4] }

theorem witness_TentativeStores : drafted.pendOf drafted.me.ident tent4.id = some (drafted.me, tent4) ∧ mayPerform drafted drafted.me tent4 = true ∧
    drafted.crewOf drafted.me = some { crew with draft := some draft } ∧ drafted.jobs = [] ∧
    (tent4.accs.all fun a => a.tent && ordinary a.pa && decide (draft.base ≤ a.va) && decide (a.va < draft.base + draft.nslot * draft.slotsz) &&
      draft.tentative a.va && a.data.length == a.len) = true ∧
    (tent4.accs.Pairwise fun x y => overlaps x.va x.len y.va y.len = false) := by and_intros <;> decide +kernel

theorem witness_ReadsReturn : (∃ p e, (outst [pend (.load .sign 4 1) [acc 2 []]]).pendOf 7 3 = some (p, e) ∧ e.kind = .load .sign 4 1 ∧ e.active ≠ 0 ∧
    mayPerform (outst [pend (.load .sign 4 1) [acc 2 []]]) p e = true ∧ plainRead (outst [pend (.load .sign 4 1) [acc 2 []]]) p e ∧
    e.accs.Pairwise (fun x y => x.lane ≠ y.lane) ∧ (∀ a ∈ e.accs, a.len = 4 * 1 ∨ ((1 : Nat) = 1 ∧ (a.len = 1 ∨ a.len = 2)))) ∧
    (outst [pend (.load .sign 4 1) [acc 2 []]]).memOk := ⟨⟨_, _, rfl, rfl, by decide, by decide +kernel, ⟨fun _ => rfl, by decide, by decide +kernel⟩, by decide, by decide⟩, rfl, rfl⟩
/-- The gang's partition has checked up to time 9. -/
def checked9 (s : State) : State := { s with parts := s.parts.set 0 { s.parts[0] with chkhz := 9 } }

/-- A store of two lanes that the crew has seen. -/
def two4 : Pend := { pend (.store true true) [acc 4 [1, 2, 3, 4], { acc 4 [5, 6, 7, 8] with lane := 1, pa := 0x80, va := 0x80 }] with early := 1 }

theorem witness_StoresPerform : (outst [st4]).jobs = [] ∧ (outst [rel4]).me.injects rel4 = false ∧ two4.active ≠ 0 ∧ (∃ p e a, (outst [st4]).pendOf 7 3 = some (p, e) ∧ oneStore (outst [st4]) e a ∧ mayPerform (outst [st4]) p e = true ∧
      e.isRelease = false) ∧
    (∃ p e a, (checked9 (outst [rel4])).pendOf 7 3 = some (p, e) ∧ oneStore (checked9 (outst [rel4])) e a ∧ mayPerform (checked9 (outst [rel4])) p e = true ∧ e.isRelease = true ∧
      (∀ x ∈ p.pend.takeWhile fun x => x.id != 3, x.performed = true) ∧ p.contDue = false ∧ e.tp ≠ 0 ∧
      mayPerform ((checked9 (outst [rel4])).seal p.clockUnit) p { e with scope := .dev } = true ∧
      (checked9 (outst [rel4])).checkedUp p 3 e.tp = true) ∧
    (∃ p e a b, (outst [two4]).pendOf 7 (Portion.mk 3 1).word = some (p, e) ∧ oneStore (outst [two4]) { e with accs := [a] } a ∧ e.accs = [a, b] ∧
      e.isRelease = false ∧ e.early ≠ 0 ∧ a.pa ≠ b.pa ∧ (Portion.mk 3 1).lanes.has a.lane = true ∧ (Portion.mk 3 1).lanes.has b.lane = false ∧
      mayPerform (outst [two4]) p e = true) ∧
    (outst [st4]).memOk ∧ (checked9 (outst [rel4])).memOk :=
  ⟨rfl, by decide, by decide, ⟨_, st4, acc 4 [1, 2, 3, 4], rfl, ⟨⟨_, _, rfl⟩, rfl, rfl, by decide, fun _ => rfl, by decide, by decide⟩, by decide +kernel, rfl⟩,
   ⟨_, rel4, acc 4 [1, 2, 3, 4], rfl, ⟨⟨_, _, rfl⟩, rfl, rfl, by decide, fun _ => rfl, by decide, by decide⟩, by decide +kernel, rfl, by decide, rfl, by decide,
     by decide +kernel, by decide +kernel⟩,
   ⟨_, two4, acc 4 [1, 2, 3, 4], _, rfl, ⟨⟨_, _, rfl⟩, rfl, rfl, by decide, fun _ => rfl, by decide, by decide⟩, rfl, rfl, by decide, by decide, by decide,
     by decide, by decide +kernel⟩,
   ⟨rfl, rfl⟩, rfl, rfl⟩
/-- An SLD of VA 0x40, and a relaxed and an ordered atomic of lanes 0 and 5 at one location. -/
def sld8 : Pend := pend (.sld 4) [acc 8 []]
theorem witness_UniformReadsReturn : (∃ p e, (outst [sld8]).pendOf 7 3 = some (p, e) ∧ e.kind = .sld 4 ∧ e.accs = [acc 8 []] ∧
    mayPerform (outst [sld8]) p e = true ∧ plainRead (outst [sld8]) p e) ∧ (acc 8 []).pa % 8 = 0 ∧ (outst [sld8]).memOk ∧ (outst [sld8]).jobs = [] :=
  ⟨⟨_, _, rfl, rfl, rfl, by decide +kernel, ⟨fun _ => rfl, by decide, by decide +kernel⟩⟩, by decide,
    by unfold State.memOk Memory.wf; decide +kernel, rfl⟩
/-- A line that core 0 holds dirty, one of a window. -/
def dirtied : State := { run with lines := [(0, { keyed with holders := [{ unit := 0, st := .m, beneath := none, start := 0, first := [], own := none, readers := [], loaded := true }] })] }
theorem witness_CacheWordsPerform : ∀ k ∈ [PendKind.cmo .clean 0, .cmo .inv 3, .cmo .clinv 4, .cmo .clean 5, .sunmap 0],
    (let s := dirtied.setMe { dirtied.me with pend := [pend k [acc 1 []]] }
     (s.pendOf 7 3).any (fun x => x.2.kind == k && mayPerform s x.1 x.2) && (s.line 0).holders.all (fun h => h.own.isNone) && !(s.line 0).frozen &&
       ((s.line 0).holders.any fun h => h.st == .m)) = true := by decide +kernel
theorem witness_LostLines :
    (let s := (dirtied.changeDie (dirtied.homeOfPa 0) fun d => { d with failed := true })
     let t := s.setMe { s.me with pend := [pend (.cmo .clean 5) [{ acc 1 [] with pa := 0 }]] }
     regionOf 0 = .device ∧ (t.die (t.homeOfPa 0)).failed = true ∧ (t.line 0).kid = 1 ∧
       (t.pendOf 7 3).any (fun x => mayPerform t x.1 x.2) = true) := by and_intros <;> decide +kernel
/-- An atomic of lanes 0 and 5 at PA 0x40. -/
def atom4 (ord : Bool) (tp : Nat) : Pend :=
  { pend (.atomic .add 4 (Vector.replicate 32 7) (Vector.replicate 32 0)) [acc 4 [], { acc 4 [] with lane := 5 }] with
    active := 0x21, ord, tp, scope := if ord then .dev else .none }
theorem witness_AtomicsPerform : oneAtom (outst [atom4 false 0]) (atom4 false 0) (acc 4 []) ∧ (outst [atom4 false 0]).memOk ∧ (outst [atom4 false 0]).jobs = [] ∧
    (∃ p e, (outst [atom4 false 0]).pendOf 7 3 = some (p, e) ∧ e = atom4 false 0 ∧ mayPerform (outst [atom4 false 0]) p e = true ∧ e.isRelease = false) ∧
    (∃ p e, (checked9 (outst [atom4 true 5])).pendOf 7 3 = some (p, e) ∧ e = atom4 true 5 ∧ mayPerform (checked9 (outst [atom4 true 5])) p e = true ∧
      e.isRelease = true ∧ e.tp ≠ 0 ∧ (checked9 (outst [atom4 true 5])).checkedUp p 3 e.tp = true) :=
  ⟨⟨by decide, by decide, by decide, rfl, by decide, by decide, rfl, rfl, rfl, by decide, fun _ => rfl⟩, by unfold State.memOk Memory.wf; decide +kernel, rfl,
    ⟨_, _, rfl, rfl, by decide +kernel, rfl⟩, ⟨_, _, rfl, rfl, by decide +kernel, rfl, by decide, by decide +kernel⟩⟩
/-- An arrival at the barrier object at PA 0x40. -/
def arrive16 : Pend := { pend .arrive [acc 16 []] with ord := true, scope := .dev, tp := 5 }
theorem witness_ArrivalsPerform : (∃ p e, (checked9 (outst [arrive16])).pendOf 7 3 = some (p, e) ∧ e = arrive16 ∧
      mayPerform (checked9 (outst [arrive16])) p e = true ∧ e.tp ≠ 0 ∧ (checked9 (outst [arrive16])).checkedUp p 3 e.tp = true) ∧
    (acc 16 []).pa % 16 = 0 ∧ ordinary 0x40 = true ∧ (checked9 (outst [arrive16])).memOk ∧ (checked9 (outst [arrive16])).jobs = [] ∧
    ∀ k, noDiffering (checked9 (outst [arrive16])) k = true :=
  ⟨⟨_, _, rfl, rfl, by decide +kernel, by decide, by decide +kernel⟩, by decide, by decide, by unfold State.memOk Memory.wf; decide +kernel, rfl, fun _ => rfl⟩
/-- It is no cause. -/
def fine {α : Type} (r : Except Cause α) : Bool :=
  match r with
  | .ok _ => true
  | .error _ => false
/-- The first stop of a memory word is of this kind. -/
def stopsWith (i : Instr) (s : State) (f : Stop → Bool) : Bool := (memForm s i).any fun m => m.issues && (m.stop s).any f
theorem witness_MemoryWordsStop :
    stopsWith (.ldq (memOf 4 false .none)) (withMe fun p => { p with vreg := 3 }) (· == .cause .illi) = true ∧
    stopsWith (.stw (memOf 4 false .none)) (withMe fun p => { p with vregs := p.vregs.set 4 (some { val := Vector.replicate 32 0, poison := 1 }) }) (· == .cause .pois) = true ∧
    stopsWith (.aadd (memOf 4 false .dev)) (withMe (filled 1 2)) (· == .cause .algn) = true ∧
    stopsWith (.sld false 4 0 0) { run with spaces := [] } (· == .refused .xlat 0 .load) = true ∧
    stopsWith (.sst false (.s 2) 0 0) { run with parts := run.parts.set 0 { run.parts[0] with dies := 2 } } (· == .refused .perm 0 .store) = true ∧
    stopsWith (.ldw (memOf 4 false .none)) (run.changeDie (run.homeOfPa 0) fun d => { d with failed := true }) (· == .cause .home) = true ∧
    stopsWith (.ldw (memOf 4 false .none)) { copying with jobs := [{ job with writes := [{ va := 0, pa := 0, len := 16, kid := 1, mt := 0 }] }] }
      (fun x => match x with | .race _ => true | _ => false) = true := by and_intros <;> decide +kernel
theorem witness_TranslationWalks : Tbl.get run.spaces 0 = some { part := 0, root := 0x1FC0000000 } ∧ (run.walk 0 0x1234).toOption = some (1, leaf) ∧
    (run.walk 0 0x400000).toOption = none ∧ fine (({ run with spaces := [] } : State).walk 0 0) = false ∧
    (((run.core run.me.core).firstTlb .load ++ (run.cluster run.me.cluster).tlb).all fun t => !t.serves run.me 0) = true ∧
    (let t := run.noted .load [0]
     ((t.core t.me.core).firstTlb .load ++ (t.cluster t.me.cluster).tlb).any (fun x => x.serves t.me 0) = true) ∧
    (run.leafFor run.me .load 0).toOption = some (1, leaf) ∧ (run.translate run.me .load 0).toOption.map (·.pa) = some 0 := by
  and_intros <;> decide +kernel
/-- A fence of a kind, with its time. -/
def fenceAt (k : FenceKind) (t : Nat) : Pend := { pend (.fence k) [] with tp := t }
theorem witness_ReleasesComplete : { rel4 with tp := 0 }.isRelease = true ∧ run.jobs = [] ∧ gang.injects (fenceAt .full 0) = false ∧
    run.clockAhead gang.clockUnit = false ∧ run.lineAhead gang.cluster 0x40 = false ∧ gang.dropFrom = none ∧ (∃ p e, (checked9 (outst [fenceAt .rel 5])).pendOf 7 3 = some (p, e) ∧ e.isRelease = true ∧
      e.performed = false ∧ p.contDue = false ∧ e.tp ≠ 0 ∧ (checked9 (outst [fenceAt .rel 5])).checkedUp p 3 e.tp = true) ∧
    (∃ p e, (outst [fenceAt .full 0]).pendOf 7 3 = some (p, e) ∧ e.isRelease = true ∧ e.tp = 0 ∧ p.contDue = false ∧
      p.loads = 0 ∧ p.stores = 0 ∧ (((outst [fenceAt .full 0]).tick p.clockUnit).clock p.clockUnit).toNat ≠ 0) ∧
    (∃ p e, ((outst [fenceAt .full 0]).setMe { (outst [fenceAt .full 0]).me with contDue := true }).pendOf 7 3 = some (p, e) ∧ p.contDue = true) ∧
    (∃ p e, (outst [fenceAt .acq 0]).pendOf 7 3 = some (p, e) ∧ mayPerform (outst [fenceAt .acq 0]) p e = true) :=
  ⟨rfl, rfl, rfl, by decide, by decide, rfl, ⟨_, _, rfl, rfl, rfl, rfl, by decide, by decide +kernel⟩, ⟨_, _, rfl, rfl, rfl, rfl, rfl, rfl, by decide +kernel⟩, ⟨_, _, rfl, rfl⟩, ⟨_, _, rfl, by decide +kernel⟩⟩
/-- A long result that has returned. -/
def back1 (k : PendKind) (r : List VReg) : Pend := { pend k [] with bound := some r, performed := true }
theorem witness_LongResultsAreWritten : ∀ x ∈ [(PendKind.value 4 [], [VReg.zero]), (.vfill 4, [.zero]), (.vfill 4, []), (.sld 4, [.zero, .zero]), (.svalue 4 7, [])],
    (match (outst [back1 x.1 x.2]).pendOf 7 3 with
     | some (_, e) => e.isLong && e.bound == some x.2 && e.performed
     | none => false) = true ∧ (outst [back1 x.1 x.2]).debugBit 0 6 = false ∧ (outst [back1 x.1 x.2]).debugBit 0 7 = false := by decide +kernel
/-- An ENQ to a slot of queue 0, whose bytes are under key 1. -/
def enqd : State :=
  let s : State := { queue 1 with lines := [(0, keyed)] }
  s.setMe { s.me with pend := [{ pend (.enq 0 0 (List.replicate 64 0) []) [] with performed := true }] }
/-- A store of one word to offset 8 of slot 2 of core 0's control store. -/
def micro8 : State := outst [pend (.store true true) [{ acc 4 (bytesLE 4 9) with pa := 0xFFF0000000208 }]]
theorem witness_QueueWordsComplete :
    (∃ p e, (outst [pend (.mqput 0 1 .zero) []]).pendOf 7 3 = some (p, e) ∧ e.kind = .mqput 0 1 .zero ∧ p.putOrder 3 = true ∧
      p.ready e = true ∧ e.isRelease = false) ∧
    (∃ p e, (outst [{ pend (.mqget 4 .zero) [] with active := 0 }]).pendOf 7 3 = some (p, e) ∧ e.kind = .mqget 4 .zero ∧ e.active = 0) ∧
    (∃ p e, enqd.pendOf 7 3 = some (p, e) ∧ e.kind = .enq 0 0 (List.replicate 64 0) [] ∧ e.performed = true) ∧
    (match enqd.ventWrite 0 0 true ((enqd.queue 0).slot 0) (List.replicate 64 0) [] with | .ok _ => true | .error _ => false) = true ∧
    (withMe fun p => { p with port := { p.port with micro := some { slot := 2, hdr := runPort.hdr, words := [0], idx := 0, active := 1 } } }).slotHeld 0 2 = true ∧
    (∃ e, micro8.me.pend = [e] ∧ controlStoreAt 0xFFF0000000208 = some (0, 0x208) ∧ mayPerform micro8 micro8.me e = true ∧ e.ord = false) ∧
    Tbl.sorted (micro8.core 0).cstore = true :=
  ⟨⟨_, _, rfl, rfl, rfl, rfl, rfl⟩, ⟨_, _, rfl, rfl, rfl⟩, ⟨_, _, rfl, rfl, rfl⟩, by decide +kernel, by decide +kernel, ⟨_, rfl, by decide, by decide +kernel, rfl⟩,
   rfl⟩

/-- The gang stands in a wait. -/
def waiting (w : Wait) : State := withMe fun p => { p with port := { p.port with wait := some w }, monitor := some ⟨0, 0, 0, none, true⟩ }
/-- Conditions of `standsIn` as one test. -/
def stands (s : State) (isOver : Party → Wait → Bool) (w : Wait) : Bool :=
  (s.party 7).any fun p => isOver p w && (p.port.wait == some w || p.port.wait.all (fun v => !isOver p v) && p.mate.wait == some w) && !p.halted && !p.stopped && !p.switchedOut && !(s.die p.die).busy && !s.debugBit p.part 6 && !s.debugBit p.part 7
theorem witness_WaitsEnd :
    (waiting (.mwait none)).me.monitor = some ⟨0, 0, 0, none, true⟩ ∧
    stands (waiting (.mwait none)) (fun p => fired (waiting (.mwait none)) ⟨0, 0, 0, none, true⟩ p) (.mwait none) = true ∧
    stands (waiting (.mwait (some 0))) (fun _ => timedOut (waiting (.mwait (some 0)))) (.mwait (some 0)) = true ∧
    stands (waiting (.sleept 0)) (fun _ => slept (waiting (.sleept 0))) (.sleept 0) = true ∧
    (let s : State := (waiting (.sleept 9)).setMe { (waiting (.sleept 9)).me with mate := { runPort with wait := some (.sleept 0) } }
     stands s (fun _ => slept s) (.sleept 0) = true) ∧
    (let s : State := { waiting (.bar (acc 16 []) 1 .dev none) with lines := [(0, keyed)] }
     stands s (released s) (.bar (acc 16 []) 1 .dev none) = true) ∧
    stands (waiting (.jwait 0)) (reported (waiting (.jwait 0)) 7) (.jwait 0) = true ∧
    (let s := (queued [.vec .zero]).setMe { (queued [.vec .zero]).me with port := { runPort with wait := some (.rdv 3 1 0) } }
     stands s (portsReady s) (.rdv 3 1 0) = true) := by and_intros <;> decide +kernel
theorem witness_TimersAndCauses :
    (run.rtime.toNat < run.me.tdead.toNat ∧ { run.me with port := { run.me.port with idx := 1 } }.atClauseBoundary = false) ∧
    (let s := withMe fun p => { p with tdead := 0, wdogv := 1, port := .free }
     s.party 7 = some s.me ∧ s.me.atClauseBoundary = true ∧ s.me.tdead.toNat ≤ s.rtime.toNat ∧ s.me.live ≠ 0 ∧ s.me.switchedOut = false ∧ s.me.isThread = false ∧
       (s.die 0).busy = false ∧ s.debugBit 0 7 = false) ∧
    (let s := withMe fun p => { p with userh := 0x800, cause := 0x400, port := .free }
     s.party 7 = some s.me ∧ s.me.pendingCauses ≠ 0 ∧ (s.focus 7).deliverAsync ≠ s.focus 7) ∧
    (let s := withMe fun p => { p with replayable := true, remapped := true, port := { p.port with halted := true, retry := some .xlat }, mate := .free }
     s.party 7 = some s.me ∧ s.me.replayable = true ∧ s.me.remapped = true) ∧
    (run.bundle 1).any (·.status == 0) = true := by and_intros <;> decide +kernel
/-- A gang whose lanes have exited, with and without a crew-mate. -/
def exited : State := withMe fun p => { p with pcv := Vector.replicate 32 0xFFFFFFFF, port := .free }
theorem witness_GangsRetire : exited.me.done = true ∧ exited.me.contDue = false ∧ exited.party 7 = some exited.me ∧
    exited.me.bundle ≠ 0 ∧ exited.me.switchedOut = false ∧ exited.crewOf exited.me = some crew ∧ crew.draft = none ∧ crew.windows = Vector.replicate 8 none ∧
    (({ exited with me := .vacant } : State).parties.any fun x => x.bundle == 1 && x.stage == 0 && x.crew == 0 && !x.isThread) = false ∧
    ({ exited with others := [{ gang with ident := 8 }] } : State).parties.any (fun x => x.bundle == 1 && x.stage == 0 && x.crew == 0 && x.ident != 7) = true := by
  and_intros <;> decide +kernel

/-- The gang at a vote boundary, its code in memory. -/
def between : State := coded.setMe { coded.me with port := .free }
theorem witness_VoteSelects : run.select run.me.scheduler = some 7 ∧ State.reset.select 0 = none ∧ run.me.port.held = true ∧ between.select 0 = some 7 ∧
    (let m : Port := { runPort with secondary := true }
     let p := { run.me with mate := m }
     let q := { run.me with port := { m with halted := true }, mate := runPort }
     p.portReady p.port = true ∧ p.portReady p.mate = true ∧ p.port.secondary ≠ p.mate.secondary ∧ q.portReady q.port = false ∧ q.portReady q.mate = true ∧
       run.me.portReady run.me.mate = false) ∧
    between.me.port.held = false ∧ between.me.mate.held = false ∧ ((between.focus 7).noteSelect 0 7).deliverAsync.me = between.me := by
  and_intros <;> decide +kernel
/-- Two clauses of one NOP, at offsets 0 and 8, and lane 0 at the second; the primary clause does not lead to 12. -/
def apart : State :=
  let s : State := { run with lines := [(0, keyed)] }.writeBytes 1 0
    ((List.replicate 4 (bytesLE 4 ({ Port.free.hdr with n := 1, cls := .ct } : Header).encode ++ bytesLE 4 (encodeBits (.nop false)))).flatten)
  s.setMe { s.me with pcv := (Vector.replicate 32 0).set 0 16, port := .free }
/-- Conditions under which a vote takes one clause at a PC. -/
def oneVote (s : State) (pc : Nat) : Bool :=
  match s.fetchClause pc with
  | .ok (_, h, ws) => h.n == 1 && ws.length == 1
  | .error _ => false
theorem witness_VoteFetches : between.me.lowest none = some 0 ∧ between.debugBit 0 2 = false ∧ (between.debug[0].bkpts.toList.all fun b => !b.armed) = true ∧
    between.me.lowest (some 0) = none ∧ oneVote { between with fresh := 0 } 0 = true ∧ apart.me.lowest none = some 0 ∧ apart.me.lowest (some 0) = some 16 ∧
    oneVote apart 0 = true ∧ oneVote apart 16 = true ∧
    (match ({ run with spaces := [] } : State).fetchClause 0 with | .error c => c == .xlat | .ok _ => false) = true ∧ run.me.handler = none := by
  and_intros <;> decide +kernel

/-- The machine with this job. -/
def jobbed (x : Job) : State := { run with jobs := [x] }
/-- A matrix job of the gang. -/
def mxJob (op : MxOp) (args : List Nat) (bit : Bool) : Job := { job with kind := .mx op args 0 false bit, copy := false, reads := [], writes := [] }
theorem witness_JobsRun : (jobbed { job with started := false }).job 3 = some { job with started := false } ∧
    (run.parties.all fun p => p.pend.isEmpty) = true ∧ (jobbed { job with started := false }).mayStart { job with started := false } = true ∧
    (jobbed { job with started := false }).homesBusy { job with started := false } = false ∧
    (∀ n, noDiffering run n = true) ∧ underWay copying 3 job ∧ regionOf 0x100 = .device ∧ copying.poison = [] ∧ copying.memOk ∧
    (engineAfter (jobbed (mxJob .azero [] true)) (mxJob .azero [] true) Engine.initial).isSome = true ∧ underWay (jobbed (mxJob .azero [] true)) 3 (mxJob .azero [] true) ∧
    job.promise.toNat ≤ copying.rtime.toNat ∧ copying.party 7 = some copying.me :=
  ⟨rfl, by decide, by decide +kernel, by decide +kernel, fun _ => rfl, ⟨rfl, rfl, rfl, by decide, by decide +kernel, fun _ => rfl⟩, by decide, rfl, ⟨rfl, rfl⟩, by decide +kernel,
    ⟨rfl, rfl, rfl, by decide, by decide +kernel, fun _ => rfl⟩, by decide, rfl⟩

/-- Where one extent places an address. -/
theorem placeOf_one (x : Extent) (v a : Nat) : placeOf [x] v = some a ↔ x.va ≤ v ∧ v < x.va + x.len ∧ a = x.pa + (v - x.va) := by
  by_cases h : x.va ≤ v ∧ v < x.va + x.len
  · simp [placeOf, findExtent, h, eq_comm]
  · have h' : (decide (x.va ≤ v) && decide (v < x.va + x.len)) = false := by simp; omega
    simp [placeOf, findExtent, h']; omega
/-- One extent of device memory is placed. -/
theorem placed_one (x : Extent) (h : x.pa + x.len ≤ 2 ^ 39) (n : 0 < x.len) : placed [x] x.kid := by
  refine ⟨?_, ?_, ?_⟩
  · intro y hy; simp at hy; subst hy; exact ⟨rfl, by simp [regionOf]; omega⟩
  · intro v a hv; rw [placeOf_one] at hv; simp [regionOf]; omega
  · intro v w a b hv hw; rw [placeOf_one] at hv hw; omega
/-- A copy job of the gang that gathers two elements of 4 bytes by the indices at PA 0x200, and its machine, the first index being n. -/
def gathJob : Job :=
  { job with
    kind := .gath 0x1000 0x100 0x200 4 2 16
    reads := [{ va := 0x100, pa := 0x100, len := 16, kid := 1, mt := 0 }, { va := 0x200, pa := 0x200, len := 8, kid := 1, mt := 0 }]
    writes := [{ va := 0x1000, pa := 0x1000, len := 8, kid := 1, mt := 0 }] }
/-- Its machine, with this first index. -/
def gathering (n : Nat) : State := { run with jobs := [gathJob], lines := [(2, keyed), (4, keyed)] }.writeBytes 1 0x200 (bytesLE 4 n)
theorem witness_CopiesRun : placed gathJob.writes 1 ∧ (∀ v ∈ List.range 8, (placeOf gathJob.writes (0x1000 + v)).isSome = true) ∧
    (copied (gathering 3) gathJob).map (fun w => (w.1, w.2.length)) = [(0x1000, 4), (0x1004, 4)] ∧
    (gathering 3).memOk ∧ (gathering 3).poison = [] ∧ (∀ n, noDiffering (gathering 3) n = true) ∧
    (∀ k ∈ [0, 3], (gathering 3).job k = if k = 3 then some gathJob else none) ∧ (gathering 3).homesBusy gathJob = false ∧
    indexList gathJob = some (0x200, 2, 4, 16) ∧ ((List.range 2).all fun i => decide ((indexAt (gathering 3) gathJob 0x200 i + 1) * 4 ≤ 16)) = true ∧
    (16 < (indexAt (gathering 4) gathJob 0x200 0 + 1) * 4 ∧ ((gathering 4).jobRead gathJob.reads 0x200 4).any (·.2) = false) ∧
    (((gathering 4).markPoison 0x200 4).jobRead gathJob.reads 0x200 4).any (·.2) = true ∧
    (gathJob.reads ++ gathJob.writes).all (fun y => regionOf y.pa == .device) = true ∧
    ({ va := 0, pa := 2 ^ 48, len := 4, kid := 1, mt := 3 } : Extent).foreign = true :=
  ⟨placed_one _ (by decide) (by decide), by decide, by decide +kernel, by unfold State.memOk Memory.wf; decide +kernel, by decide +kernel,
    no_differing _ (by decide +kernel), by decide +kernel, by decide +kernel, by decide, by decide +kernel, by decide +kernel, by decide +kernel, by decide,
    by decide⟩
/-- A matrix job with a queue of the bundle at hand, in which these entries wait. -/
def queuedJob (op : MxOp) (args : List Nat) (es : List QEntry) : State :=
  { queued es with jobs := [{ mxJob op args false with issuer := 7 }] }
/-- A carry register written, and an accumulator row. -/
def storing (op : MxOp) (args : List Nat) : State :=
  { run with jobs := [{ mxJob op args false with writes := [{ va := 0x1000, pa := 0x1000, len := 128, kid := 1, mt := 0 }] }], lines := [(32, keyed)] }
theorem witness_EngineJobsRun :
    ((jobbed (mxJob .again [0, 0] false)).job 3 = some (mxJob .again [0, 0] false) ∧ Tbl.sorted (run.cluster 0).engine.gain = true) ∧
    ((jobbed (mxJob .carryld [0, 4] false)).job 3 = some (mxJob .carryld [0, 4] false) ∧ Tbl.sorted (run.cluster 0).engine.carry = true) ∧
    (let s := storing .carryst [0x1000, 4]
     let x : Job := { mxJob .carryst [0x1000, 4] false with writes := [{ va := 0x1000, pa := 0x1000, len := 128, kid := 1, mt := 0 }] }
     s.job 3 = some x ∧ s.homesBusy x = false ∧ (mxWritten x (s.cluster 0).engine).any (fun ws => ws.map (fun w => (w.1, w.2.length)) == (List.range 4).map (fun k => (0x1000 + 4 * k, 4))) = true) ∧
    (let s := storing .drain [0x1000, 0x1040]
     let x : Job := { mxJob .drain [0x1000, 0x1040] false with writes := [{ va := 0x1000, pa := 0x1000, len := 128, kid := 1, mt := 0 }] }
     s.job 3 = some x ∧ (mxWritten x (s.cluster 0).engine).any (fun ws => ws.map (fun w => (w.1, w.2.length)) == [(0x1000, 4)]) = true) ∧
    (let s := queuedJob .drainq [0] []
     (s.job 3).any (fun x => x.row == 0 && (mxPushed x (s.cluster x.cluster).engine).any fun y => y.1 == 0 && y.2.1.length == 1) = true ∧
       (s.bundle 1).any (fun b => (b.queues[0]?).any (·.entries.isEmpty) && (b.desc.queues[0]?).any (fun r => r.depth == 4 && r.dst == 0) &&
         (b.stages[0]?).any fun st => !st.finished) = true) ∧
    (let s := queuedJob .mmaq [0, 0, 1, 1] [.vec .zero]
     (s.job 3).any (fun x => x.buf.isEmpty && x.row == 0) = true ∧ 0 < rowEntries 1 (actBytes (dFmt 0)) + 0 ∧ dM 0 = 1) ∧
    (let b : Bundle := { bundle with queues := [{ entries := [.vec .zero], closed := false, fullSince := none }, { entries := [], closed := true, fullSince := none }] }
     brings b 0 1 1 [.zero] [] ∧ brings b 1 1 1 [] []) :=
  ⟨by decide +kernel, by decide +kernel, by decide +kernel, by decide +kernel, by decide +kernel, by decide +kernel,
    ⟨_, rfl, rfl, .inl rfl⟩, ⟨_, rfl, rfl, .inr ⟨0, by decide, rfl, rfl, rfl⟩⟩⟩

/-- One entry of a party at the checker of core 0. -/
def entry (n tc tp : Nat) : REntry :=
  { party := 7, seq := n, store := true, load := false, access := true, covered := true, rel := n == 2, acq := false, fence := none, scope := .dev, tc, tp,
    tc0 := tc, tp0 := tp, spans := [(128 * n, 4)], lines := [], combined := false, checked := false }
/-- Core 0's checker holds these. -/
def checking (es : List REntry) : State := { run with cores := [(0, { Core.initial with reorder := es })] }
/-- A record of a holder's interval. -/
def inter (k : SinterKind) (last : List Byte) : Sinter :=
  { line := 5, kid := 1, kind := k, half := 0, write := false, interval := 0, beneath := none, sub := 0, unit := 0, tstart := 1, tend := 2, first := [0],
    last, readers := [] }
theorem witness_CheckersAct :
    (let good := checking [entry 1 4 4]
     let bad := checking [entry 1 9 9, entry 2 4 4]
     (good.core 0).reorder.all (fun r => good.entryReady r) = true ∧
     ((bad.core 0).reorder.all fun r => bad.entryReady r && !r.checked) = true ∧ reorderFails (entry 1 9 9) (entry 2 4 4) = true ∧
     bad.party 7 = some bad.me ∧ bad.me.live ≠ 0 ∧ bad.me.stopped = false) ∧
    (let o := inter .opened [0]
     let c := inter .close [1]
     let s : State := { run with records := [o, c], lines := [(5, keyed)] }
     (s.records.filter fun r => r.line == 5 && r.kid == 1 && r.interval == 0) = [o, c] ∧ c.hstart ≠ c.hend ∧ o.hstart = o.hend ∧ (s.line 5).kid = 1) ∧
    ((diesOf run.parts[0].dies).any fun d => (run.die d).busy) = false ∧
    ((diesOf run.parts[0].dies).any fun d => ((run.changeDie 2 fun y => { y with busy := true }).die d).busy) = true ∧
    ((run.line 5).frozen = false ∧ (run.line 5).pinned = [] ∧ run.windowHolds 0 5 = false ∧ noDiffering run 5 = true) ∧
    dirtied.evictable 0 0 = true ∧ noDiffering dirtied 0 = true ∧
    (let x : Window := { va := 0, len := 128, off := 0, asid := 0, lines := [0], dirty := [] }
     ({ dirtied with crews := [{ crew with windows := crew.windows.set 0 (some x) }] } : State).windowHolds 0 0 = true) := by
  and_intros <;> decide +kernel
/-- A CLAIM of these leaves, which an earlier load of its gang precedes only elsewhere, and a later one follows. -/
def claiming (ls : List Nat) : State :=
  outst [{ pend (.claim ls [(7, 4)] 3) [] with id := 3 }, { pend (.load .zero 4 1) [acc 4 []] with id := 4 }]
theorem witness_ClaimsMove : (∃ p e, (claiming []).pendOf 7 3 = some (p, e) ∧ e.kind = .claim [] [(7, 4)] 3) ∧
    (∃ p e, (claiming [0]).pendOf 7 3 = some (p, e) ∧ e.kind = .claim (0 :: []) [(7, 4)] 3 ∧ p.die < 4 ∧ p.part = 0) ∧
    ((claiming [0]).walk 0 0).toOption = some (1, leaf) ∧
    fine ((claiming [0x400000]).walk 0 0x400000) = false ∧
    (Tbl.get run.spaces 0 = some { part := 0, root := 0x1FC0000000 } ∧ run.memOk ∧ (run.spaces.all fun x => x.2.root % 4096 == 0) = true ∧
      ((run.walkPath 0 0).all fun pa => (run.line (pa / 128)).dkid == 0 && (run.line (pa / 128)).dgen == run.genOf 0) = true ∧ run.walkPath 0 0 ≠ []) ∧
    run.jobs = [] ∧ run.lines = [] ∧
    ((claiming [0]).parties.all fun q => q.pend.all fun x => decide (4 ≤ x.id) || x.accs.isEmpty) = true ∧
    [((7 : Ident), 4)].lookup 7 = some 4 ∧ ((claiming [0]).die 0).busy = false ∧
    (((claiming [0]).leafHomes 0 leaf).all fun d => !((claiming [0]).die d).busy) = true :=
  ⟨⟨_, _, rfl, rfl⟩, ⟨_, _, rfl, rfl, by decide, rfl⟩, by decide +kernel, by decide +kernel,
    ⟨rfl, by unfold State.memOk Memory.wf; decide +kernel, by decide, by decide +kernel, by decide +kernel⟩, rfl, rfl, by decide, by decide, by decide, by decide +kernel⟩

/-- The bytes that are not 0 of a list that stands at an address. -/
def cells (a : Nat) (bs : List Byte) : List Host.Cell := (bs.zipIdx.filter (·.1 != 0)).map fun x => (a + x.2, x.1)
/-- Queue 0 has one command, at VA 0, beside the descriptor of one stage of one gang at VA 0x1000; VA 0 to 512 GiB is mapped to PA 0. -/
def commanded (ws : List Nat) : State :=
  let stage := le8 0 ++ le8 (1 + 2 ^ 16 + 2 ^ 24 + 2 ^ 32 + 2 ^ 48) ++ le8 (32 * 2 ^ 36) ++ List.replicate 24 0xFF
  { queue 1 with
    lines := (List.range 3).map (fun n => (n, keyed)) ++ (List.range 3).map (fun n => (32 + n, keyed)), vent := [{ queue := 0, ask := .doorbell }]
    mem := cells 0 (ws.flatMap le8) ++ cells 0x1000 (le8 0 ++ le8 1 ++ List.replicate 48 0 ++ stage) ++
      [(0x1FC0000000, 0x01), (0x1FC0000001, 0x10), (0x1FC0000003, 0xC0), (0x1FC0000004, 0x1F), (0x1FC0001000, 0xDF), (0x1FC0001006, 0x40)] }
/-- The journal of a replay has this command of queue 0. -/
def replayed (ws : List Nat) : State := (commanded []).changeDebug 0 fun d =>
  { d with ctl := 0x80, replay := [{ kind := 0x10, ident := 0, pos := 0, key := 0, vals := ws ++ List.replicate (8 - ws.length) 0 }] }
/-- Queue 0 has a command to start, whichever vent core takes it. -/
def due (s : State) : Bool :=
  let c := s.queue 0
  ((List.range 12).all fun k => !s.clockAhead (ventUnit k)) && c.enable && !c.busy && s.parts[c.part].serving &&
    s.journalRoom c.part (journalBytes 10) && if s.debugBit c.part 7 then (s.replayedCommand 0).isSome
    else s.vent.contains { queue := 0, ask := .doorbell } && c.head != c.tail && !s.slotUnwritten 0 c.head &&
      decide ((c.tail - c.head).toNat ≤ 2 ^ c.log2n)
/-- The test implies what it tests. -/
theorem commandDue_of_due (s : State) (h : due s = true) : s.commandDue 0 = true := by
  simp only [due, Bool.and_eq_true, Bool.not_eq_true', List.all_eq_true, List.mem_range] at h
  obtain ⟨⟨⟨⟨⟨hc, h1⟩, h2⟩, h3⟩, h4⟩, h5⟩ := h
  have hp := hc s.ventPick (Nat.mod_lt _ (by decide))
  unfold State.commandDue
  simp only [h1, h2, h3, h4, hp, Bool.not_false, Bool.true_and]
  simpa using h5
/-- Conditions of `commandIs` with a test of the command and of the state. -/
def commands (s : State) (f : State → Command → Bool) : Bool :=
  due s && match s.nextCommand 0 with
  | .ok (t, w) => f t w
  | .error _ => false
/-- The test implies what it tests. -/
theorem commandIs_of_commands (s : State) (f : State → Command → Bool) (h : commands s f = true) : ∃ t w, commandIs s 0 t w ∧ f t w = true := by
  simp only [commands, Bool.and_eq_true] at h
  obtain ⟨hd, h⟩ := h
  split at h
  · exact ⟨_, _, ⟨commandDue_of_due s hd, ‹_›⟩, h⟩
  · cases h
theorem witness_CommandsServe :
    (((5 : BitVec 32) - (run.queue 0).head).toNat ≤ 2 ^ (run.queue 0).log2n ∧ 2 ^ (run.queue 0).log2n < ((50 : BitVec 32) - (run.queue 0).head).toNat) ∧
    (commands (replayed [3, 0x40, 9]) fun t w => !w.malformed && w.op == 3 && natBits (w.word 0) 11 10 == 0 &&
      fine ((t.takeCommand 0 w).ventTranslate 0 0 .store false 0x40) && !(t.takeCommand 0 w).poisonedAt 0x40 8) = true ∧
    (commands (replayed [3, 2 ^ 39, 9]) fun t w => !w.malformed && w.op == 3 && !fine ((t.takeCommand 0 w).ventTranslate 0 0 .store false (2 ^ 39))) = true ∧
    (commands ((replayed [3, 0x40, 9]).markPoison 0x40 4) fun t w => !w.malformed && w.op == 3 && (t.takeCommand 0 w).poisonedAt 0x40 8) = true ∧
    (commands (replayed [2, 0x40, 9]) fun _ w => !w.malformed && w.op == 2) = true ∧ (commands (replayed [9]) fun _ w => w.malformed && !w.dropped && w.op != 1) = true ∧
    (commands (replayed [1 + 2 ^ 63, 0x1000]) fun _ w => w.malformed && !w.dropped && w.op == 1 && !w.bad.contains true) = true ∧
    (let s := (commanded [0]).changeQueue 0 fun c => { c with base := 2 ^ 39 }
     due s = true ∧ fine (s.nextCommand 0) = false) ∧
    (commands ((commanded [0]).changeQueue 0 fun c => { c with droppedSeqs := [0] }) fun _ w => w.malformed && w.dropped) = true := by
  and_intros <;> decide +kernel
theorem witness_CommandIsRead : (commands (commanded [0]) fun _ w => !w.malformed && w.op == 0) = true := by decide +kernel
theorem witness_SignalStores : (commands (replayed [3, 0x40, 9]) fun t w => fine ((t.takeCommand 0 w).ventWrite 0 0 false 0x40 (le8 9) [])) = true := by decide +kernel
/-- Queue 0 waits for a semaphore at VA 0x40 to reach 9; it holds v. -/
def semaphore (v : Nat) : State :=
  ((commanded []).writeBytes 1 0x40 (le8 v)).changeQueue 0 fun c => { c with busy := true, cmd := [2, 0x40, 9, 0, 0, 0, 0, 0] }
theorem witness_Semaphores :
    (match (semaphore 9).ventRead 0 0 false 0x40 8 with | .ok (_, bs, bad) => !bad && natLE bs == 9 | .error _ => false) = true ∧
    (match ((semaphore 9).markPoison 0x40 4).ventRead 0 0 false 0x40 8 with | .ok (_, _, bad) => bad | .error _ => false) = true ∧
    (match (semaphore 8).ventRead 0 0 false 0x40 8 with | .ok (t, bs, bad) => !bad && natLE bs == 8 && fine (t.ventTranslate 0 0 .load false 0x40) | .error _ => false) = true ∧
    (let s := (semaphore 8).changeQueue 0 fun c => { c with watch := some ⟨0, 1, 7, none, false⟩ }
     let t : State := { s with vent := [{ queue := 0, ask := .doorbell }, { queue := 0, ask := .semaphore }] }
     regionOf 0 ≠ .host ∧ (s.queue 0).watch = some ⟨0, 1, 7, none, false⟩ ∧ (s.line 0).interval ≠ 7 ∧ t.ventTurn 0 .semaphore = true ∧
       (s.line 0).interval = 0 ∧ (s.line 0).kid = 1 ∧ s.ventTurn 0 .semaphore = false) ∧
    (let m : Monitor := ⟨2 ^ 41, 0, 0, none, false⟩
     regionOf (m.line * 128) = .host ∧ ((semaphore 8).queue 0).polled + 1000 ≤ ({ semaphore 8 with rtime := 1000 } : State).rtime.toNat) ∧
    (let c := (semaphore 8).queue 0
     fine ((semaphore 8).ventWrite c.part c.asid true (c.slot c.head + 56) (bytesLE 8 0) []) = true) := by and_intros <;> decide +kernel
/-- A descriptor is read, and the machine can hold its bundle. -/
def launches (s : State) : Bool :=
  match s.readDesc 0 false 0x1000 false with
  | some (v, d) => d.stages.length == 1 && d.storage == 0 && !v.neverFits 0 d
  | none => false
theorem witness_Launches : (commands { replayed [1, 0x1000] with bundles := [] } fun t w => !w.malformed && w.op == 1 && t.storageUsed == 0 &&
    !((replayed []).queue 0).mayStartSup (t.queue 0).head.toNat && launches (t.takeCommand 0 w)) = true := by decide +kernel
theorem witness_StorageIsShort :
    (let q : QueueRec := { depth := 2 ^ 20, scalar := false, twin := 0, src := 0, dst := 0 }
     commands { replayed [1, 0x1000] with bundles := [{ bundle with desc := { bundle.desc with queues := [q] } }] } fun t w =>
       w.op == 1 && decide (storageSize < t.storageUsed) && launches t) = true := by decide +kernel
theorem witness_LaunchesEnd :
    (commands (replayed [1, 2 ^ 39]) fun t w => ((t.takeCommand 0 w).readDesc 0 false (w.word 1) false).isNone && (t.readDesc 0 false (w.word 1) false).isNone) = true ∧
    ({ run with parts := run.parts.set 0 { run.parts[0] with dies := 0 } } : State).neverFits 0 bundle.desc = true := by and_intros <;> decide +kernel
theorem witness_BundlesLive :
    ((bundle.stages.map fun x => { x with resident := 0, exited := 1 }).all fun x => { bundle with stages := [x] }.stageOver 0) = true ∧
    ({ run with vent := [{ queue := 0, ask := .doorbell }, { queue := 0, ask := .stageOver 1 0 }] } : State).ventTurn 0 (.stageOver 1 0) = true ∧
    run.ventTurn 0 (.stageOver 1 0) = false ∧
    (let b : Bundle := { bundle with retired := true }
     ({ run with bundles := [b] } : State).bundle 1 = some b ∧ ({ run with bundles := [b] } : State).endPhaseOver b = true) ∧
    (let b : Bundle := { bundle with stages := [{ pending := [], resident := 0, exited := 1, finished := true, goneClauses := 0, goneNoFlush := false }] }
     let s : State := { State.reset with bundles := [b] }
     s.bundle 1 = some b ∧ (b.stages.all (·.finished)) = true ∧ s.jobs = [] ∧ (s.parties.all fun p => p.bundle != 1) = true ∧ s.parts[0].full = true ∧
       (s.parts.set 0 { s.parts[0] with chkmode := 1 })[0].full = false) :=
  ⟨by decide +kernel, by decide +kernel, by decide +kernel, by decide +kernel, by decide +kernel⟩

/-- Bundle 1 with two crews of one gang, the one of these numbers pending. -/
def pending (c : Nat) : State :=
  let d : Desc := { bundle.desc with stages := [{ stageRec with gridN := 2, mq := false }] }
  { State.reset with bundles := [{ bundle with desc := d, stages := [{ pending := [c], resident := 0, exited := 0, finished := false, goneClauses := 0, goneNoFlush := false }] }] }
theorem witness_CrewsStart : ((pending 0).nextFor true 0 0).any (fun k => k.b.id == 1 && k.g == 0 && k.crew == 0 && !k.x.coresident) = true ∧
    ((stolen (pending 1) 0 0).any fun k => k.crew == 1) = true ∧ bundle.id ≠ 0 ∧ ((pending 0).bundle 1).any (fun z => z.stages.length == 1) = true ∧
    (let x : StageRec := { stageRec with coresident := true, gridN := 2, mq := false }
     ((pending 0).planFor bundle 0 x true [0, 1]).any (fun p => p.any fun k => k.1 == 1) = true ∧ [0, 1].length + 0 = x.gridN) := by
  and_intros <;> decide +kernel
/-- The crew has a request with this action, its gang at a vote boundary. -/
def asked (t a : Nat) : State := { withMe fun p => { p with port := .free } with crews := [{ crew with prmp := some (t, a) }] }
theorem witness_Preemption :
    (run.vent = [] ∧ run.ventTurn 0 (.preempt 1 0 0) = false ∧
      ({ run with vent := [{ queue := 0, ask := .preempt 1 0 0 }] } : State).ventTurn 0 (.preempt 1 0 0) = true ∧
      ({ run with vent := [{ queue := 0, ask := .semaphore }] } : State).ventTurn 0 (.preempt 1 0 0) = false) ∧
    (run.bundle 1).any (fun y => y.desc.stages.length == 1) = true ∧ run.concerned 1 0 0 = [crew] ∧ crew.prmp = none ∧ (run.parties.map (·.ident)).Nodup ∧
    (let s := asked 0 0
     s.ready 1 0 0 0 = s.crews ∧ s.allStopped s.crews = true ∧ (s.crews.all fun k => (s.partiesOf k).all (·.flushClear)) = true) ∧
    (let s := asked 0 2
     s.ready 1 0 0 2 = s.crews ∧ s.allStopped s.crews = true ∧ (s.crews.all fun k => s.messagesOut k && (s.partiesOf k).all (·.saveClear)) = true) ∧
    (({ asked 0 1 with rtime := 100000 } : State).concerned 1 0 0).any (fun k => k.prmp.any fun x => decide (x.1 + 100000 ≤ 100000)) = true ∧
    (let v : Saved := { stage := 0, crew := 0, record := crew, engine := none }
     let y : Bundle := { bundle with saved := [v] }
     let s : State := { withMe fun p => { p with port := .free, switchedOut := true } with crews := [], bundles := [y] }
     (y.saved.find? fun w => w.stage == 0 && w.crew == 0) = some v ∧ s.nowhere y stageRec 0 = false ∧ s.unitFits y 0 stageRec 0 = true ∧
       v.record.isOf s.me = true ∧ v.record.bundle ≠ 0) := by and_intros <;> decide +kernel
/-- The gang's stage has been stalled for 10 microseconds, and the next stage waits for its core. -/
def starving : State :=
  let q : QueueRec := { depth := 1, scalar := false, twin := 0, src := 0, dst := 1 }
  let late : StageRec := { stageRec with vreg := 116, crewN := 32, stash := 5, gridN := 1 }
  let d : Desc := { bundle.desc with stages := [stageRec, { late with crewN := 36 }], queues := [q] }
  { run with
    bundles := [{ bundle with
      desc := d, stages := bundle.stages ++ [{ pending := [0], resident := 0, exited := 0, finished := false, goneClauses := 0, goneNoFlush := false }]
      queues := [{ entries := [.vec .zero], closed := false, fullSince := some 0 }] }]
    rtime := 10000 }
theorem witness_QueueStall : (starving.bundle 1).any (fun y => starving.stalledStage y 0) = true ∧
    (starving.bundle 1).any (fun y => starving.starved y 0) = true := by and_intros <;> decide +kernel

theorem witness_PowerAndLinks :
    (let s : State := { run.changeDie 2 fun y => { y with busy := true, since := 0, relockEnd := none } with rtime := 1 }
     (s.die 2).busy = true ∧ (s.die 2).relockEnd = none ∧ (s.die 2).since < s.rtime.toNat) ∧
    (let s : State := { run.changeDie 2 fun y => { y with relockEnd := some 2001 } with rtime := 2001 }
     (s.die 2).relockEnd = some 2001 ∧ 2001 ≤ s.rtime.toNat) ∧
    (run.core 9).gated = false ∧ run.coreIdle 9 = true ∧
    ((run.changeCore 9 fun k => { k with gated := true }).core 9).gated = true ∧
    ((List.finRange 4).find? fun q => run.parts[q].dies.getLsbD (9 / 128)) = some 0 ∧ (run.die 1).failed = false := by and_intros <;> decide +kernel
theorem witness_Limits :
    ((run.die 2).busy = false ∧ ∀ t, (run.die 2).relockEnd ≠ some t) ∧
    (let s : State := { run.changeDie 2 fun y => { y with hotAt := some 0 } with rtime := 10000000 }
     (s.die 2).hotAt = some 0 ∧ 0 + 10000000 ≤ s.rtime.toNat ∧ s.start.powerAt + 1000000 ≤ s.rtime.toNat) ∧
    run.rtime.toNat < run.start.powerAt + 1000000 ∧ (run.parties.map (·.ident)).Nodup ∧
    (run.me.bundle ≠ 0 ∧ run.me.die = 0 ∧ run.me.switchedOut = false ∧ run.me.live ≠ 0) :=
  ⟨⟨by decide, fun _ => by simp only [show (run.die 2).relockEnd = none from rfl]; simp⟩, by and_intros <;> decide +kernel, by decide, by decide, by and_intros <;> decide⟩
theorem witness_OutsideAccesses :
    run.hdm 0 0x40 4 = some 0x40 ∧ inLine 0x40 4 ∧ run.hostWaits true 0x40 4 = false ∧ (run.die (run.homeOfPa 0x40)).failed = false ∧ noDiffering run 0 = true ∧ run.memOk ∧
    copying.hdm 0 0x100 4 = some 0x100 ∧ copying.hostWaits true 0x100 4 = true ∧
    (let w : PeerWindow := { pa := 0, len := 4096, kid := 1, write := true }
     let s : State := { run with ports := run.ports.set 3 { run.ports[3] with windows := run.ports[3].windows.set 0 (some w) } }
     s.ports[3].admits true 0x40 4 = some w ∧ s.ports[3].admits true 0x1000 4 = none ∧ s.hostWaits true 0x40 4 = false ∧
       ({ s with jobs := [job] } : State).hostWaits true 0x100 4 = true ∧ s.ports[3].admits true 0x100 4 = some w) ∧
    ((copying.hostRaces true 0x100 4).any fun r => r.2.bundle == 1) = true ∧ (copying.bundle 1).any (·.status == 0) = true ∧
    ((serving.core 0).mq[(1 : Fin 4)][0]?).isSome = true :=
  ⟨by decide, ⟨by decide, by decide⟩, by decide +kernel, by decide +kernel, rfl, ⟨rfl, rfl⟩, by decide, by decide +kernel, by decide +kernel,
    by decide +kernel, by decide +kernel, by decide +kernel⟩
theorem witness_PeerWindow :
    (let w : PeerWindow := { pa := 0, len := 4096, kid := 1, write := true }
     let s : State := { run with ports := run.ports.set 3 { run.ports[3] with windows := run.ports[3].windows.set 0 (some w) } }
     let a : PeerAccess := { port := 3, write := true, pa := 0x40, len := 4, data := [1, 2, 3, 4] }
     inLine a.pa (peerBytes a) ∧ windowFor s a = some w ∧ windowFor run a = none ∧
       windowFor { s with heldPeers := [a], ports := s.ports.set 3 { s.ports[3] with up := false } } a = some w) :=
  ⟨⟨by decide, by decide⟩, by decide +kernel, by decide +kernel, by decide +kernel⟩
/-- The firmware image in the flash is this one. -/
def flashed (x : Nat) (signed : Bool) (v : Nat) : State :=
  { run with security := { run.security with image := { run.security.image with key := run.security.image.key + x, signed, version := v }, minVersion := 1 } }
theorem witness_BadStarts : startable run ∧ startable (flashed 0 true 1) ∧ (flashed 1 true 1).security.image.key ≠ (flashed 1 true 1).security.rootKey ∧
    (flashed 0 false 1).security.image.signed = false ∧ (flashed 0 true 0).security.image.version < (flashed 0 true 0).security.minVersion ∧
    { run.start with plimit := 0 }.recordLegal = false ∧ { run.start with running := true }.running = true ∧ (6, 8) ∈ coldFaults ∧ (4, 3) ∉ coldFaults := by
  and_intros <;> decide
theorem witness_StartsRun : run.start.running = false ∧ run.start.force = false ∧
    (run.lines = [] ∧ (∀ q ∈ run.parties, q.pend = []) ∧ noDiffering run 0 = true) ∧
    (let s : State := { run with parts := run.parts.set 0 { run.parts[0] with dies := 3 } }
     s.parts[0].dies = 3 ∧ (3 : BitVec 4) ≠ 0 ∧ (3 : BitVec 4) ≠ 0xF) ∧ (∀ p : Fin 4, run.parts[p].dies ≠ 5) := by decide +kernel

/-- A 2 MiB leaf of cached host memory under key 9 with R, W and U. -/
def hostLeaf : BitVec 64 := 0x0241000000000B17
/-- ASID 5 is there beside ASID 0, with the same tables. -/
def admin : State := { run with spaces := run.spaces ++ [(5, { part := 0, root := 0x1FC0000000 })], kids := [(1, { part := some 0, live := true, gen := 1 }), (9, { part := some 0, live := true, gen := 2 })] }
theorem witness_TablesOk : tablesOk admin ∧ admin.tablePages.length + 5 ≤ admin.firmware[0].2 ∧ (diesOf admin.parts[0].dies).head? = some 0 :=
  ⟨⟨by unfold State.memOk Memory.wf; decide +kernel, fun _ => rfl, by decide, by decide, fun _ _ => ⟨rfl, rfl⟩⟩, by decide +kernel, by decide⟩
theorem witness_AddressSpaceRequests : (admin.adminFree (.ascreate 0) = true ∧ Tbl.get admin.spaces 6 = none ∧ admin.parts[0].dies ≠ 0) ∧
    (admin.adminFree (.asdestroy 5) = true ∧ (Tbl.get admin.spaces 5).isSome = true ∧ admin.asidUsed 5 = false) ∧
    (admin.adminFree (.map 5 0x200000 hostLeaf 1) = true ∧ 0x200000 % 2 ^ leafShift 1 = 0 ∧ pteBit hostLeaf 0 = true ∧ pteLeaf hostLeaf = true ∧
      pteBit hostLeaf 6 = false ∧ pteBit hostLeaf 7 = false ∧ admin.ownsKid 0 (pteKid hostLeaf) = true ∧ admin.mapAllowed 0 0x200000 1 hostLeaf = true ∧
      admin.homeConflict 0 1 hostLeaf = false ∧ admin.mapOverlaps 5 1 0x200000 = false ∧ (∀ d < 4, admin.pagesAfter 0 1 hostLeaf d ≤ diePages) ∧
      (admin.putLeaf 0 1 0x200000 hostLeaf 0x1FC0000000 5).isSome = true ∧
      ((admin.walkPath 5 0x200000).all fun pa => !pteBit (admin.entryAt pa) 0 || (List.range 5).all fun k => !malformed (admin.entryAt pa) k) = true ∧
      { gang with replayable := true }.replayable = true) ∧
    (admin.adminFree (.unmap 5 0 1) = true ∧ admin.leafAt 5 0 1 = some (0x1FC0003000, leaf) ∧ admin.claimPending (ptePa leaf) (2 ^ leafShift 1) = false ∧
      (claiming [0]).claimPending (ptePa leaf) (2 ^ leafShift 1) = true) ∧
    (let s : State := { run with mailbox := { run.mailbox with unmapping := some (0, 0, 1, leaf) } }
     s.unmapDrained 0 0 1 leaf = true ∧
       ({ s with others := [{ gang with ident := 9, pend := [pend (.load .zero 4 1) [acc 4 []]] }] } : State).unmapDrained 0 0 1 leaf = false) ∧
    (admin.adminFree (.keynew 0) = true ∧ Tbl.get admin.kids 8 = none) ∧
    (let s : State := admin
     s.adminFree (.keyretire 9) = true ∧ Tbl.get s.kids 9 = some { part := some 0, live := true, gen := 2 } ∧ (s.leaves.all fun y => pteKid y.2.2.2 != 9) = true ∧
       ∀ p : Fin 4, s.parts[p].dies = 0 ∨ s.parts[p].hostKid ≠ 9) := by
  and_intros <;> decide +kernel
theorem witness_OtherRequestsAndRegisterWrites :
    (let s : State := { State.reset with kids := [(1, { part := some 0, live := true, gen := 1 })] }
     s.adminFree (.partset [0xF, 0, 0, 0] [1, 0, 0, 0]) = true ∧ layoutLegal [0xF, 0, 0, 0] = true ∧ s.ownsKid 0 1 = true) ∧
    (admin.adminFree (.peeropen 3 0 4096 1 true) = true ∧ ((List.finRange 4).find? fun p => admin.parts[p].dies.getLsbD (3 / 4)) = some 0 ∧
      admin.ownsKid 0 1 = true ∧ regionOf 0 = .device ∧ admin.partOfPa 0 = some 0 ∧ admin.partOfPa 4095 = some 0 ∧ admin.ports[3].windows[0] = none) ∧
    (let s : State := { run with ports := run.ports.set 3 { run.ports[3] with windows := run.ports[3].windows.set 0 (some { pa := 0, len := 1, kid := 1, write := false }) } }
     s.adminFree (.peerclose 3 0) = true ∧ s.ports[3].windows[0].isSome = true ∧ s.peersWait 3 0 = false ∧
       ({ s with heldPeers := [{ port := 3, write := false, pa := 0, len := 1, data := [] }] } : State).peersWait 3 0 = true) ∧ run.adminFree (.dvfsset 1 11) = true ∧
    run.security.minVersion ≤ run.security.runVersion ∧ run.mailbox.request.length ≤ 64 ∧ run.mailbox.busy = false ∧ run.parts.toList.any (·.serving) = true ∧
    ((64 : BitVec 64).toNat % 64 = 0 ∧ (0x21 : BitVec 64).toNat % 16 = 1) := by and_intros <;> decide +kernel
theorem witness_DebugAndAttestation : run.targets 0 false = [] ∧
    (let s := run.changeDebug 0 fun d => { d with tgt := 7 }
     s.targets 0 true = [s.me] ∧ (s.parties.map (·.ident)).Nodup ∧ s.me.halted = false ∧
       (let u := s.setMe { s.me with halted := true }
        u.targets 0 false = [u.me] ∧ u.me.halted = true ∧ regionOf u.debug[0].buf = .device ∧ regionOf (u.debug[0].buf + 20991) = .device)) ∧
    (let s := run.changeDebug 0 fun d => { d with ctl := 9 }
     s.debugBit 0 3 = true ∧ s.debugBit 0 0 = true ∧ 4 * s.me.core + s.me.sched = 0 ∧ s.me.bundle ≠ 0 ∧ s.me.port.held = true ∧
       ((List.finRange 4).find? fun p => s.parts[p].dies.getLsbD (0 / 512)) = some 0) ∧
    (run.debug[0].sink.tail.toNat < (16 : BitVec 64).toNat ∧ (0 : BitVec 64).toNat ≤ run.debug[0].sink.tail.toNat ∧ run.debug[0].jrn.tail.toNat < (16 : BitVec 64).toNat) ∧
    ({ run with picked := some (0, []) } : State).picked = some (0, []) ∧ run.debugBit 0 7 = false ∧ run.pick.isSome = true ∧ run.security.leafEnd + 256 ≤ 2 ^ 30 ∧
    (let x : Security := { run.security with leafNext := 2 ^ 30, leafEnd := 2 ^ 30 }
     x.leafEnd ≤ x.leafNext ∧ 2 ^ 30 < x.leafEnd + 256) := by and_intros <;> decide +kernel

theorem witness_EncodeDecode : (Instr.slit false (.s 55) .hi 9).cls = some .un ∧ (Instr.slit false (.s 55) .hi 9).wf = true ∧
    (0 < runPort.hdr.n ∧ runPort.hdr.n < 16) := by decide
theorem witness_DecodedWordEncodesBack : (decodeWord .ct 0x30000005 none).toOption = some (.trap false 5) ∧
    (decodeHeader 0x22A0FF00).toOption.map (·.n) = some 2 := by decide
theorem witness_StepRunsTheDecodedWord : coded.agenda = [] ∧ coded.slot ≠ .spent ∧
    (let s := coded.setMe { coded.me with port := { coded.me.port with hdr := { coded.me.port.hdr with cls := .ct } } }
     s.canIssue = true ∧ s.me.port.micro = none ∧ s.me.port.words[s.me.port.idx]? = some 0 ∧
       (decodeWord s.me.port.hdr.cls 0 s.me.port.words[s.me.port.idx + 1]?).toOption = some (.bra { w := false, p := 0, n := false, off := 0 }) ∧
       leaves (exec (.bra { w := false, p := 0, n := false, off := 0 }) s.startWord) (fun _ => true) = true) ∧
    (let s := run.setMe { run.me with port := { run.me.port with words := List.replicate 15 0x7E000000 } }
     s.canIssue = true ∧ s.me.port.words[s.me.port.idx]? = some 0x7E000000 ∧ (decodeWord s.me.port.hdr.cls 0x7E000000 (some 0x7E000000)).toOption = none) ∧
    (let m : Micro := { slot := 0, hdr := runPort.hdr, words := [0x60185678], idx := 0, active := 1 }
     let s := run.setMe { run.me with port := { run.me.port with micro := some m } }
     s.canIssue = true ∧ (decodeWord m.hdr.cls 0x60185678 none).toOption = some (.movi false (.v 6) 0x5678)) := by and_intros <;> decide +kernel
/-- A machine without partitions, in which nothing is due. -/
def idle : State := { State.reset with parts := Vector.replicate 4 { State.reset.parts[0] with dies := 0 } }
theorem witness_NothingDue : idle.dueEvent = none := by
  have h : idle.events = [.gangRetire 0xFFFFFFFFFFFFFFFF] := by decide +kernel
  have e : exec (.gangRetire 0xFFFFFFFFFFFFFFFF) idle = .next idle := rfl
  have f : idle.fires (.gangRetire 0xFFFFFFFFFFFFFFFF) = false := by unfold State.fires; rw [e]; simp
  have p : idle.placeEvent = none := by decide +kernel
  unfold State.dueEvent
  rw [h, p]
  simp only [List.find?, f]
  rfl
theorem witness_StepTakesEvents :
    (let s : State := { State.reset with agenda := [.syncPeriodic 7, .nop false, .vote 0] }
     s.relockDue = none ∧ (Instr.syncPeriodic 7).cls = none ∧ (Instr.nop false).cls ≠ none) ∧
    ({ State.reset.changeDie 2 (fun y => { y with busy := true, relockEnd := some 0 }) with agenda := [.vote 0] } : State).relockDue = some (.relockEnd 2) ∧
    (idle.canIssue = false ∧ idle.relockDue = none ∧ idle.agenda = []) ∧
    (let s := between.setMe { between.me with tdead := 0 }
     s.canIssue = false ∧ s.agenda = [] ∧ s.relockDue = none) := by and_intros <;> decide +kernel
theorem witness_StepTakesDueEvents : (between.setMe { between.me with tdead := 0 }).dueEvent = some (.timerExpiry 7) := by decide +kernel
theorem witness_TimePasses : run.trail = [] ∧ run.start.running = false ∧ (∀ p : Fin 4, run.debug[p].ctl = 0) ∧ run.expiring (run.capTicks ((run.die 0).ticks 8)) = [] := by
  and_intros <;> decide +kernel
theorem witness_StepKeepsMemory : State.reset.memOk ∧ leaves (step run) (fun _ => true) = true := ⟨⟨rfl, rfl⟩, by decide +kernel⟩

end Sys2Proof.Tests
end

section
/-! PROOFS. The backdrop: what no access, performed at whatever depth, changes of the state, and the same for a line that is cleaned to its home. -/

namespace Sys2Proof.Machine

open Sys2Proof

/-- A bundle but for the first status that was recorded for it. -/
def Bundle.unmarked (b : Bundle) : Bundle := { b with status := 0 }

/-- What performing accesses and cleaning lines changes nothing of: the host's side, the layout, keys and address spaces, jobs, and of each bundle
all but its status. Everything else stands at a fixed value. -/
def State.backdrop (s : State) : State :=
  { s with
    me := .vacant, others := [], fresh := 0, mem := [], poison := [], lines := [], records := [], uses := [], clocks := [],
    dies := Vector.replicate 4 (.initial 0), cores := [], crews := [], bundles := s.bundles.map Bundle.unmarked, queues := [], vent := []
    nextGen := 0, debug := Vector.replicate 4 .initial, traceSeqs := [], trail := [] }

theorem State.rtime_of_backdrop {s t : State} (h : t.backdrop = s.backdrop) : t.rtime = s.rtime :=
  show t.backdrop.rtime = s.backdrop.rtime by rw [h]
theorem State.mailbox_of_backdrop {s t : State} (h : t.backdrop = s.backdrop) : t.mailbox = s.mailbox :=
  show t.backdrop.mailbox = s.backdrop.mailbox by rw [h]

/-- Steps that keep the backdrop keep it one after the other. -/
theorem foldl_backdrop {α : Type} {f : State → α → State} (h : ∀ t x, (f t x).backdrop = t.backdrop) (xs : List α) (s : State) :
    (xs.foldl f s).backdrop = s.backdrop := by
  induction xs generalizing s with
  | nil => rfl
  | cons x xs ih => rw [List.foldl_cons, ih, h]

/-- `foldl_backdrop` for steps that collect something beside the state. -/
theorem foldl_fst_backdrop {α β : Type} {f : State × β → α → State × β} (h : ∀ x a, (f x a).1.backdrop = x.1.backdrop) (xs : List α)
    (x : State × β) : (xs.foldl f x).1.backdrop = x.1.backdrop := by
  induction xs generalizing x with
  | nil => rfl
  | cons a xs ih => rw [List.foldl_cons, ih, h]

theorem backdrop_of_eq {β : Type} {s t : State} {x : State × β} {b : β} (hx : x = (t, b)) (h : x.1.backdrop = s.backdrop) :
    t.backdrop = s.backdrop := by
  subst hx; exact h

/-! ### Single updates -/

@[simp] theorem State.setMe_backdrop (s : State) (p : Party) : (s.setMe p).backdrop = s.backdrop := rfl
@[simp] theorem State.changeCore_backdrop (s : State) (n : Nat) (f : Core → Core) : (s.changeCore n f).backdrop = s.backdrop := rfl
@[simp] theorem State.changeDie_backdrop (s : State) (d : Nat) (f : Die → Die) : (s.changeDie d f).backdrop = s.backdrop := rfl
@[simp] theorem State.changeLine_backdrop (s : State) (n : Nat) (f : Line → Line) : (s.changeLine n f).backdrop = s.backdrop := rfl
@[simp] theorem State.changeCrew_backdrop (s : State) (p : Party) (f : Crew → Crew) : (s.changeCrew p f).backdrop = s.backdrop := rfl
@[simp] theorem State.changeDebug_backdrop (s : State) (p : Fin 4) (f : Debug → Debug) : (s.changeDebug p f).backdrop = s.backdrop := rfl
@[simp] theorem State.tick_backdrop (s : State) (u : Nat) : (s.tick u).backdrop = s.backdrop := rfl
@[simp] theorem State.ticks_backdrop (s : State) (u k : Nat) : (s.ticks u k).backdrop = s.backdrop := rfl
@[simp] theorem State.message_backdrop (s : State) (u v : Nat) : (s.message u v).backdrop = s.backdrop := rfl
@[simp] theorem State.markPoison_backdrop (s : State) (a n : Nat) : (s.markPoison a n).backdrop = s.backdrop := rfl
@[simp] theorem State.keepRecords_backdrop (s : State) (rs : List Sinter) : (s.keepRecords rs).backdrop = s.backdrop := rfl
@[simp] theorem State.noteUses_backdrop (s : State) (who : Ident) (part : Fin 4) (job : Option Nat) (unit : Nat) (write : Bool)
    (ns : List (Nat × Nat × Reached)) : (s.noteUses who part job unit write ns).backdrop = s.backdrop := rfl
@[simp] theorem State.noteUse_backdrop (s : State) (u n : Nat) (who : Ident) (t : Nat) : (s.noteUse u n who t).backdrop = s.backdrop := rfl
@[simp] theorem State.noteWrite_backdrop (s : State) (n : Nat) : (s.noteWrite n).backdrop = s.backdrop := rfl
@[simp] theorem State.noteWindow_backdrop (s : State) (p : Party) (a : LaneAcc) (w : Bool) : (s.noteWindow p a w).backdrop = s.backdrop := rfl
@[simp] theorem State.putTentative_backdrop (s : State) (p : Party) (a : LaneAcc) : (s.putTentative p a).backdrop = s.backdrop := rfl
@[simp] theorem State.logAccess_backdrop (s : State) (p : Party) (e : Pend) : (s.logAccess p e).backdrop = s.backdrop := rfl
@[simp] theorem State.hearClose_backdrop (s : State) (above u k : Nat) : (s.hearClose above u k).backdrop = s.backdrop := rfl
@[simp] theorem State.hearOpen_backdrop (s : State) (above u k : Nat) : (s.hearOpen above u k).backdrop = s.backdrop := rfl

@[simp] theorem State.changeParty_backdrop (s : State) (i : Ident) (f : Party → Party) : (s.changeParty i f).backdrop = s.backdrop := by
  unfold State.changeParty; split <;> rfl
@[simp] theorem State.changePend_backdrop (s : State) (i : Ident) (n : Nat) (f : Pend → Pend) : (s.changePend i n f).backdrop = s.backdrop :=
  State.changeParty_backdrop ..
@[simp] theorem State.injDone_backdrop (s : State) (i : Ident) : (s.injDone i).backdrop = s.backdrop := State.changeParty_backdrop ..
@[simp] theorem State.noteShared_backdrop (s : State) (i : Ident) (e : Pend) : (s.noteShared i e).backdrop = s.backdrop := by
  unfold State.noteShared; split <;> simp
@[simp] theorem State.touchMonitors_backdrop (s : State) (i : Ident) (n : Nat) : (s.touchMonitors i n).backdrop = s.backdrop := by
  unfold State.touchMonitors; extract_lets; split <;> rfl
@[simp] theorem State.emitFor_backdrop (s : State) (p : Fin 4) (src kind : Nat) (bs : List Byte) (m : LaneMask) :
    (s.emitFor p src kind bs m).backdrop = s.backdrop := by
  unfold State.emitFor; split <;> rfl
@[simp] theorem State.emit_backdrop (s : State) (p : Fin 4) (src kind : Nat) (bs : List Byte) : (s.emit p src kind bs).backdrop = s.backdrop :=
  State.emitFor_backdrop ..
@[simp] theorem State.journalEntry_backdrop (s : State) (p : Fin 4) (src : Nat) (e : JEntry) : (s.journalEntry p src e).backdrop = s.backdrop := by
  unfold State.journalEntry; split <;> rfl

/-- An update that a projection does not see leaves the projected list. -/
theorem map_updateFirst_eq {α β : Type} {g : α → β} {f : α → α} (h : ∀ x, g (f x) = g x) (test : α → Bool) (xs : List α) :
    (updateFirst test f xs).map g = xs.map g := by
  induction xs with
  | nil => rfl
  | cons x xs ih => unfold updateFirst; split <;> simp [h, ih]

@[simp] theorem State.recordStatus_backdrop (s : State) (b st : Nat) : (s.recordStatus b st).backdrop = s.backdrop := by
  have h : (s.recordStatus b st).bundles.map Bundle.unmarked = s.bundles.map Bundle.unmarked :=
    map_updateFirst_eq (fun x => by split <;> rfl) _ _
  exact congrArg (fun bs => { s.backdrop with bundles := bs }) h

@[simp] theorem State.afterDrop_backdrop (s : State) (p : Party) (e : Pend) : (s.afterDrop p e).backdrop = s.backdrop := by
  unfold State.afterDrop
  split
  · exact State.recordStatus_backdrop ..
  · rfl
  · rfl

@[simp] theorem State.dropDue_backdrop (s : State) (i : Ident) : (s.dropDue i).backdrop = s.backdrop := by
  unfold State.dropDue
  split
  · rfl
  · split
    · rfl
    · exact (foldl_backdrop (fun t e => t.afterDrop_backdrop _ e) _ _).trans (State.changeParty_backdrop ..)

/-! ### Bytes -/

@[simp] theorem State.adopt_backdrop (s : State) (kid n : Nat) : (s.adopt kid n).backdrop = s.backdrop := by
  unfold State.adopt; extract_lets; split <;> rfl
@[simp] theorem State.writeBytes_backdrop (s : State) (kid a : Nat) (bs : List Byte) : (s.writeBytes kid a bs).backdrop = s.backdrop := by
  unfold State.writeBytes
  split
  · rfl
  · exact foldl_backdrop (fun t n => t.adopt_backdrop kid n) _ _
@[simp] theorem State.putValue_backdrop (s : State) (kid n : Nat) (bs : List Byte) : (s.putValue kid n bs).backdrop = s.backdrop :=
  State.writeBytes_backdrop ..
@[simp] theorem State.writeOwn_backdrop (s : State) (u kid a : Nat) (bs : List Byte) : (s.writeOwn u kid a bs).backdrop = s.backdrop :=
  State.writeBytes_backdrop ..
@[simp] theorem State.writeAcc_backdrop (s : State) (a : LaneAcc) : (s.writeAcc a).backdrop = s.backdrop := State.writeBytes_backdrop ..
@[simp] theorem State.windowWrite_backdrop (s : State) (pa : Nat) (bs : List Byte) : (s.windowWrite pa bs).backdrop = s.backdrop := by
  unfold State.windowWrite
  split
  · unfold State.writeSlot; split <;> rfl
  · split <;> rfl

/-! ### Intervals of a line -/

@[simp] theorem State.lineClosed_backdrop (s : State) (n kid : Nat) (bs : List Byte) : (s.lineClosed n kid bs).backdrop = s.backdrop := by
  unfold State.lineClosed
  split
  · rfl
  · split
    · rfl
    · extract_lets _ _ _ _ t
      have ht : t.backdrop = s.backdrop := (State.journalEntry_backdrop ..).trans (State.changeDebug_backdrop ..)
      split
      · exact (State.emit_backdrop ..).trans ht
      · exact ht

@[simp] theorem State.newIntervalAt_backdrop (s : State) (n : Nat) (hs : List Holder) (lo hi : HostHalf) (what : Nat × SinterKind) :
    (s.newIntervalAt n hs lo hi what).backdrop = s.backdrop := by
  unfold State.newIntervalAt
  extract_lets l
  split
  · rfl
  · next value home above kids tops old host s1 s2 closes now s2' s3 l0 l1 s4 s5 opened l2 opens _ =>
    have h2 : s2.backdrop = s.backdrop :=
      (foldl_backdrop (fun t u => t.hearClose_backdrop ..) _ _).trans (foldl_backdrop (fun t u => t.hearClose_backdrop ..) _ _)
    have h2' : s2'.backdrop = s.backdrop := by
      unfold s2'; split
      · exact h2
      · exact (State.putValue_backdrop ..).trans h2
    have h3 : s3.backdrop = s.backdrop := by
      unfold s3; rw [State.tick_backdrop]; split
      · exact (State.lineClosed_backdrop ..).trans h2'
      · exact h2'
    have h5 : s5.backdrop = s3.backdrop :=
      (foldl_backdrop (fun t u => t.hearOpen_backdrop ..) _ _).trans (foldl_backdrop (fun t u => t.hearOpen_backdrop ..) _ _)
    rw [State.keepRecords_backdrop, State.changeLine_backdrop, h5, h3]

@[simp] theorem State.newInterval_backdrop (s : State) (n : Nat) (hs : List Holder) (what : Nat × SinterKind) :
    (s.newInterval n hs what).backdrop = s.backdrop := State.newIntervalAt_backdrop ..

@[simp] theorem State.newSub_backdrop (s : State) (n r : Nat) (hs : List Holder) (what : Nat × SinterKind) :
    (s.newSub n r hs what).backdrop = s.backdrop := by
  unfold State.newSub
  extract_lets l
  split
  · rfl
  · next value below s1 closes now s2 s3 opened l0 l1 opens _ =>
    have h1 : s1.backdrop = s.backdrop := foldl_backdrop (fun t h => t.hearClose_backdrop ..) _ _
    have h2 : s2.backdrop = s.backdrop := by
      unfold s2; rw [State.tick_backdrop]; split
      · exact h1
      · exact (State.putValue_backdrop ..).trans h1
    have h3 : s3.backdrop = s2.backdrop := foldl_backdrop (fun t h => t.hearOpen_backdrop ..) _ _
    rw [State.keepRecords_backdrop, State.changeLine_backdrop, h3, h2]

@[simp] theorem State.setHolders_backdrop (s : State) (n : Nat) (hs : List Holder) (what : Nat × SinterKind) :
    (s.setHolders n hs what).backdrop = s.backdrop := by
  unfold State.setHolders
  extract_lets
  split
  · exact State.newInterval_backdrop ..
  · exact foldl_backdrop (fun t r => by split <;> simp) _ _

@[simp] theorem State.dropCopies_backdrop (s : State) (n : Nat) : (s.dropCopies n).backdrop = s.backdrop := by
  unfold State.dropCopies; extract_lets; split <;> simp

@[simp] theorem State.endChain_backdrop (s : State) (n : Nat) : (s.endChain n).backdrop = s.backdrop := by
  unfold State.endChain
  extract_lets
  split
  · rfl
  · exact (State.keepRecords_backdrop ..).trans (State.hearClose_backdrop ..)

@[simp] theorem State.startChain_backdrop (s : State) (n kid : Nat) : (s.startChain n kid).backdrop = s.backdrop := by
  simp [State.startChain]

@[simp] theorem State.chain_backdrop (s : State) (n kid : Nat) : (s.chain n kid).backdrop = s.backdrop := by
  unfold State.chain; split <;> simp

@[simp] theorem State.recallHost_backdrop (s : State) (keep : List Nat) (pa len : Nat) (w : Bool) :
    (s.recallHost keep pa len w).backdrop = s.backdrop := by
  unfold State.recallHost; extract_lets; split <;> simp

@[simp] theorem State.release_backdrop (s : State) (u n : Nat) (kind : SinterKind) : (s.release u n kind).backdrop = s.backdrop := by
  unfold State.release; extract_lets; split <;> simp

@[simp] theorem State.evict_backdrop (s : State) (u k : Nat) : (s.evict u k).backdrop = s.backdrop := by
  induction k generalizing s with
  | zero => rfl
  | succ k ih =>
    unfold State.evict; extract_lets; split
    · exact (ih _).trans (State.release_backdrop ..)
    · rfl

@[simp] theorem State.makeRoom_backdrop (s : State) (u n : Nat) : (s.makeRoom u n).backdrop = s.backdrop := by
  unfold State.makeRoom; split <;> simp

@[simp] theorem State.countFill_backdrop (s : State) (pa d : Nat) : (s.countFill pa d).backdrop = s.backdrop := by
  unfold State.countFill; split <;> simp

@[simp] theorem State.cleanCopies_backdrop (s : State) (n : Nat) (test : Holder → Bool) : (s.cleanCopies n test).backdrop = s.backdrop :=
  State.setHolders_backdrop ..

@[simp] theorem State.homeLine_backdrop (s : State) (u n : Nat) : (s.homeLine u n).backdrop = s.backdrop := by
  simp [State.homeLine]

@[simp] theorem State.cmoLine_backdrop (s : State) (core : Nat) (op : CmoOp) (level n kid : Nat) :
    (s.cmoLine core op level n kid).backdrop = s.backdrop := by
  unfold State.cmoLine
  extract_lets l s0
  have h0 : s0.backdrop = s.backdrop := by unfold s0; split <;> simp
  split
  · rfl
  · split
    · exact (State.cleanCopies_backdrop ..).trans h0
    all_goals
      split
      · exact h0
      · exact (State.setHolders_backdrop ..).trans h0

@[simp] theorem State.salvageLine_backdrop (s : State) (core n kid : Nat) : (s.salvageLine core n kid).backdrop = s.backdrop := by
  unfold State.salvageLine; split <;> simp

@[simp] theorem State.holdBy_backdrop (s : State) (u : Nat) (remote : Option Nat) (die pa len kid : Nat) (w dual : Bool) :
    (s.holdBy u remote die pa len kid w dual).backdrop = s.backdrop := by
  unfold State.holdBy
  extract_lets n s00 s0 l was refilled shared tops kids give had home sent
  have h0 : s0.backdrop = s.backdrop := by
    unfold s0 s00
    rw [State.recallHost_backdrop, State.chain_backdrop, foldl_backdrop (fun t r => t.makeRoom_backdrop r n), State.makeRoom_backdrop]
  have hs (t : State) (v : Nat) : (sent t v).backdrop = t.backdrop := by unfold sent; split <;> simp
  split
  · split
    split
    · rw [hs, State.newInterval_backdrop, State.message_backdrop, h0]
    · split
      · rw [hs, State.changeLine_backdrop, h0]
      · rw [State.changeLine_backdrop, h0]
  · split
    extract_lets
    split
    extract_lets
    split
    · rw [hs, State.newInterval_backdrop, State.message_backdrop, State.message_backdrop, h0]
    · next t _ =>
      have ht : t.backdrop = s.backdrop := by
        unfold t; split
        · rw [State.newSub_backdrop, State.message_backdrop, h0]
        · rw [State.changeLine_backdrop, h0]
      split
      · exact (hs ..).trans ht
      · exact ht

@[simp] theorem State.hold_backdrop (s : State) (u c pa len kid : Nat) (w : Bool) : (s.hold u c pa len kid w).backdrop = s.backdrop :=
  State.holdBy_backdrop ..

/-! ### Performing -/

@[simp] theorem State.injFlip_backdrop (s : State) (p : Party) (n kid : Nat) : (s.injFlip p n kid).backdrop = s.backdrop := by
  simp [State.injFlip]
@[simp] theorem State.injDual_backdrop (s : State) (p : Party) (a : LaneAcc) : (s.injDual p a).backdrop = s.backdrop := by
  simp [State.injDual]
@[simp] theorem State.fill_backdrop (s : State) (p : Party) (pa len kid : Nat) (w : Bool) : (s.fill p pa len kid w).backdrop = s.backdrop := by
  unfold State.fill; extract_lets; split <;> simp +zetaDelta

section
variable {act : State → State} (h : ∀ t, (act t).backdrop = t.backdrop)
include h

theorem State.atHome_backdrop (s : State) (u pa len kid : Nat) (w whole : Bool) :
    (s.atHome u pa len kid w whole act).1.backdrop = s.backdrop := by
  unfold State.atHome
  extract_lets n
  split
  · exact h s
  · next home t0 t kept t1 r t2 _ =>
    have ht : t.backdrop = s.backdrop := by unfold t t0; split <;> simp
    have h2 : t2.backdrop = s.backdrop := by
      unfold t2 t1; rw [h, State.tick_backdrop, State.newInterval_backdrop, ht]
    exact (State.message_backdrop ..).trans ((State.setHolders_backdrop ..).trans h2)

theorem State.inCache_backdrop (s : State) (p : Party) (a : LaneAcc) (k : Touch) : (s.inCache p a k act).1.backdrop = s.backdrop := by
  unfold State.inCache
  extract_lets n write s0 remote shared s2
  have h2 : s2.backdrop = s.backdrop := by
    unfold s2 s0; split <;> simp
  split
  · exact (State.message_backdrop ..).trans ((h _).trans h2)
  · exact (h _).trans h2

theorem State.reach_backdrop (s : State) (p : Party) (a : LaneAcc) (k : Touch) (home whole : Bool) :
    (s.reach p a k home whole act).1.backdrop = s.backdrop := by
  unfold State.reach
  extract_lets n _ x
  have hx : x.1.backdrop = s.backdrop := by
    unfold x; split
    · exact h _
    · split
      · exact State.atHome_backdrop h ..
      · exact State.inCache_backdrop h ..
  dsimp only
  split
  · exact (State.touchMonitors_backdrop ..).trans hx
  · exact hx

end

@[simp] theorem State.loadLane_backdrop (s : State) (p : Party) (e : Pend) (a : LaneAcc) : (s.loadLane p e a).1.backdrop = s.backdrop := by
  have h := s.reach_backdrop (act := id) (fun _ => rfl) p a .read (atHomeAccess p a) false
  unfold State.loadLane
  dsimp only
  split
  · exact h
  · exact h

@[simp] theorem State.loadLanes_backdrop (s : State) (p : Party) (e : Pend) (as : List LaneAcc) :
    (s.loadLanes p e as).1.backdrop = s.backdrop := by
  unfold State.loadLanes
  exact foldl_fst_backdrop (fun x a => by exact x.1.loadLane_backdrop p e a) _ _

@[simp] theorem State.storeLane_backdrop (s : State) (p : Party) (a : LaneAcc) : (s.storeLane p a).1.backdrop = s.backdrop := by
  unfold State.storeLane
  split
  · exact State.windowWrite_backdrop ..
  · split
    · rfl
    · exact State.reach_backdrop (fun t => by split <;> simp) ..

@[simp] theorem State.storeLanes_backdrop (s : State) (p : Party) (as : List LaneAcc) : (s.storeLanes p as).1.backdrop = s.backdrop := by
  unfold State.storeLanes
  exact foldl_fst_backdrop (fun x a => by exact x.1.storeLane_backdrop ..) _ _

@[simp] theorem State.atomLane_backdrop (s : State) (p : Party) (e : Pend) (op : AtomOp) (x new : Word) (a : LaneAcc) :
    (s.atomLane p e op x new a).1.backdrop = s.backdrop := by
  unfold State.atomLane
  extract_lets home whole t0 old bad r put
  have hp (t : State) : (put t).backdrop = t.backdrop := by
    unfold put
    split
    · split
      · rfl
      · split <;> simp
    · rfl
  have hr := s.reach_backdrop hp p a .atomic home whole
  dsimp only
  split
  · exact hr
  · exact hr

@[simp] theorem State.atomLanes_backdrop (s : State) (p : Party) (e : Pend) (op : AtomOp) (x new : Lanes Word) (as : List LaneAcc) :
    (s.atomLanes p e op x new as).1.backdrop = s.backdrop := by
  unfold State.atomLanes
  exact foldl_fst_backdrop (fun y a => by exact y.1.atomLane_backdrop ..) _ _

@[simp] theorem State.arriveAt_backdrop (s : State) (p : Party) (e : Pend) (a : LaneAcc) : (s.arriveAt p e a).1.backdrop = s.backdrop := by
  unfold State.arriveAt
  extract_lets home t0 bytes word arrived full put
  have hp (t : State) (k : Nat) (w : Word) : (put t k w).backdrop = t.backdrop := by
    unfold put; split <;> simp
  exact State.reach_backdrop (fun t => by split <;> simp [hp]) ..

@[simp] theorem State.stampAll_backdrop (s : State) (p : Party) (as : List LaneAcc) : (s.stampAll p as).1.backdrop = s.backdrop := rfl

@[simp] theorem State.contain_backdrop (s : State) (i : Ident) (drew : Bool) (d : Drawn) (v : Verdict) (at0 : Nat) :
    (s.contain i drew d v at0).backdrop = s.backdrop := by
  unfold State.contain
  extract_lets
  split
  · split
    · simp
    · extract_lets _ _ s1
      have h1 : s1.backdrop = s.backdrop := State.changeParty_backdrop ..
      split
      · exact (State.recordStatus_backdrop ..).trans h1
      · exact (State.dropDue_backdrop ..).trans h1
  · split <;> simp

@[simp] theorem State.drawing_backdrop (s : State) (p : Party) (e : Pend) : (s.drawing p e).backdrop = s.backdrop := by
  unfold State.drawing
  extract_lets ns unit r s0 s1
  have hr : r.backdrop = s.backdrop := by
    unfold r; split
    · exact foldl_backdrop (fun t x => t.noteUses_backdrop ..) _ _
    · rfl
  have h0 : s0.backdrop = s.backdrop := by
    unfold s0; split
    · exact hr
    · exact hr
  have h1 : s1.backdrop = s.backdrop := by
    unfold s1; split
    · exact h0
    · exact (foldl_backdrop (fun t x => by split <;> simp) _ _).trans h0
  split
  · exact h1
  · split
    · split
      · exact (foldl_backdrop (fun t x => t.changeLine_backdrop ..) _ _).trans h1
      · exact h1
    · exact h1

@[simp] theorem State.noteAtomic_backdrop (s : State) (p : Party) (e : Pend) : (s.noteAtomic p e).backdrop = s.backdrop := by
  unfold State.noteAtomic
  split
  · exact foldl_backdrop (fun t k => by extract_lets; split <;> simp +zetaDelta) _ _
  · rfl

@[simp] theorem State.performedAll_backdrop (s : State) (p : Party) (e : Pend) (bound : Option (List VReg)) (fl : BitVec 32) :
    (s.performedAll p e bound fl).backdrop = s.backdrop := by
  unfold State.performedAll
  extract_lets whole mark
  split
  · simp
  · next t1 _ =>
    have h1 : t1.backdrop = s.backdrop := by unfold t1; split <;> rfl
    simp [h1]

@[simp] theorem State.performedSome_backdrop (s : State) (p : Party) (e : Pend) (now rest : List LaneAcc)
    (vals : List (Fin 32 × List Byte × List Bool)) (fl : BitVec 32) : (s.performedSome p e now rest vals fl).backdrop = s.backdrop :=
  State.changePend_backdrop ..

@[simp] theorem State.performNow_backdrop (s : State) (i : Ident) (n : Nat) (m : LaneMask) : (s.performNow i n m).backdrop = s.backdrop := by
  unfold State.performNow
  split
  · rfl
  · next p e _ =>
    split
    next now rest _ =>
    split
    · rfl
    · extract_lets done
      have hd (t : State) (bs : List LaneAcc) (bound : Option (List VReg)) (fl : BitVec 32) : (done t bs bound fl).backdrop = t.backdrop :=
        State.performedAll_backdrop ..
      have hf (t : State) (bs : List LaneAcc) (bound : Option (List VReg)) (vals : List (Fin 32 × List Byte × List Bool)) (fl : BitVec 32) :
          (if rest.isEmpty then done t bs bound fl else t.performedSome p e bs rest vals fl).backdrop = t.backdrop := by
        split
        · exact hd ..
        · exact State.performedSome_backdrop ..
      split
      case h_1 | h_3 =>
        split
        next hx => exact (hf ..).trans (backdrop_of_eq hx (State.loadLanes_backdrop ..))
      case h_2 =>
        split
        · split
          next hx => exact (hd ..).trans (backdrop_of_eq hx (State.loadLane_backdrop ..))
        · exact hd ..
      case h_4 =>
        split
        next hx => exact (hd ..).trans (backdrop_of_eq hx (State.loadLanes_backdrop ..))
      case h_5 =>
        split
        · split
          next hx =>
            exact (hd ..).trans ((State.changeParty_backdrop ..).trans (backdrop_of_eq hx (State.loadLane_backdrop ..)))
        · exact hd ..
      case h_6 =>
        split
        next hx =>
          exact (hf ..).trans (backdrop_of_eq hx ((State.atomLanes_backdrop ..).trans (State.noteShared_backdrop ..)))
      case h_7 =>
        split
        next hx => exact (hf ..).trans (backdrop_of_eq hx (State.storeLanes_backdrop ..))
      case h_8 =>
        split
        · split
          next hx => exact (hd ..).trans (backdrop_of_eq hx ((State.arriveAt_backdrop ..).trans (State.noteShared_backdrop ..)))
        · exact hd ..
      case h_9 =>
        split
        next hx =>
          refine (hd ..).trans ((foldl_backdrop (fun t a => ?_) _ _).trans (backdrop_of_eq hx (State.stampAll_backdrop ..)))
          split <;> simp
      case h_10 =>
        split
        next hx =>
          exact (hd ..).trans ((foldl_backdrop (fun t a => t.homeLine_backdrop ..) _ _).trans
            (backdrop_of_eq hx (State.stampAll_backdrop ..)))
      case h_11 => rfl
      case h_12 => exact hd ..

@[simp] theorem State.performDeep_backdrop (k : Nat) (s : State) (i : Ident) (n : Nat) (rel : Bool) (m : LaneMask) :
    (State.performDeep k s i n rel m).backdrop = s.backdrop := by
  induction k generalizing s i n rel m with
  | zero => rfl
  | succ k ih =>
    unfold State.performDeep
    split
    · rfl
    · split
      · exact State.dropDue_backdrop ..
      · split
        · rfl
        · extract_lets before s1 s2 blocked
          have h2 : s2.backdrop = s.backdrop :=
            (foldl_backdrop (fun t x => ih t ..) _ _).trans (foldl_backdrop (fun t x => ih t ..) _ _)
          split
          · exact h2
          · exact (State.performNow_backdrop ..).trans h2

@[simp] theorem State.perform_backdrop (s : State) (i : Ident) (n : Nat) (rel : Bool) : (s.perform i n rel).backdrop = s.backdrop :=
  State.performDeep_backdrop ..

/-! ### Cleaning the lines of some dies (R395) -/

theorem State.bundle_part_of_backdrop {s t : State} (h : t.backdrop = s.backdrop) {b : Bundle} (hb : b ∈ t.bundles) :
    ∃ c ∈ s.bundles, c.part = b.part := by
  have hm : t.bundles.map Bundle.unmarked = s.bundles.map Bundle.unmarked :=
    show t.backdrop.bundles = s.backdrop.bundles by rw [h]
  obtain ⟨c, hc, hcb⟩ := List.mem_map.mp (hm ▸ List.mem_map_of_mem hb)
  exact ⟨c, hc, show c.unmarked.part = b.unmarked.part by rw [hcb]⟩

@[simp] theorem State.drainDies_backdrop (s : State) (m : BitVec 4) : (s.drainDies m).backdrop = s.backdrop :=
  foldl_backdrop (fun t _ => foldl_backdrop (fun u _ => u.perform_backdrop ..) _ t) _ _

@[simp] theorem State.hostClean_backdrop (s : State) (m : BitVec 4) : (s.hostClean m).backdrop = s.backdrop :=
  foldl_backdrop (fun t _ => t.newIntervalAt_backdrop ..) _ _

@[simp] theorem State.salvageClean_backdrop (s : State) (m : BitVec 4) : (s.salvageClean m).backdrop = s.backdrop := by
  refine foldl_backdrop (fun t x => ?_) _ _
  obtain ⟨n, l⟩ := x
  dsimp -zeta only
  extract_lets t1 t2
  have h2 : t2.backdrop = t.backdrop := by
    unfold t2; split
    · rfl
    · exact State.newIntervalAt_backdrop ..
  split
  · exact h2
  · exact h2
  · exact h2

end Sys2Proof.Machine
end

section
/-! PROOFS. Requests of the mailbox about partitions, peer windows, frequency and the security version (R360, R361, R363, R371). -/

namespace Sys2Proof.Machine

open Sys2Proof

/-! ### Little-endian fields (R3) -/

@[simp] theorem bytesLE_length (k n : Nat) : (bytesLE k n).length = k := by
  induction k generalizing n with
  | zero => rfl
  | succ k ih => rw [bytesLE, List.length_cons, ih]

theorem natLE_bytesLE (k n : Nat) : natLE (bytesLE k n) = n % 256 ^ k := by
  induction k generalizing n with
  | zero => rw [bytesLE, natLE, Nat.pow_zero, Nat.mod_one]
  | succ k ih => rw [bytesLE, natLE, ih, BitVec.toNat_ofNat, show 256 ^ (k + 1) = 256 * 256 ^ k from Nat.pow_succ', Nat.mod_mul]

/-- The i-th of some 64-bit words written one after the other. -/
theorem field64_words (ws : List Nat) (i : Nat) (h : ∀ w ∈ ws, w < 2 ^ 64) : field64 (ws.flatMap le8) (8 * i) = ws.getD i 0 := by
  induction ws generalizing i with
  | nil => simp [field64, natLE]
  | cons w ws ih =>
    have hw : w < 256 ^ 8 := h w List.mem_cons_self
    have hl : (le8 w).length = 8 := bytesLE_length 8 w
    cases i with
    | zero =>
      rw [List.flatMap_cons, field64, Nat.mul_zero, List.drop_zero, List.take_append_of_le_length (Nat.le_of_eq hl.symm),
        List.take_of_length_le (Nat.le_of_eq hl), le8, natLE_bytesLE, Nat.mod_eq_of_lt hw, List.getD_cons_zero]
    | succ i =>
      rw [List.flatMap_cons, field64, List.drop_append, hl, List.drop_of_length_le (by omega), List.nil_append,
        show 8 * (i + 1) - 8 = 8 * i by omega]
      exact ih i fun w hw => h w (List.mem_cons_of_mem _ hw)

/-- The bytes of the request area with 64 bits written at o. -/
def spliced (a : List Byte) (o v : Nat) : List Byte := a.take o ++ bytesLE 8 v ++ a.drop (o + 8)

theorem field64_spliced_same {a : List Byte} {o v : Nat} (ho : o ≤ a.length) (hv : v < 2 ^ 64) : field64 (spliced a o v) o = v := by
  have hl : (a.take o).length = o := List.length_take_of_le ho
  have hd : (spliced a o v).drop o = bytesLE 8 v ++ a.drop (o + 8) := by
    rw [spliced, List.append_assoc, List.drop_append, List.drop_of_length_le (Nat.le_of_eq hl), hl, Nat.sub_self, List.drop_zero, List.nil_append]
  rw [field64, hd, List.take_append_of_le_length (by simp), List.take_of_length_le (by simp), natLE_bytesLE]
  exact Nat.mod_eq_of_lt hv

theorem getElem?_spliced {a : List Byte} {o v i : Nat} (ho : o + 8 ≤ a.length) (hi : i < o ∨ o + 8 ≤ i) : (spliced a o v)[i]? = a[i]? := by
  have hl : (a.take o).length = o := List.length_take_of_le (by omega)
  rw [spliced, List.append_assoc]
  rcases hi with hi | hi
  · rw [List.getElem?_append_left (by omega), List.getElem?_take_of_lt hi]
  · rw [List.getElem?_append_right (by omega), hl, List.getElem?_append_right (by simp; omega), bytesLE_length, List.getElem?_drop]
    congr 1; omega

theorem field64_spliced_ne {a : List Byte} {o v i : Nat} (ho : o + 8 ≤ a.length) (hi : i + 8 ≤ o ∨ o + 8 ≤ i) :
    field64 (spliced a o v) i = field64 a i := by
  have h : ((spliced a o v).drop i).take 8 = (a.drop i).take 8 := by
    ext1 j
    by_cases hj : j < 8
    · rw [List.getElem?_take_of_lt hj, List.getElem?_take_of_lt hj, List.getElem?_drop, List.getElem?_drop, getElem?_spliced ho (by omega)]
    · rw [List.getElem?_take_eq_none (by omega), List.getElem?_take_eq_none (by omega)]
  rw [field64, field64, h]

/-! ### Serving a request -/

/-- A request that is free to be served is answered by what it comes to. -/
theorem State.admin_ok {s : State} {i : Instr} (hf : s.adminFree i = true) (t : State) (r : List DWord) :
    s.admin i (.ok (t, r)) = .next (t.answer 0 r) := by
  simp [State.admin, hf]

/-- A condition that holds refuses nothing. -/
theorem need_bind {α : Type} {c : Bool} (h : c = true) (k : Nat) (f : Unit → Except Nat α) : (need c k >>= f) = f () := by
  subst h; rfl

/-- A request that leaves the mailbox alone is answered with result 0 by its response. -/
theorem served_answer {s t : State} (h : t.mailbox = s.mailbox) (r : List DWord) : Claims.served s (t.answer 0 r) r :=
  ⟨rfl, rfl, rfl, congrArg (·.seq + 1) h⟩

/-- Where something is free, the firmware finds it. -/
theorem State.pickFree_mem (s : State) {free : List Nat} {n : Nat} (h : n ∈ free) : ∃ k ∈ free, s.pickFree free = some k := by
  have hl : 0 < free.length := List.length_pos_of_mem h
  have hi : Config.pick s.fresh % Nat.max 1 free.length < free.length := by
    have hm : Nat.max 1 free.length = free.length := Nat.max_eq_right hl
    rw [hm]; exact Nat.mod_lt _ hl
  exact ⟨_, List.getElem_mem hi, List.getElem?_eq_getElem hi⟩

/-! ### What a warm start of some dies does to the work on them -/

/-- The dies of a mask begin anew, with the partitions that `pick` names: their work ends and their lines are written home (R363, R395). -/
def State.renewDies (s : State) (m : BitVec 4) (pick : Fin 4 → Bool) : State :=
  ((((s.warmBegin m pick false).hostClean m).salvageClean m).applyBoard m).clearDies m pick false

theorem State.cleaned_backdrop (s : State) (m : BitVec 4) : ((s.hostClean m).salvageClean m).backdrop = s.backdrop := by
  rw [State.salvageClean_backdrop, State.hostClean_backdrop]

@[simp] theorem State.applyBoard_rtime (s : State) (m : BitVec 4) : (s.applyBoard m).rtime = s.rtime := rfl
@[simp] theorem State.applyBoard_mailbox (s : State) (m : BitVec 4) : (s.applyBoard m).mailbox = s.mailbox := rfl
@[simp] theorem State.applyBoard_bundles (s : State) (m : BitVec 4) : (s.applyBoard m).bundles = s.bundles := rfl
@[simp] theorem State.clearDies_rtime (s : State) (m : BitVec 4) (pick : Fin 4 → Bool) (whole : Bool) :
    (s.clearDies m pick whole).rtime = s.rtime := rfl
@[simp] theorem State.clearDies_mailbox (s : State) (m : BitVec 4) (pick : Fin 4 → Bool) (whole : Bool) :
    (s.clearDies m pick whole).mailbox = s.mailbox := rfl
@[simp] theorem State.clearDies_bundles (s : State) (m : BitVec 4) (pick : Fin 4 → Bool) (whole : Bool) :
    (s.clearDies m pick whole).bundles = s.bundles := rfl

@[simp] theorem State.warmBegin_rtime (s : State) (m : BitVec 4) (pick : Fin 4 → Bool) (whole : Bool) :
    (s.warmBegin m pick whole).rtime = s.rtime := by
  show (s.drainDies m).rtime = s.rtime
  exact State.rtime_of_backdrop (State.drainDies_backdrop s m)
/-- A start of part of the package leaves the mailbox (R416). -/
@[simp] theorem State.warmBegin_mailbox (s : State) (m : BitVec 4) (pick : Fin 4 → Bool) :
    (s.warmBegin m pick false).mailbox = s.mailbox := by
  show (s.drainDies m).mailbox = s.mailbox
  exact State.mailbox_of_backdrop (State.drainDies_backdrop s m)
theorem State.warmBegin_bundles (s : State) (m : BitVec 4) (pick : Fin 4 → Bool) (whole : Bool) :
    (s.warmBegin m pick whole).bundles = (s.drainDies m).bundles.filter fun b => !pick b.part := rfl

theorem State.renewDies_rtime (s : State) (m : BitVec 4) (pick : Fin 4 → Bool) : (s.renewDies m pick).rtime = s.rtime := by
  rw [State.renewDies, State.clearDies_rtime, State.applyBoard_rtime, State.rtime_of_backdrop (State.cleaned_backdrop ..),
    State.warmBegin_rtime]

theorem State.renewDies_mailbox (s : State) (m : BitVec 4) (pick : Fin 4 → Bool) : (s.renewDies m pick).mailbox = s.mailbox := by
  rw [State.renewDies, State.clearDies_mailbox, State.applyBoard_mailbox, State.mailbox_of_backdrop (State.cleaned_backdrop ..),
    State.warmBegin_mailbox]

/-- No bundle of a partition that begins anew is left (R363). -/
theorem State.renewDies_bundles {s : State} {m : BitVec 4} {pick : Fin 4 → Bool} {b : Bundle} (hb : b ∈ (s.renewDies m pick).bundles) :
    pick b.part = false := by
  rw [State.renewDies, State.clearDies_bundles, State.applyBoard_bundles] at hb
  obtain ⟨c, hc, hcb⟩ := State.bundle_part_of_backdrop (State.cleaned_backdrop ..) hb
  rw [State.warmBegin_bundles] at hc
  have hp : (!pick c.part) = true := (List.mem_filter.mp hc).2
  rw [← hcb]
  simpa using hp

/-! ### PARTSET (R363) -/

/-- A layout with its host KIDs is installed, and the partitions that `pick` names serve (R363). -/
def State.relaid (s : State) (ms : List (BitVec 4)) (ks : List Nat) (pick : Fin 4 → Bool) : State :=
  ({ s with parts := Vector.ofFn fun (p : Fin 4) => { s.parts[p] with dies := ms.getD p.val 0, hostKid := ks.getD p.val 0 } } : State).serve pick

section
variable (s : State) (ms : List (BitVec 4)) (ks : List Nat) (pick : Fin 4 → Bool)

@[simp] theorem State.relaid_rtime : (s.relaid ms ks pick).rtime = s.rtime := rfl
@[simp] theorem State.relaid_mailbox : (s.relaid ms ks pick).mailbox = s.mailbox := rfl
@[simp] theorem State.relaid_bundles : (s.relaid ms ks pick).bundles = s.bundles := rfl

theorem State.relaid_parts (p : Fin 4) :
    (s.relaid ms ks pick).parts[p] =
      { s.parts[p] with
        dies := ms.getD p 0, hostKid := ks.getD p 0, serving := if pick p then ms.getD p 0 != 0 else s.parts[p].serving } := by
  cases h : pick p <;> simp [State.relaid, State.serve, h]

end

/-- PARTSET accepted: its layout stands on a state in which the work of the partitions that change has ended (R363, R369). -/
theorem execPartset_ok {s : State} {ms : List (BitVec 4)} {ks : List Nat} (hf : s.adminFree (.partset ms ks) = true)
    (hl : layoutLegal ms = true) (hk : ks.length = 4) (ho : ∀ p : Fin 4, ms.getD p 0 = 0 ∨ s.ownsKid p (ks.getD p 0) = true)
    (hb : ∀ b ∈ s.bundles, ∀ d ∈ s.movedDies ms, s.parts[b.part].dies.getLsbD d = false) :
    ∃ (r : State) (changed : Fin 4 → Bool), execPartset ms ks s = .next ((r.relaid ms ks changed).answer 0 []) ∧
      (∀ p : Fin 4, changed p = (s.parts[p].dies != ms.getD p 0)) ∧
      r.rtime = s.rtime ∧ r.mailbox = s.mailbox ∧ ∀ b ∈ r.bundles, changed b.part = false := by
  unfold execPartset
  rw [need_bind (by simp [hl, hk]), need_bind (by simpa using ho), need_bind (by simpa using hb)]
  exact ⟨s.renewDies _ _, _, State.admin_ok hf _ _, fun _ => rfl, State.renewDies_rtime .., State.renewDies_mailbox ..,
    fun b hb => State.renewDies_bundles hb⟩

/-- PARTSET on a layout, KIDs and bundles that it accepts (R361, R363, R369). -/
theorem partset_serves {s : State} {ms : List (BitVec 4)} {ks : List Nat} (hf : s.adminFree (.partset ms ks) = true)
    (hl : layoutLegal ms = true) (hk : ks.length = 4) (ho : ∀ p : Fin 4, ms.getD p 0 = 0 ∨ s.ownsKid p (ks.getD p 0) = true)
    (hb : ∀ b ∈ s.bundles, ∀ d ∈ s.movedDies ms, s.parts[b.part].dies.getLsbD d = false) :
    ∃ t, exec (.partset ms ks) s = .next t ∧ Claims.served s t [] ∧ t.rtime = s.rtime ∧
      (∀ p : Fin 4, t.parts[p].dies = ms.getD p 0 ∧ t.parts[p].hostKid = ks.getD p 0 ∧
        (s.parts[p].dies ≠ ms.getD p 0 → t.parts[p].serving = decide (ms.getD p 0 ≠ 0) ∧ ∀ b ∈ t.bundles, b.part ≠ p)) := by
  obtain ⟨r, changed, he, hc, ht, hm, hg⟩ := execPartset_ok hf hl hk ho hb
  refine ⟨_, he, served_answer hm [], ht, fun p => ?_⟩
  have hp : ((r.relaid ms ks changed).answer 0 []).parts[p] = _ := r.relaid_parts ms ks changed p
  rw [hp]
  refine ⟨rfl, rfl, fun hd => ?_⟩
  have hcp : changed p = true := by rw [hc]; exact bne_iff_ne.mpr hd
  refine ⟨by rw [if_pos hcp, Bool.eq_iff_iff]; simp, fun b hbt hbp => ?_⟩
  have := hg b hbt
  rw [hbp, hcp] at this
  contradiction

/-! ### Peer windows (R371) -/

theorem setIfInBounds_of_lt {α : Type} {n i : Nat} (v : Vector α n) (h : i < n) (x : α) : v.setIfInBounds i x = v.set i x := by
  ext j hj
  simp [Vector.getElem_setIfInBounds, Vector.getElem_set]

/-- PEEROPEN accepted puts the window in a free place of its port (R371). -/
theorem peeropen_serves {s : State} {o : Fin 16} {pa len k : Nat} {rw : Bool} {p : Fin 4}
    (hf : s.adminFree (.peeropen o pa len k rw) = true) (hl : 0 < len)
    (hp : ((List.finRange 4).find? fun p => s.parts[p].dies.getLsbD (o.val / 4)) = some p) (hk : s.ownsKid p k = true)
    (hr : regionOf pa = .device) (hs : s.partOfPa pa = some p) (he : s.partOfPa (pa + len - 1) = some p)
    (hn : ∃ n : Fin 8, s.ports[o].windows[n] = none) :
    ∃ t n, exec (.peeropen o pa len k rw) s = .next t ∧ s.ports[o].windows[(n : Fin 8)] = none ∧ Claims.served s t [BitVec.ofNat 64 n] ∧
      t.ports = s.ports.set o { s.ports[o] with windows := s.ports[o].windows.set n (some { pa, len, kid := k, write := rw }) } ∧
      t.mem = s.mem := by
  obtain ⟨n, hn⟩ := hn
  have hfree (m : Nat) : m ∈ (List.range 8).filter (fun m => (s.ports[o].windows[m]?.getD none).isNone) ↔
      ∃ h : m < 8, s.ports[o].windows[m] = none := by
    by_cases h : m < 8 <;> simp [h]
  obtain ⟨m, hm, hpick⟩ := s.pickFree_mem ((hfree n).mpr ⟨n.isLt, hn⟩)
  obtain ⟨hm8, hmn⟩ := (hfree m).mp hm
  have ho : s.ports[o.val]? = some s.ports[o] := Vector.getElem?_eq_getElem o.isLt
  have hx : exec (.peeropen o pa len k rw) s = .next (({ s with
      ports := s.ports.set o { s.ports[o] with windows := s.ports[o].windows.set m (some { pa, len, kid := k, write := rw }) }
      fresh := s.fresh + 1 } : State).answer 0 [BitVec.ofNat 64 m]) := by
    show execPeeropen o pa len k rw s = _
    unfold execPeeropen
    rw [need_bind (by simp [hl]), hp]
    dsimp only
    rw [need_bind hk, need_bind (by simp [hr, hs, he]), ho]
    dsimp only
    rw [hpick]
    dsimp only
    rw [setIfInBounds_of_lt _ o.isLt, setIfInBounds_of_lt _ hm8]
    exact State.admin_ok hf _ _
  exact ⟨_, ⟨m, hm8⟩, hx, hmn, served_answer rfl _, rfl, rfl⟩

/-- PEERCLOSE with nothing admitted left to perform closes the window (R371). -/
theorem peerclose_serves {s : State} {o : Fin 16} {n : Fin 8} (hf : s.adminFree (.peerclose o n) = true)
    (hw : s.ports[o].windows[n].isSome = true) (hq : s.peersWait o n = false) :
    exec (.peerclose o n) s =
      .next (({ s with ports := s.ports.set o { s.ports[o] with windows := s.ports[o].windows.set n none } } : State).answer 0 []) := by
  have ho : s.ports[o.val]? = some s.ports[o] := Vector.getElem?_eq_getElem o.isLt
  show execPeerclose o n s = _
  unfold execPeerclose
  rw [hq, Bool.and_false, if_neg Bool.false_ne_true, ho]
  dsimp only
  rw [need_bind (by simp), need_bind (by simpa using hw), setIfInBounds_of_lt _ o.isLt, setIfInBounds_of_lt _ n.isLt]
  exact State.admin_ok hf _ _

/-! ### Requests that wait, DVFSSET and SVNSET (R360, R361) -/

/-- A PEERCLOSE held in the mailbox asks for itself (R360). -/
theorem adminRequest_peerclose (s : State) (o : Fin 16) (n : Fin 8) :
    adminRequest (s.awaitRequest [9, o, n]).mailbox.latched = some (.peerclose o n) := by
  have hw (i : Nat) : field64 (s.awaitRequest [9, o, n]).mailbox.latched (8 * i) = [9, o.val, n.val, 0, 0, 0, 0, 0].getD i 0 :=
    field64_words _ i (by simp; omega)
  simp only [adminRequest, hw]
  simp [adminArgs, rangeFrom]

theorem peerclose_waits {s : State} {o : Fin 16} {n : Fin 8} (hf : s.adminFree (.peerclose o n) = true) (hq : s.peersWait o n = true) :
    exec (.peerclose o n) s = .next (s.awaitRequest [9, o, n]) := by
  show execPeerclose o n s = _
  rw [execPeerclose, hf, hq, Bool.and_self, if_pos rfl]

theorem State.die_changeDie (s : State) (d : Fin 4) (f : Die → Die) : (s.changeDie d f).die d = f (s.die d) := by
  simp [State.die, State.changeDie]

/-- A request for another frequency makes a die busy; the die keeps its frequency until it relocks (R307). -/
theorem State.die_request (s : State) (d : Fin 4) (t x : Nat) :
    let y := (s.changeDie d fun y => y.request t x).die d
    y.req = x ∧ y.cur = (s.die d).cur ∧ (y.busy = true ↔ (s.die d).busy = true ∨ x ≠ (s.die d).cur) := by
  simp [State.die_changeDie, Die.request]

theorem dvfsset_serves {s : State} {d : Fin 4} {x : Nat} (hf : s.adminFree (.dvfsset d x) = true) (hx : x ≤ 11) :
    exec (.dvfsset d x) s = .next ((s.changeDie d fun y => y.request s.rtime.toNat x).answer 0 []) := by
  show execDvfsset d x s = _
  rw [execDvfsset, need_bind (by simpa using hx)]
  exact State.admin_ok hf _ _

theorem svnset_serves {s : State} (hf : s.adminFree (.svnset s.security.runVersion) = true)
    (hv : s.security.minVersion ≤ s.security.runVersion) :
    exec (.svnset s.security.runVersion) s = .next
      (({ s with security := { s.security with minVersion := s.security.runVersion } } : State).answer 0
        [BitVec.ofNat 64 s.security.runVersion]) := by
  show execSvnset _ s = _
  rw [execSvnset, need_bind (by simpa using hv)]
  exact State.admin_ok hf _ _

end Sys2Proof.Machine
end

section
/-! PROOFS. Registers of BAR0 as the host writes and reads them (R5, R6, R318, R360, R400, R417). -/

namespace Sys2Proof.Machine

open Sys2Proof

/-! ### Writes of BAR0 (R5, R318, R360, R400, R417) -/

theorem registerWrite_unaligned {o : Nat} (h : o % 8 ≠ 0) (v : BitVec 64) (s : State) : exec (.registerWrite o v) s = .next s := by
  show execRegisterWrite o v s = _
  simp [execRegisterWrite, h]

theorem registerWrite_aligned {o : Nat} (h : o % 8 = 0) (v : BitVec 64) (s : State) :
    exec (.registerWrite o v) s = .next (s.writeBar o v) := by
  show execRegisterWrite o v s = _
  simp [execRegisterWrite, h]

/-- An offset among the control blocks is a queue's (R318). -/
theorem State.writeBar_queue (s : State) {q k : Nat} (hq : q < 1024) (hk : k < 64) (v : BitVec 64) :
    s.writeBar (0x100000 + 64 * q + k) v = s.writeQcb q k v := by
  have hd : (0x100000 + 64 * q + k - 0x100000) / 64 = q := by omega
  have hm : (0x100000 + 64 * q + k - 0x100000) % 64 = k := by omega
  unfold State.writeBar
  iterate 4 rw [if_neg (by simp; omega)]
  rw [if_pos (by simp; omega), hd, hm]

/-- An offset among the debug windows is a partition's (R400). -/
theorem State.writeBar_debug (s : State) (p : Fin 4) {k : Nat} (hk : k < 0x800) (v : BitVec 64) :
    s.writeBar (0x3000 + 0x800 * p + k) v = s.writeDebug p k v := by
  have hd : (0x3000 + 0x800 * p + k - 0x3000) / 0x800 = p.val := by omega
  have hm : (0x3000 + 0x800 * p + k - 0x3000) % 0x800 = k := by omega
  have hp : Fin.ofNat 4 p.val = p := Fin.ofNat_val_eq_self p
  unfold State.writeBar
  iterate 3 rw [if_neg (by simp; omega)]
  rw [if_pos (by simp; omega), hd, hm, hp]

theorem natBits_low (n h : Nat) : natBits n h 0 = n % 2 ^ (h + 1) := by simp [natBits]

/-- START with OP 1 is a warm start of the package (R417, log 40). -/
theorem State.writeBar_start_package {v : BitVec 64} (h : v.toNat % 16 = 1) (s : State) :
    s.writeBar 0x1008 v = s.runStart true 0xF .done := by
  simp [State.writeBar, natBits_low, h]

/-- START with OP 2 is a warm start of the partition that has its dies, if there is one (R417, log 40). -/
theorem State.writeBar_start_partition {v : BitVec 64} (h : v.toNat % 16 = 2) (s : State) :
    exec (.warmStartPartition (BitVec.ofNat 4 (v.toNat / 16)) .done) s = .next (s.writeBar 0x1008 v) := by
  have hm : BitVec.ofNat 4 (natBits v.toNat 7 4) = BitVec.ofNat 4 (v.toNat / 16) := by
    apply BitVec.eq_of_toNat_eq; simp [natBits]
  have hb : natBits v.toNat 3 0 = 2 := (natBits_low _ _).trans h
  show execWarmStartPartition _ _ s = _
  simp only [execWarmStartPartition, State.writeBar, hb, hm, beq_self_eq_true, if_true]
  split <;> rfl

theorem Mailbox.area_length {m : Mailbox} (h : m.request.length ≤ 64) : m.area.length = 64 := by
  simp [Mailbox.area]; omega

theorem State.writeBar_request (s : State) {k : Nat} (hk : k < 8) (v : BitVec 64) :
    s.writeBar (0x2000 + 8 * k) v = { s with mailbox := { s.mailbox with request := spliced s.mailbox.area (8 * k) v.toNat } } := by
  have hd : 0x2000 + 8 * k - 0x2000 = 8 * k := by omega
  unfold State.writeBar
  rw [if_neg (by simp; omega), if_pos (by simp; omega), hd]
  rfl

theorem State.writeBar_go {v : BitVec 64} (hv : v.getLsbD 0 = true) {s : State} (hb : s.mailbox.busy = false)
    (hs : s.parts.toList.any (·.serving) = true) :
    s.writeBar 0x2088 v = if (adminRequest s.mailbox.area).isSome then
      { s with mailbox := { s.mailbox with busy := true, latched := s.mailbox.area } } else s.answer 1 [] := by
  have hw : s.writeBar 0x2088 v = s.go := if_pos hv
  rw [hw, State.go, hb, hs]
  cases adminRequest s.mailbox.area <;> rfl

theorem registerWrite_doorbell {q : Nat} (hq : q < 1024) (v : BitVec 64) (s : State) :
    exec (.registerWrite (0x100008 + 64 * q) v) s = exec (.doorbell q (v.truncate 32)) s := by
  rw [show 0x100008 + 64 * q = 0x100000 + 64 * q + 8 by omega, registerWrite_aligned (by omega), State.writeBar_queue s hq (by omega)]
  exact (if_pos hq).symm

/-- A write of BASE, which is a multiple of 64 (R318). -/
theorem registerWrite_base {q : Nat} (hq : q < 1024) {v : BitVec 64} (hv : v.toNat % 64 = 0) (s : State) :
    exec (.registerWrite (0x100000 + 64 * q) v) s = .next (s.changeQueue q fun c => { c with base := v }) := by
  rw [registerWrite_aligned (by omega)]
  exact congrArg _ ((s.writeBar_queue hq (k := 0) (by omega) v).trans (if_pos (beq_iff_eq.mpr hv)))

theorem State.queue_changeQueue (s : State) (q : Nat) (f : Qcb → Qcb) : (s.changeQueue q f).queue q = f (s.queue q) :=
  tbl_getD_set_self ..

theorem registerWrite_heads (p : Fin 4) (v : BitVec 64) (s : State) :
    exec (.registerWrite (0x3018 + 0x800 * p) v) s = exec (.sinkheadWrite p v) s ∧
      exec (.registerWrite (0x3040 + 0x800 * p) v) s = exec (.jrnheadWrite p v) s := by
  rw [show 0x3018 + 0x800 * p.val = 0x3000 + 0x800 * p + 0x18 by omega, show 0x3040 + 0x800 * p.val = 0x3000 + 0x800 * p + 0x40 by omega,
    registerWrite_aligned (by omega), registerWrite_aligned (by omega), State.writeBar_debug s p (by omega),
    State.writeBar_debug s p (by omega)]
  exact ⟨rfl, rfl⟩

/-- A write of the request area changes its own eight bytes and no others (R360). -/
theorem registerWrite_request {s : State} (hr : s.mailbox.request.length ≤ 64) {k : Nat} (hk : k < 8) (v : BitVec 64) :
    ∃ t, exec (.registerWrite (0x2000 + 8 * k) v) s = .next t ∧
      t = { s with mailbox := { s.mailbox with request := t.mailbox.request } } ∧ field64 t.mailbox.request (8 * k) = v.toNat ∧
      ∀ j < 8, j ≠ k → field64 t.mailbox.request (8 * j) = field64 s.mailbox.area (8 * j) := by
  have ha : s.mailbox.area.length = 64 := Mailbox.area_length hr
  refine ⟨_, (registerWrite_aligned (by omega) v s).trans (congrArg _ (s.writeBar_request hk v)), rfl, ?_, fun j hj hjk => ?_⟩
  · exact field64_spliced_same (by omega) v.isLt
  · exact field64_spliced_ne (by omega) (by omega)

/-! ### Reads of BAR0 (R5, R6) -/

theorem State.readBar_queue (s : State) {q k : Nat} (hq : q < 1024) (hk : k < 64) (h8 : k % 8 = 0) :
    s.readBar (0x100000 + 64 * q + k) = (s.queue q).read k := by
  have hd : (0x100000 + 64 * q + k - 0x100000) / 64 = q := by omega
  have hm : (0x100000 + 64 * q + k - 0x100000) % 64 = k := by omega
  unfold State.readBar
  dsimp only
  iterate 6 rw [if_neg (by simp; omega)]
  rw [if_pos (by simp; omega), hd, hm]

theorem State.readBar_debug (s : State) (p : Fin 4) {k : Nat} (hk : k < 0x800) (h8 : k % 8 = 0) :
    s.readBar (0x3000 + 0x800 * p + k) = s.readDebug p k := by
  have hd : (0x3000 + 0x800 * p + k - 0x3000) / 0x800 = p.val := by omega
  have hm : (0x3000 + 0x800 * p + k - 0x3000) % 0x800 = k := by omega
  have hp : Fin.ofNat 4 p.val = p := Fin.ofNat_val_eq_self p
  unfold State.readBar
  dsimp only
  iterate 5 rw [if_neg (by simp; omega)]
  rw [if_pos (by simp; omega), hd, hm, hp]

theorem fieldAt_low (v : Nat) : fieldAt 0 v = BitVec.ofNat 64 v := by simp [fieldAt]

theorem State.readBar_request (s : State) {k : Nat} (hk : k < 8) :
    s.readBar (0x2000 + 8 * k) = BitVec.ofNat 64 (field64 s.mailbox.area (8 * k)) := by
  have hd : 0x2000 + 8 * k - 0x2000 = 8 * k := by omega
  unfold State.readBar
  dsimp only
  rw [if_neg (by simp), if_neg (by simp; omega), if_pos (by simp; omega), hd, fieldAt_low]

/-- HEAD stands above TAIL in the word at offset 8 of a control block (R318). -/
theorem Qcb.read_heads (c : Qcb) : c.read 8 = (c.head ++ c.tail : BitVec 64) := by
  apply BitVec.eq_of_toNat_eq
  refine Eq.trans ?_ (BitVec.toNat_append c.head c.tail).symm
  have hh := c.head.isLt
  have ht := c.tail.isLt
  simp only [Qcb.read, fieldAt, BitVec.toNat_or, BitVec.toNat_ofNat, Nat.shiftLeft_eq, Nat.pow_zero, Nat.mul_one]
  rw [Nat.mod_eq_of_lt (by omega), Nat.mod_eq_of_lt (by omega)]

/-- What the host reads of a debug window's sink HEAD and of its command register (R400). -/
theorem State.readBar_window (s : State) (p : Fin 4) :
    s.readBar (0x3018 + 0x800 * p) = s.debug[p].sink.head ∧ s.readBar (0x3710 + 0x800 * p) = 0 := by
  rw [show 0x3018 + 0x800 * p.val = 0x3000 + 0x800 * p + 0x18 by omega, show 0x3710 + 0x800 * p.val = 0x3000 + 0x800 * p + 0x710 by omega,
    State.readBar_debug s p (by omega) (by omega), State.readBar_debug s p (by omega) (by omega)]
  exact ⟨rfl, rfl⟩

/-- What the host reads of a control block's BASE, and of its HEAD and TAIL (R318). -/
theorem State.readBar_control (s : State) {q : Nat} (hq : q < 1024) :
    s.readBar (0x100000 + 64 * q) = (s.queue q).base ∧
      s.readBar (0x100008 + 64 * q) = ((s.queue q).head ++ (s.queue q).tail : BitVec 64) := by
  rw [show 0x100008 + 64 * q = 0x100000 + 64 * q + 8 by omega, State.readBar_queue s hq (by omega) (by omega)]
  exact ⟨s.readBar_queue hq (k := 0) (by omega) (by omega), Qcb.read_heads _⟩

end Sys2Proof.Machine
end

section

open Sys2Proof Sys2Proof.Machine

/-- Settles O52: each request that is accepted comes to one answered state, and each register of BAR0 is found by its offset. -/
theorem otherRequestsAndRegisterWrites : Obligations.OtherRequestsAndRegisterWrites := by
  unfold Obligations.OtherRequestsAndRegisterWrites
  refine ⟨fun s ms ks hf hl hk ho hb => partset_serves hf hl hk ho hb,
    fun s o pa len k rw p hf hl hp hk hr hs he hn => peeropen_serves hf hl hp hk hr hs he hn,
    fun s o n hf hw => ⟨peerclose_serves hf hw, fun hq => ⟨_, peerclose_waits hf hq, rfl, rfl, rfl, adminRequest_peerclose s o n⟩⟩,
    ?_, fun s => svnset_serves, ?_, ?_⟩
  · intro s d x hf hx
    obtain ⟨hreq, hcur, hbusy⟩ := s.die_request d s.rtime.toNat x
    exact ⟨_, dvfsset_serves hf hx, served_answer rfl [], hreq, hcur, hbusy, rfl⟩
  · intro s o v
    exact ⟨fun h => registerWrite_unaligned h v s, fun q hq => registerWrite_doorbell hq v s,
      fun q hq hv => ⟨_, registerWrite_base hq hv s, State.queue_changeQueue ..⟩, fun p => registerWrite_heads p v s,
      fun h => (registerWrite_aligned rfl v s).trans (congrArg _ (State.writeBar_start_package h s)),
      fun h => (registerWrite_aligned rfl v s).trans (State.writeBar_start_partition h s).symm,
      fun k hk hr => registerWrite_request hr hk v,
      fun hv hb hs => (registerWrite_aligned rfl v s).trans (congrArg _ (State.writeBar_go hv hb hs))⟩
  · intro s
    exact ⟨rfl, rfl, fun k hk => s.readBar_request hk, fun q hq => s.readBar_control hq, s.readBar_window⟩

end
